-- ==== Sys2Proof/Word.lean ====
section
/-! DEFINITION. The plain words of the Jolkir 2C18: bytes and the fixed-width byte strings of chapter 6. -/

namespace Sys2Proof

/-- One byte on either serial link, in a frame or in the real flash. -/
abbrev Byte := BitVec 8

/-- A digest, 32 bytes (00_scope, "Digests and keys"; R116). -/
abbrev Digest := BitVec 256

/-- A 64-byte ECDSA P-256 public key, x then y, most significant byte first (R113). -/
abbrev PubKey := BitVec 512

/-- A 64-byte ECDSA P-256 signature, r then s, most significant byte first (R113). -/
abbrev Signature := BitVec 512

/-- The private key of slot 0 or the secret of slot 1, 32 bytes (R113). -/
abbrev Secret := BitVec 256

/-- The salt of a VERIFIER credential, 16 bytes (R141). -/
abbrev Salt := BitVec 128

end Sys2Proof
end

