-- ==== Sys2Proof/Syntax.lean ====
section
/-! DEFINITION. The commands of the 2C18: one constructor of `Instr` for each row of spec/opcode_table.json. A command is
one indivisible step of the part (spec/95). The rule of each row is named beside it. -/

namespace Sys2Proof

/-- The two management contexts (R172). -/
inductive Ctx where
  | c0
  | c1
  deriving DecidableEq, Repr

/-- How much of a transaction on the upstream link one command of the queue delivers (R21, R23). A transaction may be sent
whole, or in parts between which other events are taken. A byte slot is eight serial clocks on a single line, or the two
clocks of one byte of a QUAD OUTPUT FAST READ; the eight dummy clocks of a fast read are one byte slot. -/
inductive LinkStep where
  /-- HCS_N is asserted: the decoder goes from IDLE to OPCODE. -/
  | select
  /-- The eighth bit of the row's command byte is taken. -/
  | command
  /-- Byte slots after the command byte: address bytes, the dummy slot, data bytes in, or (values disregarded) data bytes out. -/
  | clock (bytes : List Byte)
  /-- HCS_N is released, after `stray` clocks of a byte that is not whole. -/
  | release (stray : Nat)
  /-- A whole transaction: select, command, the byte slots and the release. -/
  | transaction (bytes : List Byte) (stray : Nat)
  deriving DecidableEq, Repr

/-- The commands, in the order of spec/opcode_table.json. -/
inductive Instr where
  /-- POWER_ON (R54): the supply rises; `hcs` and `rstReq` say whether HCS_N and RST_REQ_N are asserted at that moment. -/
  | powerOn (hcs rstReq : Bool)
  /-- RESET_N_LOW (R47). -/
  | resetNLow
  /-- LINE_RESET (R48): RESET_N goes high again; `hcs` says whether HCS_N is asserted at that moment (R25). -/
  | lineReset (hcs : Bool)
  /-- RESTART_LINE (R49): RST_REQ_N is asserted. -/
  | restartLine
  /-- TICK (R128): the end of a millisecond; `presence` says whether PRESENCE_N is found asserted at it (R129). -/
  | tick (presence : Bool)
  /-- TRIAL_EXPIRY (R66). -/
  | trialExpiry
  /-- TRIAL_ALERT_RAISE (R109). -/
  | trialAlertRaise
  /-- IDLE_TIMEOUT (R96). -/
  | idleTimeout
  /-- TIMEOUT (R175) of one context. -/
  | timeout (c : Ctx)
  /-- REQUEST_BUSY_CAP_EXPIRY (R176) of one context. -/
  | requestBusyCapExpiry (c : Ctx)
  /-- PRESENCE_RELEASE (R65). -/
  | presenceRelease
  /-- PRESENCE_GRANT_OPEN (R157). -/
  | presenceGrantOpen
  /-- PRESENCE_GRANT_EXPIRY (R158). -/
  | presenceGrantExpiry
  /-- LOCKOUT_EXPIRY (R149) of one credential slot. -/
  | lockoutExpiry (slot : Fin 32)
  /-- REALERT_EXPIRY (R186). -/
  | realertExpiry
  /-- PULSE_END (R186). -/
  | pulseEnd
  /-- STAMP_WAIT_SERVE (R138). -/
  | stampWaitServe
  /-- READ (R32). -/
  | read (step : LinkStep)
  /-- FAST_READ (R32). -/
  | fastRead (step : LinkStep)
  /-- QUAD_OUTPUT_FAST_READ (R32). -/
  | quadOutputFastRead (step : LinkStep)
  /-- WRITE_ENABLE (R26). -/
  | writeEnable (step : LinkStep)
  /-- WRITE_DISABLE (R26). -/
  | writeDisable (step : LinkStep)
  /-- READ_STATUS (R29). -/
  | readStatus (step : LinkStep)
  /-- READ_IDENTIFICATION (R31). -/
  | readIdentification (step : LinkStep)
  /-- PAGE_PROGRAM (R34). -/
  | pageProgram (step : LinkStep)
  /-- SECTOR_ERASE (R35). -/
  | sectorErase (step : LinkStep)
  /-- BLOCK_ERASE (R35). -/
  | blockErase (step : LinkStep)
  /-- CHIP_ERASE (R24). -/
  | chipErase (step : LinkStep)
  /-- UNKNOWN_COMMAND (R24) with its command byte. -/
  | unknownCommand (code : Byte) (step : LinkStep)
  /-- SUBSTITUTE_ERASE_NEXT (R19); `took` says whether the real flash took the erase that ends (R37). -/
  | substituteEraseNext (took : Bool)
  /-- HOST_FORWARD_COMPLETE (R36); `took` as above. -/
  | hostForwardComplete (took : Bool)
  /-- CAPACITY_HANDOVER (R38) with the third identification byte of the real flash; `took` says whether an operation left
  from before RESET_N took effect. -/
  | capacityHandover (id : Byte) (took : Bool)
  /-- BACKGROUND_JOB_RUN (R42): the job starts or resumes, and reads up to `count` bytes short of its last. -/
  | backgroundJobRun (count : Nat)
  /-- BACKGROUND_READ_COMPLETE (R42). -/
  | backgroundReadComplete
  /-- CRYPTO_JOB_END (R118). -/
  | cryptoJobEnd
  /-- RETAINED_WRITE_TAKE (R188). -/
  | retainedWriteTake
  /-- RETAINED_WRITE_COMPLETE (R187). -/
  | retainedWriteComplete
  /-- HELD_END (R47). -/
  | heldEnd
  /-- PROVISIONING_CLAIM_GRANT (R122). -/
  | provisioningClaimGrant
  /-- IDENTITY_DRAW_DONE (R123). -/
  | identityDrawDone
  /-- INFO (R183): the owner takes the routed request of context `c`; so for every request below (R177). -/
  | info (c : Ctx)
  /-- CONTEXT_RESET (R182). -/
  | contextReset (c : Ctx)
  /-- RESTART (R50). -/
  | restart (c : Ctx)
  /-- ALERT_READ (R185). -/
  | alertRead (c : Ctx)
  /-- ALERT_SET (R185). -/
  | alertSet (c : Ctx)
  /-- CLOSE_BOOT_WINDOW (R72). -/
  | closeBootWindow (c : Ctx)
  /-- REGION_READ (R9). -/
  | regionRead (c : Ctx)
  /-- REGION_LOAD (R8). -/
  | regionLoad (c : Ctx)
  /-- WATCH_LOAD (R74). -/
  | watchLoad (c : Ctx)
  /-- WATCH_READ (R75). -/
  | watchRead (c : Ctx)
  /-- HITS_READ (R82). -/
  | hitsRead (c : Ctx)
  /-- EXTEND (R69). -/
  | extend (c : Ctx)
  /-- MEASURE_READ (R70). -/
  | measureRead (c : Ctx)
  /-- QUOTE (R161). -/
  | quote (c : Ctx)
  /-- CERT_READ (R126). -/
  | certRead (c : Ctx)
  /-- UPDATE_OPEN (R89). -/
  | updateOpen (c : Ctx)
  /-- STAGING_BANK (R90). -/
  | stagingBank (c : Ctx)
  /-- UPDATE_FINISH (R98). -/
  | updateFinish (c : Ctx)
  /-- UPDATE_STATUS (R104). -/
  | updateStatus (c : Ctx)
  /-- UPDATE_COMMIT (R105). -/
  | updateCommit (c : Ctx)
  /-- UPDATE_ABORT (R107). -/
  | updateAbort (c : Ctx)
  /-- BOOT_CONFIRM (R110). -/
  | bootConfirm (c : Ctx)
  /-- IDENTITY_GENERATE (R123). -/
  | identityGenerate (c : Ctx)
  /-- CERT_STORE (R125). -/
  | certStore (c : Ctx)
  /-- KEY_INJECT (R124). -/
  | keyInject (c : Ctx)
  /-- KEY_READ (R126). -/
  | keyRead (c : Ctx)
  /-- DERIVE (R120). -/
  | derive (c : Ctx)
  /-- LIFECYCLE_ADVANCE (R127). -/
  | lifecycleAdvance (c : Ctx)
  /-- TIME_SET (R133). -/
  | timeSet (c : Ctx)
  /-- TIME_READ (R135). -/
  | timeRead (c : Ctx)
  /-- CRED_LIST (R145). -/
  | credList (c : Ctx)
  /-- CRED_READ (R146). -/
  | credRead (c : Ctx)
  /-- CRED_RESERVE (R151). -/
  | credReserve (c : Ctx)
  /-- CRED_WRITE_COND (R154). -/
  | credWriteCond (c : Ctx)
  /-- CRED_COMPARE (R147). -/
  | credCompare (c : Ctx)
  /-- OWNER_WIPE (R159). -/
  | ownerWipe (c : Ctx)
  /-- POWER_LOSS (R48). -/
  | powerLoss
  /-- RST_REQ_N_DEASSERT (R49). -/
  | rstReqNDeassert
  /-- IGNORING_TRANSACTION_END (R25): HCS_N is released at the end of a transaction with no decoded command. -/
  | ignoringTransactionEnd
  deriving DecidableEq, Repr

end Sys2Proof
end

