-- ==== Sys2Proof/Decode.lean ====
section
/-! DEFINITION. The command that a word spells by the bits of spec/opcode_table.json. -/

namespace Sys2Proof

/-- No row of the table gives bits: a command of the 2C18 is an event at its pins, of its links or inside it, and no word
spells one (log entry 12). The command bytes of the upstream link are decoded in `Machine.LinkCmd.ofCode`. -/
def decodeTableWord (_nbits _w : Nat) : Option Instr := none

end Sys2Proof
end

