-- ==== Sys2Proof/Config.lean ====
section
/-! DEFINITION. What the manual leaves to the part or outside the manual: the cryptographic functions, the random
generator and the free values. Every constant here is opaque, so that no proof can rest on a value of it; of ECDSA P-256 the laws
that R116 states are kept. -/

namespace Sys2Proof

/-- The digest function, SHA-256 (R116): a byte string of any length gives 32 bytes. Its internals are outside the manual. -/
opaque Config.sha256 : List Byte → Digest

/-- The derivation function, HMAC-SHA-256 (R116): a 32-byte secret key and a message give 32 bytes. -/
opaque Config.hmac : Secret → List Byte → Digest

/-- The first half of a signature, r (R113). -/
def Signature.r (x : Signature) : BitVec 256 := x.extractLsb' 256 256

/-- The second half of a signature, s (R113). -/
def Signature.s (x : Signature) : BitVec 256 := x.extractLsb' 0 256

/-- Signatures that show that the laws of `Ecdsa` can hold together; the part's own are not these. -/
def Ecdsa.sample (draw : Nat) : Signature := (1 : BitVec 256) ++ BitVec.ofNat 256 (draw % 2 ^ 128 + 1)

theorem Ecdsa.sample_r (n : Nat) : (Ecdsa.sample n).r = 1 := BitVec.extractLsb'_append_eq_left

theorem Ecdsa.sample_s_toNat (n : Nat) : (Ecdsa.sample n).s.toNat = n % 2 ^ 128 + 1 := by
  have h : (Ecdsa.sample n).s = BitVec.ofNat 256 (n % 2 ^ 128 + 1) := BitVec.extractLsb'_append_eq_right
  rw [h, BitVec.toNat_ofNat]
  omega

theorem Ecdsa.sample_inRange (n : Nat) : (Ecdsa.sample n).r ≠ 0 ∧ (Ecdsa.sample n).s ≠ 0 := by
  refine ⟨by rw [Ecdsa.sample_r]; decide, fun e => ?_⟩
  have := Ecdsa.sample_s_toNat n
  simp [e] at this

theorem Ecdsa.sample_fresh (m n : Nat) (h : m < n) (h' : n < 2 ^ 128) : Ecdsa.sample m ≠ Ecdsa.sample n := by
  intro e
  have := Ecdsa.sample_s_toNat n
  rw [← e, Ecdsa.sample_s_toNat] at this
  omega

/-- ECDSA P-256 as R116 takes it: its functions, and the laws that R116 states of them. Signing and verifying work on the digest
of the message, and `n` numbers the fresh random draw of a signature. The defaults only show that such functions exist: the
scheme in use is `Config.ecdsa`, of which nothing but these laws is known (log entry 7). -/
structure Ecdsa where
  /-- Whether 64 bytes form a point of the curve: a predicate taken as given (R116). -/
  isPoint : PubKey → Bool := fun _ => true
  /-- Whether a 32-byte value is below the curve order: a predicate taken as given (R116). -/
  belowOrder : BitVec 256 → Bool := fun _ => true
  /-- The public part of a private key (R123). -/
  publicOf : Secret → PubKey := fun _ => 0
  /-- Signing: a private key, a digest and a draw give a signature. -/
  sign : Secret → Digest → Nat → Signature := fun _ _ n => Ecdsa.sample n
  /-- Whether a signature verifies over a digest with a key. -/
  verifies : PubKey → Digest → Signature → Bool := fun _ _ _ => true
  /-- A public part is a key that can verify. -/
  public_isPoint : ∀ k, isPoint (publicOf k) = true := by intro _; rfl
  /-- Both halves of a signature made are in range. -/
  sign_inRange : ∀ k d n, (sign k d n).r ≠ 0 ∧ (sign k d n).s ≠ 0 ∧ belowOrder (sign k d n).r = true ∧
      belowOrder (sign k d n).s = true := by
    exact fun _ _ n => ⟨(Ecdsa.sample_inRange n).1, (Ecdsa.sample_inRange n).2, rfl, rfl⟩
  /-- A signature made verifies with the public part of its key (R116). -/
  sign_verifies : ∀ k d n, verifies (publicOf k) d (sign k d n) = true := by intro _ _ _; rfl
  /-- Two signatures of different draws differ (R116). The bound is far above the draws of a part's life. -/
  sign_fresh : ∀ k d m n, m < n → n < 2 ^ 128 → sign k d m ≠ sign k d n := by
    exact fun _ _ => Ecdsa.sample_fresh
  deriving Inhabited

/-- The scheme of the part: uninterpreted but for the laws of R116. -/
opaque Config.ecdsa : Ecdsa

/-- Whether 64 bytes form a point of the curve (R116). -/
def Config.isPoint (pub : PubKey) : Bool := Config.ecdsa.isPoint pub

/-- Whether a 32-byte value is below the curve order (R116). -/
def Config.belowOrder (x : BitVec 256) : Bool := Config.ecdsa.belowOrder x

/-- Whether a signature with r and s in range verifies over a message's digest with a key on the curve (R116). -/
def Config.ecdsaVerifies (pub : PubKey) (d : Digest) (sig : Signature) : Bool := Config.ecdsa.verifies pub d sig

/-- Signing (R116): a private key, the digest of the message and the fresh random draw of this signature give 64 bytes. -/
def Config.ecdsaSign (k : Secret) (d : Digest) (draw : Nat) : Signature := Config.ecdsa.sign k d draw

/-- The public part of a private key (R123). -/
def Config.publicOf (k : Secret) : PubKey := Config.ecdsa.publicOf k

/-- The random generator of R116, as 32 bytes: draw number n. A FREE VALUE of each draw (log entry 6). -/
opaque Config.random32 : Nat → Secret

/-- The random generator of R116, as a 16-byte salt: draw number n. A FREE VALUE of each draw (log entry 6). -/
opaque Config.random16 : Nat → Salt

/-- FREE VALUE: what a byte of the real flash reads after a program over a byte that is not erased, from the old byte and
the programmed one. The manual gives the real flash's cells no such rule (log entry 4). -/
opaque Config.reprogrammed : Byte → Byte → Byte

/-- FREE VALUE: what a byte of the real flash reads after the supply fell away while an operation on it was running, from a
counter and the physical address (log entry 5). -/
opaque Config.interrupted : Nat → Nat → Byte

/-- FREE VALUE: the secret of slot 1 as a DERIVATION job finds it when slot 1 is EMPTY. R120 says this does not arise and
states no value (log entry 8). -/
opaque Config.absentSecret : Secret

/-- FREE VALUE: the six bytes UPDATE_STATUS gives for an inactivity deadline above FFFFFFFFFFFFh, which R104 gives no
form for (log entry 9). -/
opaque Config.overlongDeadline : Nat → BitVec 48

/-- FREE CHOICE: whether a quote whose stamp is the next one after a DEGRADE hit's is assembled before the hit's action
(R166; log entry 20). -/
opaque Config.quoteFirst : Nat → Bool

/-- FREE VALUE: the number of sector tracker entries while no region table is held, when there is no slot size to count
them from (R91; log entry 10). -/
opaque Config.trackerEntriesWithoutTable : Nat

end Sys2Proof
end

