-- ==== Sys2Proof/Machine/Bytes.lean ====
section
/-! DEFINITION. Byte strings: byte order, slices and fixed-width fields (00_scope, "Byte order"; R113). -/

namespace Sys2Proof.Machine

open Sys2Proof

/-- `k` bytes of a number, least significant first: the order of frame fields, manifests, descriptors and quotes. -/
def le : Nat → Nat → List Byte
  | 0, _ => []
  | k + 1, v => BitVec.ofNat 8 v :: le k (v / 256)

/-- The number a little-endian byte string holds. -/
def ofLe : List Byte → Nat
  | [] => 0
  | b :: bs => b.toNat + 256 * ofLe bs

/-- `k` bytes of a number, most significant first: the order of link addresses, keys, signatures and digests. -/
def be (k v : Nat) : List Byte := (le k v).reverse

/-- The number a big-endian byte string holds. -/
def ofBe (bs : List Byte) : Nat := ofLe bs.reverse

/-- `n` bytes from offset `off`. -/
def slice (bs : List Byte) (off n : Nat) : List Byte := (bs.drop off).take n

/-- The byte at an offset, 00h beyond the end. -/
def byteAt (bs : List Byte) (i : Nat) : Nat := (bs.getD i 0).toNat

/-- A little-endian field of `n` bytes at an offset. -/
def numAt (bs : List Byte) (off n : Nat) : Nat := ofLe (slice bs off n)

/-- `n` zero bytes. -/
def zeros (n : Nat) : List Byte := List.replicate n 0

/-- The 32 bytes of a digest. -/
def digestBytes (d : Digest) : List Byte := be 32 d.toNat

/-- A 64-byte field as a public key or signature (R113). -/
def wide (bs : List Byte) : BitVec 512 := BitVec.ofNat 512 (ofBe bs)

/-- The 64 bytes of a public key or signature (R113). -/
def wideBytes (w : BitVec 512) : List Byte := be 64 w.toNat

/-- A 32-byte field as a digest. -/
def digestOf (bs : List Byte) : Digest := BitVec.ofNat 256 (ofBe bs)

/-- One byte 00h or 01h for a flag. -/
def flagByte (b : Bool) : Byte := if b then 1 else 0

/-- Increase by 1, saturating at `top`. -/
def satInc (top n : Nat) : Nat := if n < top then n + 1 else n

/-- The values of a vector after a function (kernel-evaluable). -/
def vmap {α β : Type} {n : Nat} (f : α → β) (v : Vector α n) : Vector β n := ⟨(v.toList.map f).toArray, by simp⟩

/-- The values of two vectors after a function of both. -/
def vzip {α β γ : Type} {n : Nat} (f : α → β → γ) (v : Vector α n) (w : Vector β n) : Vector γ n :=
  ⟨(List.zipWith f v.toList w.toList).toArray, by simp⟩

end Sys2Proof.Machine
end

