-- ==== Sys2Proof/Machine/State.lean ====
section
/-! DEFINITION. The state of the 2C18, block by block (00_scope, "Block overview"), the reasons a step can stop, and the
state right after power-on of a part that has just left its own production. Plain data throughout. -/

namespace Sys2Proof.Machine

open Sys2Proof

/-! ## Small kinds of value -/

/-- The two firmware slots (R2). -/
inductive Slot where
  | a
  | b
  deriving DecidableEq, Repr

/-- One value for each firmware slot. -/
structure PerSlot (α : Type) where
  a : α
  b : α
  deriving DecidableEq, Repr

/-- One value for each management context (R172). -/
structure PerCtx (α : Type) where
  c0 : α
  c1 : α
  deriving DecidableEq, Repr

/-- The trust levels, in ascending order (00_scope, "Trust levels"; R84). -/
inductive Trust where
  | unverified
  | degraded
  | trial
  | verified
  deriving DecidableEq, Repr

/-- The lifecycle stage (R121). -/
inductive Stage where
  | manufacture
  | field
  deriving DecidableEq, Repr

/-- The region kinds (R3). -/
inductive Kind where
  | image
  | staging
  | data
  | locked
  | hidden
  deriving DecidableEq, Repr

/-- The command kinds of hit records (R73, R81). -/
inductive AccessKind where
  | read
  | program
  | erase
  deriving DecidableEq, Repr

/-! ## Region tables (R3, R189) -/

/-- A descriptor as laid out in chapter 11. The kind and flag bytes are kept as given (R189). -/
structure Descriptor where
  index : Nat
  kind : Nat
  flags : Nat
  writeMin : Nat
  base : Nat
  length : Nat
  offset : Nat
  deriving DecidableEq, Repr

/-- A region table: header and descriptors in the order given. `reserved` is header bytes 13 to 15, kept as given (R189). -/
structure Table where
  baseA : Nat
  baseB : Nat
  slotSize : Nat
  reserved : Nat
  descriptors : List Descriptor
  deriving DecidableEq, Repr

/-- What the translation unit holds in force (R6, R7). -/
inductive InForce where
  | none
  | identity
  | table (binding : Slot) (t : Table)
  deriving DecidableEq, Repr

/-- The translation unit (R6, R8, R13): the table in force, and whether a loaded binding waits for a host forward to complete. -/
structure Translation where
  inForce : InForce
  loadWaits : Bool
  deriving DecidableEq, Repr

/-! ## Retained records (R187) -/

/-- Key changes of a manifest (R97, R112): revoked slots and additions, as indices 0 to 3 of key slots 2 to 5. -/
structure KeyChanges where
  revocations : List (Fin 4)
  additions : List (Fin 4 × PubKey)
  deriving DecidableEq, Repr

/-- The states of a slot record (R56). -/
inductive SlotState where
  | empty
  | good
  | trial
  | rejected
  deriving DecidableEq, Repr

/-- A slot record (R56). -/
structure SlotRecord where
  state : SlotState
  version : Nat
  digest : Digest
  floorRaise : Bool
  changes : KeyChanges
  deriving DecidableEq, Repr

/-- The states of key slots 2 to 5 (R113). -/
inductive KeyState where
  | empty
  | active
  | revoked
  deriving DecidableEq, Repr

/-- The origins of a key slot (R113). -/
inductive Origin where
  | none
  | generated
  | injected
  | manifest
  deriving DecidableEq, Repr

/-- Key slots 2 to 5, of kind UPDATE_ROOT (R113). -/
structure UpdateKey where
  state : KeyState
  origin : Origin
  pub : PubKey
  deriving DecidableEq, Repr

/-- Key slot 0 while ACTIVE (R113); its origin is then GENERATED. -/
structure IdentityKey where
  priv : Secret
  pub : PubKey
  deriving DecidableEq, Repr

/-- What a SET credential holds as its value (R141). -/
inductive CredValue where
  | secret (bytes : List Byte)
  | verifier (salt : Salt) (digest : Digest)
  deriving DecidableEq, Repr

/-- The fields of a SET credential slot (R141). -/
structure CredContent where
  label : List Byte
  value : CredValue
  minTrust : Nat
  windowOnly : Bool
  notAfter : Option Nat
  deriving DecidableEq, Repr

/-- A credential slot record; no content is EMPTY (R141). -/
structure CredRecord where
  content : Option CredContent
  version : Nat
  deriving DecidableEq, Repr

/-- Every persistent record of the part (R187). -/
structure Retained where
  stage : Stage
  strict : Bool
  identity : Option IdentityKey
  derivation : Option Secret
  updateKeys : Vector UpdateKey 4
  certificate : Option (List Byte)
  tables : PerSlot (Option Table)
  selector : Slot
  pendingCommit : Bool
  pendingSlot : Slot
  attempts : Nat
  floor : Nat
  records : PerSlot SlotRecord
  bootCount : Nat
  creds : Vector CredRecord 32
  failCounts : Vector Nat 32
  ownerEpoch : BitVec 32
  serial : BitVec 128
  deriving DecidableEq, Repr

/-- The verified manifest of the session record (R87). -/
structure VerifiedManifest where
  version : Nat
  digest : Digest
  floorRaise : Bool
  changes : KeyChanges
  table : Option Table
  deriving DecidableEq, Repr

/-- Who asks the crypto engine for a job and the retained store for a write (R118, R188). -/
inductive Requester where
  | restart
  | intake
  | ctx (c : Ctx)
  deriving DecidableEq, Repr

/-- The writes and record groups of the retained store, each named by the rule that queues it. -/
inductive WriteKind where
  /-- R54: the boot count increment. -/
  | bootCount
  /-- R57: a pending commit is applied. -/
  | applyCommit
  /-- R58: one trial attempt is counted. -/
  | countAttempt
  /-- R58: the trial is reverted. -/
  | revert
  /-- R60, R61: a slot passed; `fallback` also writes the selector. -/
  | slotPass (slot : Slot) (version : Nat) (digest : Digest) (fallback : Bool)
  /-- R61: a slot failed. -/
  | slotReject (slot : Slot) (digest : Digest)
  /-- R89: UPDATE_OPEN empties the inactive slot's record. -/
  | openSession (openId : Nat)
  /-- R105: the pending-commit group. `table` is the table in force when the commit was accepted. -/
  | commit (m : VerifiedManifest) (table : Option Table) (restart : Bool)
  /-- R107: UPDATE_ABORT clears the pending flag. -/
  | clearPending
  /-- R111: the group of BOOT_CONFIRM. -/
  | confirm
  /-- R8: a loaded table in both bindings. -/
  | loadTable (t : Table)
  /-- R123: new identity key and derivation secret; the certificate is removed. -/
  | identity (key : IdentityKey) (secret : Secret)
  /-- R125: the certificate. -/
  | certificate (bytes : List Byte)
  /-- R124: an injected key. -/
  | injectKey (slot : Fin 4) (pub : PubKey)
  /-- R127: the stage becomes FIELD. -/
  | advance (strict : Bool)
  /-- R148: a match sets the fail count to 0. -/
  | resetFails (slot : Fin 32)
  /-- R148: a mismatch adds 1 to the fail count. -/
  | mismatch (slot : Fin 32) (version : Nat)
  /-- R155: the conditional write group. -/
  | credGroup (records : List (Fin 32 × Option CredContent))
  /-- R159: the owner wipe. -/
  | wipe
  deriving DecidableEq, Repr

/-- A queued write. `live` says that its request still waits for it (R52, R178). -/
structure Write where
  owner : Requester
  kind : WriteKind
  live : Bool
  deriving DecidableEq, Repr

/-- The write the store has taken, with the record values fixed at that moment (R188). -/
structure TakenWrite where
  write : Write
  values : Retained
  deriving DecidableEq, Repr

/-- The retained store (R187, R188). -/
structure Store where
  working : Retained
  nonvolatile : Retained
  queue : List Write
  taken : Option TakenWrite
  deriving DecidableEq, Repr

/-! ## The upstream link (R21 to R31) -/

/-- The eleven commands, and any other command byte (R22, R24). -/
inductive LinkCmd where
  | read
  | fastRead
  | quadRead
  | writeEnable
  | writeDisable
  | readStatus
  | pageProgram
  | sectorErase
  | blockErase
  | chipErase
  | readId
  | unknown (code : Byte)
  deriving DecidableEq, Repr

/-- The decoder states (R21). -/
inductive DecoderState where
  | idle
  | opcode
  | address
  | dummy
  | dataOut
  | dataIn
  | complete
  | ignoring
  deriving DecidableEq, Repr

/-- The decoder (R21) with what it holds of the transaction in progress. -/
structure Decoder where
  state : DecoderState
  /-- The command byte taken, as a command. -/
  cmd : Option LinkCmd
  /-- Address bytes clocked in so far, first byte first. -/
  addrBytes : List Byte
  /-- Logical address of the next data byte out, or the start address of a program or erase. -/
  addr : Nat
  /-- The start address sent with the command. -/
  start : Nat
  /-- The value and the region index of the read byte that has been translated and not yet driven (R11, R32). -/
  ahead : Option (Byte × Option Nat)
  /-- Data bytes clocked so far. -/
  count : Nat
  /-- Data bytes in, the last 256 of them (R15). -/
  data : List Byte
  /-- Each byte returned by a read: its logical address and its region index, or none for UNCOVERED (R33). -/
  returned : List (Nat × Option Nat)
  /-- IGNORING after a whole erase command: the erase is still performed at a byte boundary (R23). -/
  eraseStands : Bool
  /-- The bytes the part has driven on the upstream data lines in this transaction, or in the last one. -/
  out : List Byte
  deriving DecidableEq, Repr

/-- The upstream link interface (R21, R26, R27). -/
structure Link where
  decoder : Decoder
  wel : Bool
  refused : Bool
  deriving DecidableEq, Repr

/-! ## The storage link and the real flash (R37) -/

/-- A physical operation of a host forward (R37). -/
inductive FlashOp where
  | program (cells : List (Nat × Byte))
  | eraseSector (p : Nat)
  | eraseBlock (p : Nat)
  deriving DecidableEq, Repr

/-- The real flash: its contents, listed where they differ from the erased value FFh, and the operation of its busy
period. -/
structure Flash where
  mem : List Host.Cell
  busy : Option FlashOp
  deriving DecidableEq, Repr

/-- What a forward in the STAGING region tells the update intake (R93). -/
inductive StagingReport where
  | program (runs : List (Nat × List Byte))
  | erase (sectors : List Nat)
  deriving DecidableEq, Repr

/-- A host forward in progress (R28, R36, R37). -/
structure HostForward where
  kind : AccessKind
  /-- Logical start address of the report (R34, R35). -/
  start : Nat
  /-- The physical operations, in order. -/
  ops : List FlashOp
  /-- How many of them have completed. -/
  completed : Nat
  /-- The covered granules in ascending order, with the region index, or none under the identity map. -/
  granules : List (Nat × Option Nat)
  staging : Option StagingReport
  /-- Cleared when an entry into HELD overtakes the forward: no completion is reported (R41). -/
  reported : Bool
  deriving DecidableEq, Repr

/-- The link states (R37). -/
inductive LinkState where
  | idle
  | hostRead
  | hostForward
  | background
  deriving DecidableEq, Repr

/-- The users of background reads (R37). -/
inductive JobUser where
  | restart
  | update
  deriving DecidableEq, Repr

/-- The background read job (R37, R42). `running` is RUNNING, else WAITING. -/
structure BackgroundJob where
  user : JobUser
  start : Nat
  length : Nat
  next : Nat
  bytes : List Byte
  running : Bool
  deriving DecidableEq, Repr

/-- The storage link controller (R37, R38). -/
structure Storage where
  link : LinkState
  /-- Physical address the open physical read of the host would give next (R39). -/
  readAt : Option Nat
  forward : Option HostForward
  job : Option BackgroundJob
  /-- The capacity handed over; none during the start-up work (R38). -/
  capacity : Option Nat
  deriving DecidableEq, Repr

/-! ## Manifests and verification in progress -/

/-- The content of a manifest that passed its format check (R97). -/
structure Manifest where
  signer : Fin 4
  length : Nat
  version : Nat
  digest : Digest
  floorRaise : Bool
  changes : KeyChanges
  table : Option Table
  body : List Byte
  signature : Signature
  deriving DecidableEq, Repr

/-- The reading of an image in blocks and its running digest (R59, R102). -/
structure Pipe where
  /-- Slot offset of the next block not yet asked for. -/
  next : Nat
  /-- Slot offset after the image. -/
  stop : Nat
  /-- A whole block that waits for the crypto job ahead of it. -/
  waiting : Option (List Byte)
  /-- The digest state: every byte absorbed by the digest jobs that have ended. -/
  absorbed : List Byte
  /-- A digest job of the image is queued or running. -/
  jobOut : Bool
  deriving DecidableEq, Repr

/-! ## The restart controller (R46) -/

/-- The restart causes (R48, R64). -/
inductive Cause where
  | powerOn
  | lineReset
  | restartLine
  | restartRequest
  | commitRestart
  | trialExpiry
  | lifecycleChange
  | presenceRelease
  deriving DecidableEq, Repr

/-- Slot results of the outcome record (R64). -/
inductive SlotResult where
  | notTried
  | pass
  | manifestFormat
  | keyUnusable
  | signature
  | length
  | digest
  | rollback
  | trialExhausted
  deriving DecidableEq, Repr

/-- Halt reasons (R46, R64). -/
inductive HaltReason where
  | none
  | flashSize
  | noBootableSlot
  deriving DecidableEq, Repr

/-- The restart outcome record (R64). -/
structure Outcome where
  cause : Cause
  selected : Slot
  results : PerSlot SlotResult
  commitApplied : Bool
  reverted : Bool
  fallback : Bool
  attemptsLeft : Nat
  trust : Trust
  halt : HaltReason
  deriving DecidableEq, Repr

/-- The restart phase (R46). The halt reason is held while HALTED. -/
inductive Phase where
  | held
  | checking
  | released
  | halted (reason : HaltReason)
  deriving DecidableEq, Repr

/-- The slot being verified and whether it is the fallback of R61. -/
structure Verify where
  slot : Slot
  fallback : Bool
  deriving DecidableEq, Repr

/-- The digest jobs of the release sequence, in order (R63 step 2), and the wait of its step 3 for a host forward issued before a
loaded table (R13, log entry 47). -/
inductive ReleaseStage where
  | extend0
  | tableDigest
  | extend1
  | outcomeDigest
  | extend2
  | force
  deriving DecidableEq, Repr

/-- What the restart controller is doing. -/
inductive RestartWork where
  | none
  /-- In HELD before HELD ends; `powerOn` for a power-on class restart (R54). -/
  | held (powerOn : Bool)
  /-- Waiting for the retained write of R57, or of R58. -/
  | select
  | readManifest (v : Verify)
  | manifestDigest (v : Verify) (block : List Byte)
  | signature (v : Verify) (m : Manifest) (md : Digest) (p : Pipe)
  | image (v : Verify) (m : Manifest) (md : Digest) (p : Pipe)
  /-- Waiting for the record write of R60 or R61. -/
  | writeRecord (v : Verify)
  | release (stage : ReleaseStage) (trust : Trust)
  deriving DecidableEq, Repr

/-- The restart controller (R46). -/
structure Restart where
  phase : Phase
  outcome : Outcome
  bootWindow : Bool
  trialDeadline : Option Nat
  presenceHold : Nat
  work : RestartWork
  deriving DecidableEq, Repr

/-! ## Measurement and watch unit (chapter 4) -/

/-- A watch entry as stored; RECORD is always among its actions (R73, R74). -/
structure WatchEntry where
  base : Nat
  length : Nat
  onRead : Bool
  onProgram : Bool
  onErase : Bool
  alert : Bool
  degrade : Bool
  deriving DecidableEq, Repr

/-- A stamp (R136). -/
structure Stamp where
  boot : Nat
  tick : Nat
  seq : Nat
  deriving DecidableEq, Repr

/-- A hit record (R81): no region is UNCOVERED, no entry is REFUSED. -/
structure HitRecord where
  stamp : Stamp
  start : Nat
  kind : AccessKind
  region : Option Nat
  entry : Option Nat
  deriving DecidableEq, Repr

/-- A recognised hit that is not recorded yet, with the actions of its watch entry (R79). `endsHold` marks the last hit
of the report of a read that an entry into HELD abandoned (R80). -/
structure PendingHit where
  start : Nat
  kind : AccessKind
  region : Option Nat
  entry : Option Nat
  alert : Bool
  degrade : Bool
  endsHold : Bool
  deriving DecidableEq, Repr

/-- The measurement and watch unit. -/
structure Watch where
  registers : Vector Digest 8
  table : List WatchEntry
  hits : List HitRecord
  drops : Nat
  hitsSince : Nat
  altered : BitVec 16
  trust : Trust
  /-- Hits recognised and not yet recorded, oldest first (R79). -/
  waiting : List PendingHit
  /-- The emptying of the watch table and the setting of trust at the entry into HELD wait for hits (R80). -/
  holdDeferred : Bool
  deriving DecidableEq, Repr

/-! ## Update intake (R87) -/

/-- Session states (R87). -/
inductive SessionState where
  | idle
  | receiving
  | verifying
  | verified
  | commitPending
  | failed
  deriving DecidableEq, Repr

/-- Digest paths (R87). -/
inductive DigestPath where
  | none
  | stream
  | readBack
  deriving DecidableEq, Repr

/-- Fail reasons (R87), in the order of its list. -/
inductive FailReason where
  | none
  | manifestFormat
  | keyUnusable
  | signature
  | length
  | tableInvalid
  | geometry
  | revokeSigner
  | staleSectors
  | digest
  | rollback
  | idleTimeout
  | aborted
  deriving DecidableEq, Repr

/-- The update session record (R87). The open claim holds the number of the open it belongs to. -/
structure Session where
  state : SessionState
  owner : Option Ctx
  claim : Option Nat
  bank : Nat
  expected : Nat
  broken : Bool
  firstBreak : Option Nat
  breaks : Nat
  refusedPrograms : Nat
  path : DigestPath
  reason : FailReason
  detail : Nat
  manifest : Option VerifiedManifest
  progress : Nat
  deadline : Option Nat
  deriving DecidableEq, Repr

/-- Sector tracker states (R91). -/
inductive SectorState where
  | stale
  | erased
  | written
  deriving DecidableEq, Repr

/-- Where the verification of the staged slot stands (R99 to R103). -/
inductive IntakeWork where
  | none
  | readManifest
  /-- The manifest sector is read; stream work goes first (R98). -/
  | flush (block : List Byte)
  | manifestDigest (block : List Byte)
  | signature (m : Manifest) (md : Digest)
  /-- The running digest of the stream is being completed (R101). -/
  | finishStream (m : Manifest) (md : Digest)
  | readBack (m : Manifest) (md : Digest) (p : Pipe)
  deriving DecidableEq, Repr

/-- The update intake. -/
structure Intake where
  session : Session
  tracker : List SectorState
  /-- Absorbed bytes that the crypto engine has not taken (R94). -/
  buffer : List Byte
  /-- The running digest's state: every stream byte absorbed by jobs that have ended. -/
  absorbed : List Byte
  /-- A stream job is queued or running. -/
  streamJob : Bool
  work : IntakeWork
  /-- Number the next UPDATE_OPEN's claim takes. -/
  nextOpen : Nat
  deriving DecidableEq, Repr

/-! ## Crypto engine (R117, R118) -/

/-- Job inputs (R117). What a job reads only when it starts is not among them (R119). -/
inductive JobKind where
  | digest (absorbed block : List Byte) (finish : Bool)
  /-- The extension of a measurement register (R68). -/
  | extend (register : Fin 8) (input : Digest)
  | signatureCheck (pub : PubKey) (message : List Byte) (signature : Signature)
  | signing (message : List Byte)
  | derivation (label : List Byte)
  | compare (slot : Fin 32) (candidate : List Byte)
  deriving DecidableEq, Repr

/-- Job results (R117). -/
inductive JobResult where
  | absorbed (bytes : List Byte)
  | digest (d : Digest)
  | valid (ok : Bool)
  | signature (s : Signature)
  | noKey
  | matched (ok : Bool)
  deriving DecidableEq, Repr

/-- A job in the FIFO. -/
structure Job where
  requester : Requester
  kind : JobKind
  deriving DecidableEq, Repr

/-- The running job. Its result is settled by the inputs it read when it started (R119); `discarded` says that the result
will be dropped. -/
structure RunningJob where
  job : Job
  result : JobResult
  discarded : Bool
  deriving DecidableEq, Repr

/-- The crypto engine: the running job is the oldest of the FIFO, `queue` the others. `deferred` holds submissions of a
requester whose discarded job still runs (R119). -/
structure Crypto where
  running : Option RunningJob
  queue : List Job
  deferred : List Job
  deriving DecidableEq, Repr

/-! ## Time base (chapter 7) -/

/-- The stamp wait list's requests (R138). -/
inductive StampRequest where
  | hit
  | quote (c : Ctx)
  deriving DecidableEq, Repr

/-- The time base. `wall` is the set pair while SET (R131). `bootCounted` says that the boot count write of this power
cycle's own restart has completed (R137). -/
structure Time where
  tick : Nat
  wall : Option (Nat × Nat)
  lastStamp : Option Stamp
  waiting : List StampRequest
  bootCounted : Bool
  deriving DecidableEq, Repr

/-! ## Credential store, volatile part (chapter 8) -/

/-- A context's reservation: the targets with the versions recorded (R150). -/
inductive Reservation where
  | none
  | valid (targets : List (Fin 32 × Nat))
  | lost (targets : List (Fin 32 × Nat))
  deriving DecidableEq, Repr

/-- The credential store's volatile state. `pressArmed` says that the line was found deasserted at a tick event since the
release, so that a press counts (R157). -/
structure Creds where
  lockouts : Vector (Option Nat) 32
  reservations : PerCtx Reservation
  hold : Nat
  pressUsed : Bool
  pressArmed : Bool
  grant : Option Nat
  deriving DecidableEq, Repr

/-! ## Request assembler (chapter 10) and quote builder (R162) -/

/-- Assembly states (R172). -/
inductive AssemblyState where
  | idle
  | assembling
  | executing
  deriving DecidableEq, Repr

/-- Response statuses (R181), less the two reserved values. -/
inductive Status where
  | none
  | pending
  | ok
  | framing
  | timeout
  | unknownRequest
  | badLength
  | badParameter
  | wrongLifecycle
  | trustTooLow
  | bootWindowClosed
  | notOwner
  | sessionState
  | trialActive
  | reservationLost
  | lockedOut
  | mismatch
  | expired
  | timeUnknown
  | emptySlot
  | wrongClass
  | presenceRequired
  | noIdentity
  | exhausted
  | confirmDenied
  deriving DecidableEq, Repr

/-- A record of a CRED_WRITE_COND request (R153): the value is still as the host wrote it. -/
structure NewCred where
  slot : Fin 32
  set : Bool
  verifier : Bool
  label : List Byte
  minTrust : Nat
  windowOnly : Bool
  notAfter : Option Nat
  value : List Byte
  deriving DecidableEq, Repr

/-- How far the owner of an executing request has brought it. -/
inductive ExecWork where
  /-- Routed, not yet taken by its owner (R177). -/
  | routed
  /-- Waiting for the provisioning claim (R122). -/
  | awaitClaim
  /-- The identity key is being drawn (R123). -/
  | drawing
  /-- Waiting for its retained write. -/
  | awaitWrite
  /-- REGION_LOAD, written; its binding enters force when the host forward completes (R8). -/
  | awaitForce
  /-- Waiting for an extension job (R68). -/
  | extending (register : Fin 8)
  /-- Waiting for a derivation job (R120). -/
  | deriving_
  /-- Waiting for a compare job, with the version recorded (R147). -/
  | comparing (slot : Fin 32) (version : Nat)
  /-- CRED_WRITE_COND: records prepared, the one whose digest job is out with its salt, and those to come (R154). -/
  | preparing (done : List (Fin 32 × Option CredContent)) (now : NewCred) (salt : Salt) (rest : List NewCred)
  /-- QUOTE: the quote state tells the rest (R162). -/
  | quoting
  /-- CONTEXT_RESET, waiting for a write of the request it discarded (R182). -/
  | awaitDiscarded
  deriving DecidableEq, Repr

/-- The executing request (R172). -/
structure Request where
  code : Nat
  tag : Nat
  body : List Byte
  work : ExecWork
  deriving DecidableEq, Repr

/-- A context's response (R172). -/
inductive Response where
  | none
  | pending (tag code : Nat)
  | ready (tag code : Nat) (status : Status) (detail : Nat) (body : List Byte)
  deriving DecidableEq, Repr

/-- A context's quote (R162); SIGNING holds the assembled record. -/
inductive QuoteState where
  | none
  | waitingStamp
  | signing (record : List Byte)
  deriving DecidableEq, Repr

/-- A context record (R172). The fill offset is the number of bytes in `buffer`. Request-busy is set while `busyCap`
holds its cap deadline. -/
structure Context where
  state : AssemblyState
  buffer : List Byte
  deadline : Option Nat
  busyCap : Option Nat
  request : Option Request
  response : Response
  quote : QuoteState
  deriving DecidableEq, Repr

/-- The request assembler's contexts and the key table's provisioning claim with the contexts waiting for it (R122). -/
structure Requests where
  ctx : PerCtx Context
  claim : Option Ctx
  claimQueue : List Ctx
  deriving DecidableEq, Repr

/-! ## Alert unit (R184) -/

/-- Line states (R184). -/
inductive LineState where
  | asserted
  | released
  | pulse
  deriving DecidableEq, Repr

/-- The alert unit. `pulseTick` is the tick at which the latest pulse began. -/
structure Alert where
  pending : BitVec 8
  mask : BitVec 8
  interval : Nat
  timer : Option Nat
  line : LineState
  pulseTick : Nat
  deriving DecidableEq, Repr

/-! ## The whole part -/

/-- Supply and reset pins: supply good, RESET_N low, RST_REQ_N asserted. -/
structure Pins where
  supply : Bool
  resetLow : Bool
  rstReq : Bool
  deriving DecidableEq, Repr

/-- The state of the part, the real flash behind it and the commands that wait. -/
structure State where
  /-- Commands waiting, first in, first out. -/
  pending : List Instr
  pins : Pins
  link : Link
  xlat : Translation
  storage : Storage
  flash : Flash
  restart : Restart
  watch : Watch
  intake : Intake
  crypto : Crypto
  time : Time
  creds : Creds
  requests : Requests
  alert : Alert
  store : Store
  /-- Draws made so far from the random generator and from the other free values. -/
  draws : Nat
  deriving DecidableEq, Repr

/-- The reasons a step can fault. -/
inductive Fault where
  /-- Raised by BACKGROUND_JOB_RUN for a job whose range leaves physical 0000000h to 1FFFFFFh, where no flash of the part
  lies (R2, R42). No valid table gives such a job. Safe: the machine stops where the manual has no case. -/
  | outsideFlash
  deriving DecidableEq, Repr

/-- The reasons a step can be refused. -/
inductive Refusal where
  /-- Raised by an arm of exec whose command has no meaning yet. Safe. No arm raises it in this model. -/
  | notModelled (mnemonic : String)
  deriving DecidableEq, Repr

/-! ## Reset values -/

/-- An EMPTY slot record as the part leaves manufacture (R56), and as UPDATE_OPEN writes it (R89). -/
def SlotRecord.blank : SlotRecord := ⟨.empty, 0, 0, false, ⟨[], []⟩⟩

/-- The retained records as the part leaves its own production (R56, R113, R115, R121, R141, R142, R160, R136). The part
serial has no stated value (DESIGN CHOICE: zero, log entry 2, unsafe). -/
def Retained.production : Retained where
  stage := .manufacture
  strict := false
  identity := none
  derivation := none
  updateKeys := Vector.replicate 4 ⟨.empty, .none, 0⟩
  certificate := none
  tables := ⟨none, none⟩
  selector := .a
  pendingCommit := false
  pendingSlot := .a
  attempts := 0
  floor := 0
  records := ⟨SlotRecord.blank, SlotRecord.blank⟩
  bootCount := 0
  creds := Vector.replicate 32 ⟨none, 0⟩
  failCounts := Vector.replicate 32 0
  ownerEpoch := 0
  serial := 0

/-- The decoder in IDLE, holding nothing (R21, R25). -/
def Decoder.idle : Decoder := ⟨.idle, none, [], 0, 0, none, 0, [], [], false, []⟩

/-- A fresh outcome record of a restart with the given cause (R64). What it reads before it is completed, beyond its cause and the
results NOT_TRIED, is the model's choice: the selector's slot, no attempts left, UNVERIFIED and NONE (log entry 41). -/
def Outcome.fresh (cause : Cause) (selected : Slot) : Outcome :=
  ⟨cause, selected, ⟨.notTried, .notTried⟩, false, false, false, 0, .unverified, .none⟩

/-- The session record at its resting values (R87). -/
def Session.resting : Session where
  state := .idle
  owner := none
  claim := none
  bank := 0
  expected := 0x1000
  broken := false
  firstBreak := none
  breaks := 0
  refusedPrograms := 0
  path := .none
  reason := .none
  detail := 0
  manifest := none
  progress := 0
  deadline := none

/-- A context record after reset (R172). -/
def Context.reset : Context := ⟨.idle, [], none, none, none, .none, .none⟩

/-- Every volatile field at its power-on or RESET_N value (the reset tables of chapters 2 to 11), with the pins, the
non-volatile records, the real flash and the draw count carried over. No restart work is under way yet, and the outcome record
reads cause POWER_ON until it is: the model's choice (log entry 41). -/
def State.volatileReset (pins : Pins) (nv : Retained) (flash : Flash) (draws : Nat) (pending : List Instr) : State where
  pending := pending
  pins := pins
  link := ⟨Decoder.idle, false, false⟩
  xlat := ⟨.none, false⟩
  storage := ⟨.idle, none, none, none, none⟩
  flash := flash
  restart := ⟨.held, Outcome.fresh .powerOn nv.selector, false, none, 0, .none⟩
  watch := ⟨Vector.replicate 8 0, [], [], 0, 0, 0, .unverified, [], false⟩
  intake :=
    ⟨if nv.pendingCommit then { Session.resting with state := .commitPending } else Session.resting,
      [], [], [], false, .none, 0⟩
  crypto := ⟨none, [], []⟩
  time := ⟨0, none, none, [], false⟩
  creds := ⟨Vector.replicate 32 none, ⟨.none, .none⟩, 0, false, false, none⟩
  requests := ⟨⟨Context.reset, Context.reset⟩, none, []⟩
  alert := ⟨0, 0xFF, 0, none, .released, 0⟩
  store := ⟨nv, nv, [], none⟩
  draws := draws

/-- The machine right after reset: a part fresh from its own production whose supply has just risen. The power-on class
restart has begun in HELD (R46, R47), step 1 of R54 is done and the boot count write of its step 2 is queued. -/
def State.reset : State :=
  let s := State.volatileReset ⟨true, false, false⟩ Retained.production ⟨[], none⟩ 0 []
  { s with
    restart := { s.restart with work := .held true }
    store := { s.store with queue := [⟨.restart, .bootCount, true⟩] } }

end Sys2Proof.Machine
end

