-- ==== Sys2Proof/Machine/Flags.lean ====
section
/-! DEFINITION. Codes, status bits and alert bits: how named values appear in bytes, and every flag that the part computes
(R28, R29, R64, R104, R181, R184, R189). -/

namespace Sys2Proof.Machine

open Sys2Proof

/-! ## Access by slot and context -/

/-- The other firmware slot. -/
def Slot.other : Slot → Slot
  | .a => .b
  | .b => .a

/-- The value of one slot. -/
def PerSlot.get {α : Type} (p : PerSlot α) : Slot → α
  | .a => p.a
  | .b => p.b

/-- Replace the value of one slot. -/
def PerSlot.set {α : Type} (p : PerSlot α) (k : Slot) (x : α) : PerSlot α :=
  match k with
  | .a => { p with a := x }
  | .b => { p with b := x }

/-- The other context. -/
def otherCtx : Ctx → Ctx
  | .c0 => .c1
  | .c1 => .c0

/-- The value of one context. -/
def PerCtx.get {α : Type} (p : PerCtx α) : Ctx → α
  | .c0 => p.c0
  | .c1 => p.c1

/-- Replace the value of one context. -/
def PerCtx.set {α : Type} (p : PerCtx α) (k : Ctx) (x : α) : PerCtx α :=
  match k with
  | .c0 => { p with c0 := x }
  | .c1 => { p with c1 := x }

/-! ## Codes -/

/-- The order of the trust levels (00_scope, "Trust levels"). -/
def Trust.level : Trust → Nat
  | .unverified => 0
  | .degraded => 1
  | .trial => 2
  | .verified => 3

/-- The kind byte of a descriptor (R189). -/
def Kind.ofCode : Nat → Option Kind
  | 1 => some .image
  | 2 => some .staging
  | 3 => some .data
  | 4 => some .locked
  | 5 => some .hidden
  | _ => none

/-- The slot byte of outcome records, INFO and quotes. -/
def Slot.code : Slot → Byte
  | .a => 0
  | .b => 1

/-- The cause byte of the outcome record (chapter 11). -/
def Cause.code : Cause → Byte
  | .powerOn => 1
  | .lineReset => 2
  | .restartLine => 3
  | .restartRequest => 4
  | .commitRestart => 5
  | .trialExpiry => 6
  | .lifecycleChange => 7
  | .presenceRelease => 8

/-- The result bytes of the outcome record (chapter 11). -/
def SlotResult.code : SlotResult → Byte
  | .notTried => 0
  | .pass => 1
  | .manifestFormat => 2
  | .keyUnusable => 3
  | .signature => 4
  | .length => 5
  | .digest => 6
  | .rollback => 7
  | .trialExhausted => 8

/-- The halt reason byte of the outcome record (chapter 11). -/
def HaltReason.code : HaltReason → Byte
  | .none => 0
  | .flashSize => 1
  | .noBootableSlot => 2

/-- The slot record state byte of the quote record (chapter 11). -/
def SlotState.code : SlotState → Byte
  | .empty => 0
  | .good => 1
  | .trial => 2
  | .rejected => 3

/-- The session state byte (R104). -/
def SessionState.code : SessionState → Byte
  | .idle => 0
  | .receiving => 1
  | .verifying => 2
  | .verified => 3
  | .commitPending => 4
  | .failed => 5

/-- The digest path byte (R104). -/
def DigestPath.code : DigestPath → Byte
  | .none => 0
  | .stream => 1
  | .readBack => 2

/-- The fail reason byte (R104): 0 NONE, then 1 to 12 in the order of R87's list. -/
def FailReason.code : FailReason → Byte
  | .none => 0
  | .manifestFormat => 1
  | .keyUnusable => 2
  | .signature => 3
  | .length => 4
  | .tableInvalid => 5
  | .geometry => 6
  | .revokeSigner => 7
  | .staleSectors => 8
  | .digest => 9
  | .rollback => 10
  | .idleTimeout => 11
  | .aborted => 12

/-- The command kind byte of hit records (R82). -/
def AccessKind.code : AccessKind → Byte
  | .read => 1
  | .program => 2
  | .erase => 3

/-- The state byte of KEY_READ (R126). -/
def KeyState.code : KeyState → Byte
  | .empty => 0
  | .active => 1
  | .revoked => 2

/-- The origin byte of KEY_READ (R126). -/
def Origin.code : Origin → Byte
  | .none => 0
  | .generated => 1
  | .injected => 2
  | .manifest => 3

/-- The status byte of a response header (R181). -/
def Status.code : Status → Byte
  | .none => 0
  | .pending => 1
  | .ok => 2
  | .framing => 3
  | .timeout => 4
  | .unknownRequest => 5
  | .badLength => 6
  | .badParameter => 7
  | .wrongLifecycle => 8
  | .trustTooLow => 9
  | .bootWindowClosed => 10
  | .notOwner => 11
  | .sessionState => 12
  | .trialActive => 13
  | .reservationLost => 15
  | .lockedOut => 16
  | .mismatch => 17
  | .expired => 18
  | .timeUnknown => 19
  | .emptySlot => 20
  | .wrongClass => 21
  | .presenceRequired => 22
  | .noIdentity => 23
  | .exhausted => 24
  | .confirmDenied => 26

/-- The lifecycle byte of INFO and quotes (R183). -/
def lifecycleCode (r : Retained) : Byte :=
  match r.stage, r.strict with
  | .manufacture, _ => 0
  | .field, false => 1
  | .field, true => 2

/-- The command bytes of the eleven commands (chapter 11). -/
def LinkCmd.ofCode (code : Byte) : LinkCmd :=
  if code = 0x03 then .read
  else if code = 0x0B then .fastRead
  else if code = 0x6B then .quadRead
  else if code = 0x06 then .writeEnable
  else if code = 0x04 then .writeDisable
  else if code = 0x05 then .readStatus
  else if code = 0x02 then .pageProgram
  else if code = 0x20 then .sectorErase
  else if code = 0xD8 then .blockErase
  else if code = 0xC7 then .chipErase
  else if code = 0x9F then .readId
  else .unknown code

/-! ## Alert bits and the line (section 11.1) -/

/-- RESPONSE_0 and RESPONSE_1. -/
def responseSource : Ctx → BitVec 8
  | .c0 => 0x01
  | .c1 => 0x02

/-- The WATCH source. -/
def sourceWatch : BitVec 8 := 0x04
/-- The UPDATE source. -/
def sourceUpdate : BitVec 8 := 0x08
/-- The TRIAL source. -/
def sourceTrial : BitVec 8 := 0x10
/-- The PRESENCE source. -/
def sourcePresence : BitVec 8 := 0x20
/-- The LOCKOUT source. -/
def sourceLockout : BitVec 8 := 0x40
/-- The TRUST_DROP source. -/
def sourceTrustDrop : BitVec 8 := 0x80

/-- A new timer value for an interval, none for interval 0 (R186). -/
def realertTimer (now interval : Nat) : Option Nat := if interval = 0 then none else some (now + interval)

/-- The judgement of the line by R184: asserted by an enabled pending source, released without one. -/
def Alert.judge (now : Nat) (a : Alert) : Alert :=
  if a.pending &&& a.mask = 0 then { a with line := .released, timer := none }
  else if a.line = .released then { a with line := .asserted, timer := realertTimer now a.interval }
  else a

/-! ## The emulated status byte -/

/-- A host forward is in progress (R28). -/
def State.forwarding (s : State) : Bool := s.storage.forward.isSome

/-- Request-busy of either context (R176). -/
def State.requestBusy (s : State) : Bool := s.requests.ctx.c0.busyCap.isSome || s.requests.ctx.c1.busyCap.isSome

/-- BUSY (R28): read afresh from its two conditions. -/
def State.busy (s : State) : Bool := s.forwarding || s.requestBusy

/-- ALERT (R29): 1 exactly while the line is ASSERTED. -/
def State.alertBit (s : State) : Bool := s.alert.line = .asserted

/-- The status byte (R29; section 11.3): BUSY, WEL, REFUSED, ALERT, the rest 0. -/
def State.statusByte (s : State) : Byte :=
  (if s.busy then 0x01 else 0) ||| (if s.link.wel then 0x02 else 0) ||| (if s.link.refused then 0x04 else 0) |||
    (if s.alertBit then 0x08 else 0)

/-! ## Output lines -/

/-- SOC_RST_N is asserted in HELD, CHECKING and HALTED (R46). -/
def State.hostHeld (s : State) : Bool := s.restart.phase ≠ .released

/-- ALERT_N is driven low while the line is ASSERTED (R184). -/
def State.alertAsserted (s : State) : Bool := s.alertBit

/-- The part has power and RESET_N is high. -/
def State.running (s : State) : Bool := s.pins.supply && !s.pins.resetLow

/-! ## Time -/

/-- The highest tick, FFFFFFFFFFFFh (R128). -/
def tickMax : Nat := 0xFFFFFFFFFFFF

/-- A deadline has expired (R130): it is armed and the counter has reached it. -/
def due (tick : Nat) (deadline : Option Nat) : Bool :=
  match deadline with
  | none => false
  | some d => d ≤ tick

/-- Ticks left until a deadline, 0 when disarmed. -/
def ticksLeft (tick : Nat) (deadline : Option Nat) : Nat :=
  match deadline with
  | none => 0
  | some d => d - tick

/-- The wall time at a tick: the set value plus whole seconds since the set tick (R132); none while NOT_SET. -/
def Time.wallAt (t : Time) (tick : Nat) : Option Nat := t.wall.map fun p => p.1 + (tick - p.2) / 1000

end Sys2Proof.Machine
end

