-- ==== Sys2Proof/Machine/Operands.lean ====
section
/-! DEFINITION. Every layout of chapter 11 and of the request rules, read from bytes and written to bytes: region tables
(R3, R5, R189), manifests (R97, R189), watch entries (R74), credential records (R153), stamps (R136), outcome records. -/

namespace Sys2Proof.Machine

open Sys2Proof

/-! ## Region tables -/

/-- A descriptor from its 12 bytes (chapter 11). -/
def Descriptor.ofBytes (bs : List Byte) : Descriptor where
  index := byteAt bs 0
  kind := byteAt bs 1
  flags := byteAt bs 2
  writeMin := byteAt bs 3
  base := numAt bs 4 2
  length := numAt bs 6 2
  offset := numAt bs 8 4

/-- The 12 bytes of a descriptor. -/
def Descriptor.bytes (d : Descriptor) : List Byte :=
  le 1 d.index ++ le 1 d.kind ++ le 1 d.flags ++ le 1 d.writeMin ++ le 2 d.base ++ le 2 d.length ++ le 4 d.offset

/-- `n` descriptors from consecutive 12-byte runs. -/
def descriptorsOf : Nat → List Byte → List Descriptor
  | 0, _ => []
  | n + 1, bs => Descriptor.ofBytes bs :: descriptorsOf n (bs.drop 12)

/-- A table from its bytes; the descriptor count is byte 12 (chapter 11). -/
def Table.ofBytes (bs : List Byte) : Table where
  baseA := numAt bs 0 4
  baseB := numAt bs 4 4
  slotSize := numAt bs 8 4
  reserved := numAt bs 13 3
  descriptors := descriptorsOf (byteAt bs 12) (bs.drop 16)

/-- The 16 header bytes and the descriptors of a table (R189). -/
def Table.bytes (t : Table) : List Byte :=
  le 4 t.baseA ++ le 4 t.baseB ++ le 4 t.slotSize ++ le 1 t.descriptors.length ++ le 3 t.reserved ++
    t.descriptors.flatMap Descriptor.bytes

/-- The slot's physical base (R2). -/
def Table.slotBase (t : Table) : Slot → Nat
  | .a => t.baseA
  | .b => t.baseB

/-- The kind of a descriptor. -/
def Descriptor.kind? (d : Descriptor) : Option Kind := Kind.ofCode d.kind

/-- BOOT_WINDOW_ONLY (chapter 11: flags bit 01h). -/
def Descriptor.windowOnly (d : Descriptor) : Bool := d.flags % 2 = 1

/-- The descriptor covers a granule (R3). -/
def Descriptor.covers (d : Descriptor) (g : Nat) : Bool := d.base ≤ g && g < d.base + d.length

/-- DATA, LOCKED and HIDDEN are the fixed kinds (R2, R5). -/
def Descriptor.fixed (d : Descriptor) : Bool := d.kind? = some .data || d.kind? = some .locked || d.kind? = some .hidden

/-- The end of the physical space, 2000000h (R2). -/
def flashSize : Nat := 0x2000000

/-- Two half-open ranges share no value. -/
def apart (lo hi lo' hi' : Nat) : Bool := hi ≤ lo' || hi' ≤ lo

/-- A relation holds for every pair of distinct places of a list. -/
def pairwise {α : Type} (r : α → α → Bool) : List α → Bool
  | [] => true
  | x :: xs => xs.all (r x) && pairwise r xs

/-- The physical range of a fixed region. -/
def Descriptor.physApart (d e : Descriptor) : Bool :=
  !(d.fixed && e.fixed) || apart d.offset (d.offset + d.length * 0x1000) e.offset (e.offset + e.length * 0x1000)

/-- The checks of R5 in their order, each with its detail code. -/
def Table.checks (t : Table) : List (Nat × Bool) :=
  let ds := t.descriptors
  [ (0x01, 1 ≤ ds.length && ds.length ≤ 16)
  , (0x02, ds.all (fun d => d.index ≤ 15) && pairwise (fun d e => d.index != e.index) ds)
  , (0x03, ds.all (fun d => d.kind?.isSome))
  , (0x04, ds.all (fun d => 1 ≤ d.length && d.length ≤ 4092 && d.writeMin ≤ 3 &&
        (d.writeMin = 0 || d.kind? = some .data) && (d.kind? ≠ some .staging || d.offset = 0)))
  , (0x05, t.baseA % 0x10000 = 0 && t.baseB % 0x10000 = 0 &&
        ds.all (fun d => d.kind? = some .staging || d.offset % 0x1000 = 0))
  , (0x06, t.slotSize % 0x10000 = 0 && 0x20000 ≤ t.slotSize && t.slotSize ≤ 0x1000000)
  , (0x07, t.baseA + t.slotSize ≤ flashSize && t.baseB + t.slotSize ≤ flashSize &&
        apart t.baseA (t.baseA + t.slotSize) t.baseB (t.baseB + t.slotSize))
  , (0x08, ds.all (fun d => d.base + d.length ≤ 0xFFC))
  , (0x09, pairwise (fun d e => apart d.base (d.base + d.length) e.base (e.base + e.length)) ds)
  , (0x0A, (ds.filter (fun d => d.kind? = some .staging)).length = 1)
  , (0x0B, ds.all (fun d => d.kind? ≠ some .staging || (d.length % 16 = 0 && d.length * 0x1000 ≤ t.slotSize)))
  , (0x0C, ds.any (fun d => d.kind? = some .image && d.base = 0))
  , (0x0D, ds.all (fun d => d.kind? ≠ some .image || d.offset + d.length * 0x1000 ≤ t.slotSize))
  , (0x0E, ds.all (fun d => !d.fixed || (d.offset + d.length * 0x1000 ≤ flashSize &&
        apart d.offset (d.offset + d.length * 0x1000) t.baseA (t.baseA + t.slotSize) &&
        apart d.offset (d.offset + d.length * 0x1000) t.baseB (t.baseB + t.slotSize))))
  , (0x0F, pairwise Descriptor.physApart ds) ]

/-- The detail code of the first check of R5 that fails, none for a valid table. -/
def Table.firstFailure (t : Table) : Option Nat := (t.checks.find? (fun c => !c.2)).map (·.1)

/-- A region table is valid when it passes every check (R5). -/
def Table.valid (t : Table) : Bool := t.firstFailure = none

/-- The length in bytes of the STAGING region. -/
def Table.stagingLength (t : Table) : Nat :=
  match t.descriptors.find? (fun d => d.kind? = some .staging) with
  | some d => d.length * 0x1000
  | none => 0

/-! ## Manifests -/

/-- A key slot number 2 to 5 as an index of `Retained.updateKeys`. -/
def updateKeyIndex (n : Nat) : Option (Fin 4) := if h : 2 ≤ n ∧ n - 2 < 4 then some ⟨n - 2, h.2⟩ else none

/-- The numbers of a list as key slots 2 to 5, none if one is not. -/
def updateKeyIndices : List Nat → Option (List (Fin 4))
  | [] => some []
  | n :: ns =>
    match updateKeyIndex n, updateKeyIndices ns with
    | some k, some ks => some (k :: ks)
    | _, _ => none

/-- `d` additions of 65 bytes: target slot, then public key (chapter 11). -/
def additionsOf : Nat → List Byte → List (Nat × PubKey)
  | 0, _ => []
  | d + 1, bs => (byteAt bs 0, wide (slice bs 1 64)) :: additionsOf d (bs.drop 65)

/-- Offset of the signature: after the fixed part, the additions and the carried table (R189). -/
def manifestBodyLength (bs : List Byte) : Nat :=
  let tableAt := 56 + 65 * byteAt bs 8
  tableAt + (if byteAt bs 9 = 1 then 16 + 12 * byteAt bs (tableAt + 12) else 0)

/-- The format check of R97 and R189 on the 4,096 bytes of a manifest sector, and the content it names. -/
def Manifest.parse (bs : List Byte) : Option Manifest :=
  let a := byteAt bs 7
  let d := byteAt bs 8
  let carried := byteAt bs 9 = 1
  let tableAt := 56 + 65 * d
  let count := byteAt bs (tableAt + 12)
  let bodyLen := manifestBodyLength bs
  let adds := additionsOf d (bs.drop 56)
  if slice bs 0 4 = [0x4A, 0x4D, 0x46, 0x53] ∧ byteAt bs 4 = 1 ∧ a ≤ 3 ∧ d ≤ 2 ∧ byteAt bs 9 ≤ 1 ∧
      byteAt bs 10 = 0 ∧ byteAt bs 11 = 0 ∧ byteAt bs 55 = 0 ∧ (carried → 1 ≤ count ∧ count ≤ 16) ∧
      bodyLen + 64 ≤ bs.length ∧ adds.all (fun x => Config.isPoint x.2) ∧
      pairwise (fun x y => x.1 != y.1) adds then
    match updateKeyIndex (byteAt bs 5), updateKeyIndices ((slice bs 52 a).map (·.toNat)),
        updateKeyIndices (adds.map (·.1)) with
    | some signer, some revs, some targets =>
      some
        { signer := signer
          length := numAt bs 12 4
          version := numAt bs 16 4
          digest := digestOf (slice bs 20 32)
          floorRaise := byteAt bs 6 % 2 = 1
          changes := ⟨revs, targets.zip (adds.map (·.2))⟩
          table := if carried then some (Table.ofBytes (slice bs tableAt (16 + 12 * count))) else none
          body := bs.take bodyLen
          signature := wide (slice bs bodyLen 64) }
    | _, _, _ => none
  else none

/-! ## Watch entries -/

/-- A watch entry from its 8 bytes, RECORD added (R74). -/
def WatchEntry.ofBytes (bs : List Byte) : WatchEntry where
  base := numAt bs 0 2
  length := numAt bs 2 2
  onRead := (byteAt bs 4).testBit 0
  onProgram := (byteAt bs 4).testBit 1
  onErase := (byteAt bs 4).testBit 2
  alert := (byteAt bs 5).testBit 1
  degrade := (byteAt bs 5).testBit 2

/-- The 8 bytes of a stored watch entry (R74, R75). -/
def WatchEntry.bytes (w : WatchEntry) : List Byte :=
  le 2 w.base ++ le 2 w.length ++
    [(if w.onRead then 1 else 0) ||| (if w.onProgram then 2 else 0) ||| (if w.onErase then 4 else 0),
      1 ||| (if w.alert then 2 else 0) ||| (if w.degrade then 4 else 0), 0, 0]

/-- The 8-byte entries of a WATCH_LOAD body. -/
def entriesOf : Nat → List Byte → List (List Byte)
  | 0, _ => []
  | n + 1, bs => bs.take 8 :: entriesOf n (bs.drop 8)

/-- The entry watches a command kind (R73). -/
def WatchEntry.watches (w : WatchEntry) : AccessKind → Bool
  | .read => w.onRead
  | .program => w.onProgram
  | .erase => w.onErase

/-- The entry's range holds a granule (R73). -/
def WatchEntry.inRange (w : WatchEntry) (g : Nat) : Bool := w.base ≤ g && g < w.base + w.length

/-! ## Credential records -/

/-- The length of the record a CRED_WRITE_COND body starts with, from its label and value length bytes (R153); none when the
bytes that carry them are missing. -/
def credRecordLength (bs : List Byte) : Option Nat :=
  if bs.length < 15 then none
  else
    let n := byteAt bs 5
    if bs.length < 15 + n then none else some (15 + n + byteAt bs (14 + n))

/-- The `count` records of a body, none when the length is not the sum of its records (R153 check 1). -/
def splitCredRecords : Nat → List Byte → Option (List (List Byte))
  | 0, [] => some []
  | 0, _ :: _ => none
  | k + 1, bs =>
    match credRecordLength bs with
    | none => none
    | some len =>
      if bs.length < len then none
      else
        match splitCredRecords k (bs.drop len) with
        | none => none
        | some rest => some (bs.take len :: rest)

/-- A slot number byte as a credential slot. -/
def credSlot (n : Nat) : Option (Fin 32) := if h : n < 32 then some ⟨n, h⟩ else none

/-- A record that passes checks 3 and 4 of R153, none when it fails one. -/
def NewCred.parse (bs : List Byte) : Option NewCred :=
  let n := byteAt bs 5
  let notAfter := numAt bs (6 + n) 8
  let m := byteAt bs (14 + n)
  let state := byteAt bs 1
  let cls := byteAt bs 2
  let min := byteAt bs 3
  let flags := byteAt bs 4
  match credSlot (byteAt bs 0) with
  | none => none
  | some slot =>
    if 1 < state ∨ 1 < cls ∨ 3 < min ∨ 3 < flags ∨ 24 < n ∨ 192 < m ∨ (flags < 2 ∧ notAfter ≠ 0) then none
    else if state = 0 ∧ (cls ≠ 0 ∨ min ≠ 0 ∨ flags ≠ 0 ∨ n ≠ 0 ∨ notAfter ≠ 0 ∨ m ≠ 0) then none
    else
      some
        { slot := slot
          set := state = 1
          verifier := cls = 1
          label := slice bs 6 n
          minTrust := min
          windowOnly := flags % 2 = 1
          notAfter := if 2 ≤ flags then some notAfter else none
          value := slice bs (15 + n) m }

/-- The records of a body as parsed, none when one fails. -/
def parseCreds : List (List Byte) → Option (List NewCred)
  | [] => some []
  | b :: bs =>
    match NewCred.parse b, parseCreds bs with
    | some r, some rs => some (r :: rs)
    | _, _ => none

/-- The value length CRED_LIST and CRED_RESERVE report: 0 for VERIFIER and EMPTY (R145, R151). -/
def CredRecord.secretBytes (r : CredRecord) : List Byte :=
  match r.content with
  | some { value := .secret bs, .. } => bs
  | _ => []

/-- The minimum trust a rule compares: 0 for an EMPTY slot (R141). -/
def CredRecord.minTrust (r : CredRecord) : Nat :=
  match r.content with
  | some c => c.minTrust
  | none => 0

/-- The boot-window-only flag a rule compares: clear for an EMPTY slot (R141). -/
def CredRecord.windowOnly (r : CredRecord) : Bool :=
  match r.content with
  | some c => c.windowOnly
  | none => false

/-- The slot is SET and of class VERIFIER. -/
def CredRecord.isVerifier (r : CredRecord) : Bool :=
  match r.content with
  | some { value := .verifier _ _, .. } => true
  | _ => false

/-- The 47 bytes of a CRED_LIST entry (R145). -/
def credListEntry (r : CredRecord) (fails lockoutTicks : Nat) : List Byte :=
  match r.content with
  | none => zeros 38 ++ le 4 r.version ++ le 1 fails ++ le 4 lockoutTicks
  | some c =>
    [1, flagByte r.isVerifier] ++ le 1 c.minTrust ++
      [(if c.windowOnly then 1 else 0) ||| (if c.notAfter.isSome then 2 else 0)] ++ le 1 c.label.length ++
      (c.label ++ zeros 24).take 24 ++ le 8 (c.notAfter.getD 0) ++ le 1 r.secretBytes.length ++
      le 4 r.version ++ le 1 fails ++ le 4 lockoutTicks

/-! ## Records in responses -/

/-- The 12 bytes of a stamp (R136). -/
def Stamp.bytes (x : Stamp) : List Byte := le 4 x.boot ++ le 6 x.tick ++ le 2 x.seq

/-- The zero stamp (R136). -/
def Stamp.zero : Stamp := ⟨0, 0, 0⟩

/-- The 8 bytes of the restart outcome record (chapter 11). -/
def Outcome.bytes (o : Outcome) : List Byte :=
  [o.cause.code, o.selected.code, o.results.a.code, o.results.b.code,
    (if o.commitApplied then 1 else 0) ||| (if o.reverted then 2 else 0) ||| (if o.fallback then 4 else 0)] ++
    le 1 o.attemptsLeft ++ le 1 o.trust.level ++ [o.halt.code]

/-- The 18 bytes of a hit record (R82). -/
def HitRecord.bytes (h : HitRecord) : List Byte :=
  h.stamp.bytes ++ le 3 h.start ++ [h.kind.code] ++ le 1 (h.region.getD 0xFF) ++ le 1 (h.entry.getD 0xFF)

/-- One 67-byte entry of KEY_READ (R126). -/
def keyEntry (kind : Byte) (state : KeyState) (origin : Origin) (pub : PubKey) : List Byte :=
  [kind, state.code, origin.code] ++ wideBytes pub

/-- The body length a request header states (R173). -/
def headerLength (bs : List Byte) : Nat := numAt bs 4 2

/-- The first header check of R174 that fails, by its detail code. -/
def headerFailure (bs : List Byte) : Option Nat :=
  if byteAt bs 0 ≠ 0x6A then some 0x02
  else if byteAt bs 6 ≠ 0 ∨ byteAt bs 7 ≠ 0 then some 0x03
  else if 4088 < headerLength bs then some 0x04
  else none

/-- The tag to echo, 0 while its two bytes have not been received (R174). -/
def tagEcho (bs : List Byte) : Nat := if bs.length < 4 then 0 else numAt bs 2 2

/-- The request code to echo, 0 while its byte has not been received (R174). -/
def codeEcho (bs : List Byte) : Nat := if bs.length < 2 then 0 else byteAt bs 1

/-- A delivery at offset 0 is a reset frame: a valid header with request code 02h and body length 0 (R178). -/
def isResetFrame (bs : List Byte) : Bool :=
  8 ≤ bs.length && headerFailure bs = none && byteAt bs 1 = 0x02 && headerLength bs = 0

/-- The request codes of R177. -/
def requestCodes : List Nat :=
  [0x01, 0x02, 0x03, 0x04, 0x05, 0x06, 0x10, 0x11, 0x12, 0x13, 0x14, 0x20, 0x21, 0x22, 0x23, 0x30, 0x31, 0x32, 0x33,
    0x34, 0x35, 0x36, 0x40, 0x41, 0x42, 0x43, 0x44, 0x45, 0x50, 0x51, 0x60, 0x61, 0x62, 0x63, 0x64, 0x65]

end Sys2Proof.Machine
end

