-- ==== Sys2Proof/Machine/Ops.lean ====
section
/-! DEFINITION. The named operations that meanings share: the real flash's cells, contexts and responses, alert sources,
the crypto FIFO, the retained write queue and the background read job. -/

namespace Sys2Proof.Machine

open Sys2Proof

/-! ## The real flash -/

/-- The value of an erased byte, FFh (00_scope, "Fill"); what an unlisted address of the real flash reads as (log entry 3). -/
def fill : Byte := 0xFF

/-- One byte of the real flash. -/
def Memory.read : List Host.Cell → Nat → Byte
  | [], _ => fill
  | (k, v) :: rest, a => if k = a then v else Memory.read rest a

/-- Set one byte, keeping the canonical form: addresses rising, no entry equal to the erased value. -/
def Memory.write : List Host.Cell → Nat → Byte → List Host.Cell
  | [], a, v => if v = fill then [] else [(a, v)]
  | (k, w) :: rest, a, v =>
    if a < k then (if v = fill then (k, w) :: rest else (a, v) :: (k, w) :: rest)
    else if a = k then (if v = fill then rest else (a, v) :: rest)
    else (k, w) :: Memory.write rest a v

/-- Erase `n` bytes from `lo`: they read as fill. -/
def Memory.erase (mem : List Host.Cell) (lo n : Nat) : List Host.Cell :=
  mem.filter fun c => c.1 < lo || lo + n ≤ c.1

/-- `n` bytes from `lo`, in address order. -/
def Memory.readRange (mem : List Host.Cell) (lo n : Nat) : List Byte := (List.range n).map fun i => Memory.read mem (lo + i)

/-- The canonical form: addresses strictly rising, no entry equal to what an unlisted address reads as. -/
abbrev Memory.wf (mem : List Host.Cell) : Prop := mem.Pairwise (fun c d => c.1 < d.1) ∧ ∀ c ∈ mem, c.2 ≠ fill

/-- What a byte reads as after a program over it: the programmed byte where it was erased, else a free value (log entry 4). -/
def programmedByte (old new : Byte) : Byte := if old = fill then new else Config.reprogrammed old new

/-- Program cells one after another. -/
def Memory.program : List Host.Cell → List (Nat × Byte) → List Host.Cell
  | mem, [] => mem
  | mem, (a, v) :: rest => Memory.program (Memory.write mem a (programmedByte (Memory.read mem a) v)) rest

/-- The contents after a physical operation that took effect (R40). -/
def FlashOp.apply (op : FlashOp) (mem : List Host.Cell) : List Host.Cell :=
  match op with
  | .program cells => Memory.program mem cells
  | .eraseSector p => Memory.erase mem p 0x1000
  | .eraseBlock p => Memory.erase mem p 0x10000

/-- The physical addresses an operation covers. -/
def FlashOp.addresses : FlashOp → List Nat
  | .program cells => cells.map (·.1)
  | .eraseSector p => (List.range 0x1000).map (p + ·)
  | .eraseBlock p => (List.range 0x10000).map (p + ·)

/-- The real flash ends its busy period; `took` says whether it took the operation (R37: it may have ignored it). -/
def Flash.finish (f : Flash) (took : Bool) : Flash :=
  match f.busy with
  | none => f
  | some op => ⟨if took then op.apply f.mem else f.mem, none⟩

/-- The supply fell away during an operation: every byte it covers reads a free value (log entry 5). -/
def Flash.interrupt (f : Flash) (seed : Nat) : Flash :=
  match f.busy with
  | none => f
  | some op => ⟨op.addresses.foldl (fun mem a => Memory.write mem a (Config.interrupted seed a)) f.mem, none⟩

/-! ## Contexts and alerts -/

/-- A context record. -/
def State.ctx (s : State) (c : Ctx) : Context := s.requests.ctx.get c

/-- Replace a context record. -/
def State.setCtx (s : State) (c : Ctx) (x : Context) : State :=
  { s with requests := { s.requests with ctx := s.requests.ctx.set c x } }

/-- Replace the alert unit's state; the line is judged whenever the pending set or the mask changes (R184). -/
def State.judged (s : State) (a : Alert) : State :=
  { s with alert := if a.pending = s.alert.pending ∧ a.mask = s.alert.mask then a else a.judge s.time.tick }

/-- Raise alert sources (R184). -/
def State.raise (s : State) (src : BitVec 8) : State := s.judged { s.alert with pending := s.alert.pending ||| src }

/-- Clear alert sources (R184). -/
def State.clearSource (s : State) (src : BitVec 8) : State := s.judged { s.alert with pending := s.alert.pending &&& ~~~src }

/-- The tag and code that the context's PENDING response will echo (R172). -/
def Response.echo : Response → Nat × Nat
  | .pending tag code => (tag, code)
  | .ready tag code _ _ _ => (tag, code)
  | .none => (0, 0)

/-- A response becomes READY: the context returns to IDLE, request-busy clears and the RESPONSE source is raised (R176, R179). -/
def State.ready (s : State) (c : Ctx) (tag code : Nat) (st : Status) (detail : Nat) (body : List Byte) : State :=
  (s.setCtx c ⟨.idle, [], none, none, none, .ready tag code st detail body, .none⟩).raise (responseSource c)

/-- The owner of the executing request hands back its answer (R177, R179). -/
def State.answer (s : State) (c : Ctx) (st : Status) (detail : Nat) (body : List Byte) : State :=
  s.ready c (s.ctx c).response.echo.1 (s.ctx c).response.echo.2 st detail body

/-- OK with a body. -/
def State.answerOk (s : State) (c : Ctx) (body : List Byte) : State := s.answer c .ok 0 body

/-- An error with detail 00h and no body. -/
def State.answerError (s : State) (c : Ctx) (st : Status) : State := s.answer c st 0 []

/-- BAD_PARAMETER with its detail. -/
def State.answerParameter (s : State) (c : Ctx) (detail : Nat) : State := s.answer c .badParameter detail []

/-- Note how far the executing request has come. -/
def State.setWork (s : State) (c : Ctx) (w : ExecWork) : State :=
  s.setCtx c { s.ctx c with request := (s.ctx c).request.map fun r => { r with work := w } }

/-- The executing request's progress, if one executes. -/
def State.work? (s : State) (c : Ctx) : Option ExecWork := (s.ctx c).request.map (·.work)

/-- The routed request of a context with a given code that its owner has not taken yet (R177). -/
def State.routed? (s : State) (c : Ctx) (code : Nat) : Option (List Byte) :=
  match (s.ctx c).request with
  | some r => if r.code = code ∧ r.work = .routed then some r.body else none
  | none => none

/-- The owner takes the routed frame of context `c`; no effect where none is routed (log entry 1). -/
def State.onRequest (s : State) (c : Ctx) (code : Nat) (f : List Byte → State → State) : State :=
  match s.routed? c code with
  | some body => f body s
  | none => s

/-- Run an effect while the part has power and RESET_N is high; otherwise nothing happens (R47, R48). -/
def whenRunning (s : State) (f : State → State) : Host.Outcome State Fault Refusal := .next (if s.running then f s else s)

/-! ## The provisioning claim (R122) -/

/-- Clear the claim if this context's request holds it. -/
def State.dropClaim (s : State) (c : Ctx) : State :=
  if s.requests.claim = some c then { s with requests := { s.requests with claim := none } } else s

/-- Answer a provisioning request: the claim clears with it. -/
def State.answerClaimed (s : State) (c : Ctx) (st : Status) (detail : Nat) (body : List Byte) : State :=
  (s.answer c st detail body).dropClaim c

/-! ## Key slots and retained records, read from the working copy (R187) -/

/-- The working copy. -/
def State.wc (s : State) : Retained := s.store.working

/-- The active slot (R2). -/
def State.active (s : State) : Slot := s.wc.selector

/-- The stage is FIELD. -/
def State.inField (s : State) : Bool := s.wc.stage = .field

/-- The record of a slot in the working copy. -/
def State.slotRecord (s : State) (k : Slot) : SlotRecord := s.wc.records.get k

/-- The header of the retained tables, which both bindings share (R6, R59). -/
def Retained.header (r : Retained) : Option Table :=
  match r.tables.a with
  | some t => some t
  | none => r.tables.b

/-- Physical base of a slot from the retained header (R59). Without tables there is no slot area. -/
def State.slotBase (s : State) (k : Slot) : Nat :=
  match s.wc.header with
  | some t => t.slotBase k
  | none => 0

/-- The slot size of the retained header, 0 without tables. -/
def State.slotSize (s : State) : Nat :=
  match s.wc.header with
  | some t => t.slotSize
  | none => 0

/-- The key of an ACTIVE update root. -/
def State.activeKey (s : State) (k : Fin 4) : Option PubKey :=
  if s.wc.updateKeys[k].state = .active then some s.wc.updateKeys[k].pub else none

/-- A signature check over the digest of the message (R116): INVALID for a key off the curve, for r or s of 0 or not below the
order, and for a signature that does not verify. -/
def signatureValid (pub : PubKey) (msg : List Byte) (sig : Signature) : Bool :=
  Config.isPoint pub && sig.r != 0 && sig.s != 0 && Config.belowOrder sig.r && Config.belowOrder sig.s &&
    Config.ecdsaVerifies pub (Config.sha256 msg) sig

/-! ## The crypto engine (R117 to R119) -/

/-- The requester has a job in the FIFO. -/
def Crypto.holds (x : Crypto) (r : Requester) : Bool :=
  (match x.running with | some j => j.job.requester = r | none => false) || x.queue.any (fun j => j.requester = r)

/-- Enter a job behind those submitted before it; it waits outside while its requester's discarded job still runs (R118, R119). -/
def State.enqueueJob (s : State) (r : Requester) (k : JobKind) : State :=
  if s.crypto.holds r then { s with crypto := { s.crypto with deferred := s.crypto.deferred ++ [⟨r, k⟩] } }
  else { s with crypto := { s.crypto with queue := s.crypto.queue ++ [⟨r, k⟩] } }

/-- The result of a job, from the inputs it reads when it starts (R117, R119, R120, R68). -/
def State.jobResult (s : State) : JobKind → JobResult
  | .digest absorbed block finish =>
    if finish then .digest (Config.sha256 (absorbed ++ block)) else .absorbed (absorbed ++ block)
  | .extend n x => .digest (Config.sha256 (digestBytes s.watch.registers[n] ++ digestBytes x))
  | .signatureCheck pub msg sig => .valid (signatureValid pub msg sig)
  | .signing msg =>
    match s.wc.identity with
    | some k => .signature (Config.ecdsaSign k.priv (Config.sha256 msg) s.draws)
    | none => .noKey
  | .derivation label =>
    .digest (Config.hmac (s.wc.derivation.getD Config.absentSecret)
      (le 1 label.length ++ label ++ digestBytes s.watch.registers[0] ++ le 4 s.wc.ownerEpoch.toNat))
  | .compare slot candidate =>
    match s.wc.creds[slot].content with
    | some { value := .verifier salt d, .. } => .matched (Config.sha256 (be 16 salt.toNat ++ candidate) = d)
    | _ => .matched false

/-- With the engine idle, the oldest job starts to run at once (R118). -/
def State.startNext (s : State) : State :=
  match s.crypto.running, s.crypto.queue with
  | none, j :: rest =>
    { s with crypto := { s.crypto with running := some ⟨j, s.jobResult j.kind, false⟩, queue := rest }, draws := s.draws + 1 }
  | _, _ => s

/-- Remove a requester's queued job; a running one goes on and its result is discarded (R119). -/
def State.removeJobs (s : State) (r : Requester) : State :=
  { s with
    crypto :=
      { running := s.crypto.running.map fun j => if j.job.requester = r then { j with discarded := true } else j
        queue := s.crypto.queue.filter fun j => j.requester ≠ r
        deferred := s.crypto.deferred.filter fun j => j.requester ≠ r } }

/-- The stamp of the quote that a SIGNING job signs, as one number of its tick and sequence (R163: bytes 22 to 29 of the record). -/
def JobKind.quoteStamp : JobKind → Option Nat
  | .signing record => some (numAt record 22 6 * 0x10000 + numAt record 28 2)
  | _ => none

/-- The job signs a quote of a later stamp than this one's. -/
def Job.signsAfter (j x : Job) : Bool :=
  match j.kind.quoteStamp, x.kind.quoteStamp with
  | some a, some b => b < a
  | _, _ => false

/-- Enter a job that waited outside: at the end of the FIFO, but a SIGNING job ahead of those of later quotes, so that quotes are
signed in the order of their stamps (R119, R166). -/
def insertJob (x : Job) : List Job → List Job
  | [] => [x]
  | j :: rest => if j.signsAfter x then x :: j :: rest else j :: insertJob x rest

/-- A submission that waited for its requester's discarded job enters the FIFO (R119, R166; log entry 38). -/
def State.enterDeferred (s : State) (r : Requester) : State :=
  { s with
    crypto :=
      { s.crypto with
        queue := (s.crypto.deferred.filter (fun j => j.requester = r)).foldl (fun q j => insertJob j q) s.crypto.queue
        deferred := s.crypto.deferred.filter (fun j => j.requester ≠ r) } }

/-! ## The retained write queue (R188) -/

/-- Enter a write behind those submitted before it. -/
def State.enqueueWrite (s : State) (owner : Requester) (kind : WriteKind) : State :=
  { s with store := { s.store with queue := s.store.queue ++ [⟨owner, kind, true⟩] } }

/-- Queue the one write of a context's request, which then waits for it. -/
def State.requestWrite (s : State) (c : Ctx) (kind : WriteKind) : State := (s.enqueueWrite (.ctx c) kind).setWork c .awaitWrite

/-- A write of a discarded request of this context is still queued or in progress (R182). It may belong to a request discarded before:
that a CONTEXT_RESET which discarded an earlier waiting CONTEXT_RESET waits for the older write too is the model's choice (log
entry 49). -/
def State.discardedWrite (s : State) (c : Ctx) : Bool :=
  s.store.queue.any (fun w => w.owner = .ctx c && !w.live) ||
    (match s.store.taken with | some t => t.write.owner = .ctx c && !t.write.live | none => false)

/-! ## Background reads (R42 to R45) -/

/-- Submit a job; it starts in WAITING (R42). -/
def State.submitRead (s : State) (user : JobUser) (start length : Nat) : State :=
  { s with storage := { s.storage with job := some ⟨user, start, length, start, [], false⟩ } }

/-- Suspend a RUNNING job: it keeps the bytes read and its next address, and waits (R43). -/
def Storage.suspended (x : Storage) : Option BackgroundJob := x.job.map fun j => { j with running := false }

/-- A requester cancels its job: its bytes are discarded, and the link returns to IDLE if the job held it (R45). -/
def State.cancelRead (s : State) (user : JobUser) : State :=
  match s.storage.job with
  | none => s
  | some j =>
    if j.user = user then
      { s with
        storage := { s.storage with job := none, link := if j.running then .idle else s.storage.link } }
    else s

end Sys2Proof.Machine
end

