-- ==== Sys2Proof/Machine/Translate.lean ====
section
/-! DEFINITION. The translation unit (chapter 1): where a logical byte lies, its physical address, and the policy for reads,
programs and erases. -/

namespace Sys2Proof.Machine

open Sys2Proof

/-- The size of the presented space, 1000000h (R1). -/
def logicalSize : Nat := 0x1000000

/-- The start of the management aperture (R1). -/
def apertureBase : Nat := 0xFFC000

/-- Where a logical byte lies (R10 steps 1 to 3). -/
inductive Place where
  | aperture (page offset : Nat)
  | uncovered
  | identity
  | region (t : Table) (d : Descriptor) (k : Kind) (o : Nat)
  deriving DecidableEq, Repr

/-- Steps 1 to 3 of R10. The table in force holds known kinds only (R5). -/
def State.place (s : State) (l : Nat) : Place :=
  if apertureBase ≤ l then .aperture ((l - apertureBase) / 0x1000) (l % 0x1000)
  else
    match s.xlat.inForce with
    | .none => .uncovered
    | .identity => .identity
    | .table _ t =>
      match t.descriptors.find? (fun d => d.covers (l / 0x1000)) with
      | none => .uncovered
      | some d =>
        match d.kind? with
        | some k => .region t d k (l - d.base * 0x1000)
        | none => .uncovered

/-- Step 4 of R10: the physical address of offset `o` of a region (R4). -/
def physical (t : Table) (active : Slot) (bank : Nat) (d : Descriptor) (k : Kind) (o : Nat) : Nat :=
  match k with
  | .image => t.slotBase active + d.offset + o
  | .staging => t.slotBase active.other + bank + o
  | .data | .locked | .hidden => d.offset + o

/-- The outcome of a translation (R10 step 5, R11). -/
inductive Verdict where
  | forward (p : Nat)
  | fill
  | refuse
  | aperture (page offset : Nat)
  deriving DecidableEq, Repr

/-- The outcome record (R11). `region` is none for UNCOVERED. `stagingAt` is the slot offset of a STAGING byte. -/
structure Record where
  verdict : Verdict
  region : Option Nat
  kind : Option Kind
  stagingAt : Nat
  deriving DecidableEq, Repr

/-- An address goes to the real flash only within its 32 MiB; every valid table gives such an address (R2, R5). Elsewhere
the byte is treated as uncovered (log entry 11). -/
def toFlash (p : Nat) (region : Option Nat) (kind : Option Kind) (stagingAt : Nat) (otherwise : Verdict) : Record :=
  if p < flashSize then ⟨.forward p, region, kind, stagingAt⟩ else ⟨otherwise, none, none, 0⟩

/-- The policy for a read byte (R12). -/
def State.translateRead (s : State) (l : Nat) : Record :=
  match s.place l with
  | .aperture page off => ⟨.aperture page off, none, none, 0⟩
  | .uncovered => ⟨.fill, none, none, 0⟩
  | .identity => toFlash l none none 0 .fill
  | .region t d k o =>
    let at_ := if k = .staging then s.intake.session.bank + o else 0
    if k = .hidden ∨ (d.windowOnly ∧ ¬ s.restart.bootWindow) then ⟨.fill, some d.index, some k, at_⟩
    else toFlash (physical t s.active s.intake.session.bank d k o) (some d.index) (some k) at_ .fill

/-- The tracker state of the sector at a slot offset (R91). -/
def Intake.sector (x : Intake) (off : Nat) : SectorState := x.tracker.getD (off / 0x1000) .stale

/-- The policy for a page program (`program`) or an erase, with the update intake's sector rule (R13, R92). -/
def State.translateWrite (s : State) (program : Bool) (l : Nat) : Record :=
  match s.place l with
  | .aperture page off => ⟨.aperture page off, none, none, 0⟩
  | .uncovered => ⟨.refuse, none, none, 0⟩
  | .identity => toFlash l none none 0 .refuse
  | .region t d k o =>
    let p := physical t s.active s.intake.session.bank d k o
    match k with
    | .image | .locked | .hidden => ⟨.refuse, some d.index, some k, 0⟩
    | .data =>
      if d.writeMin ≤ s.watch.trust.level then toFlash p (some d.index) (some k) 0 .refuse
      else ⟨.refuse, some d.index, some k, 0⟩
    | .staging =>
      let off := s.intake.session.bank + o
      if s.intake.session.state = .receiving ∧ ¬ (program ∧ s.intake.sector off = .stale) then
        toFlash p (some d.index) (some k) off .refuse
      else ⟨.refuse, some d.index, some k, off⟩

/-! ## Page programs (R15) -/

/-- The page base of an address. -/
def pageBase (l : Nat) : Nat := l - l % 0x100

/-- The start offset of the kept bytes within their page, `n` bytes having been clocked (R15). -/
def keptOffset (start n : Nat) : Nat := if n ≤ 256 then start % 0x100 else (start + n) % 0x100

/-- The runs of the kept bytes: offset within the page, and bytes (R15). -/
def programRuns (off : Nat) (bytes : List Byte) : List (Nat × List Byte) :=
  if off + bytes.length ≤ 0x100 then [(off, bytes)]
  else [(off, bytes.take (0x100 - off)), (0, bytes.drop (0x100 - off))]

/-- The physical cells of a page program: the real flash wraps within its page as the part does (R15, R40). -/
def programCells (base off : Nat) (bytes : List Byte) : List (Nat × Byte) :=
  (List.range bytes.length).zipWith (fun i b => (base + (off + i) % 0x100, b)) bytes

/-! ## Block erases (R18, R19) -/

/-- The translations of the 16 granules of block `b`. -/
def State.blockRecords (s : State) (b : Nat) : List (Nat × Record) :=
  (List.range 16).map fun i => (16 * b + i, s.translateWrite false ((16 * b + i) * 0x1000))

/-- The physical address of a FORWARD record. -/
def Record.phys? (r : Record) : Option Nat :=
  match r.verdict with
  | .forward p => some p
  | _ => none

/-- One physical block erase where the 16 addresses are aligned and consecutive, else 16 sector erases (R19). -/
def eraseOps (ps : List Nat) : List FlashOp :=
  match ps with
  | [] => []
  | p0 :: _ =>
    if p0 % 0x10000 = 0 ∧ ps = (List.range 16).map (fun i => p0 + i * 0x1000) then [.eraseBlock p0]
    else ps.map .eraseSector

end Sys2Proof.Machine
end

