-- ==== Sys2Proof/Machine/Hits.lean ====
section
/-! DEFINITION. Stamps (R136 to R140), watch hits and their actions (R76 to R86), and the assembly of a quote record (R163),
which takes its stamp in the same step. -/

namespace Sys2Proof.Machine

open Sys2Proof

/-! ## Stamps -/

/-- Stamps cannot be issued (R139). -/
def State.stampsExhausted (s : State) : Bool :=
  s.wc.bootCount = 0xFFFFFFFF ||
    (s.time.tick = tickMax &&
      match s.time.lastStamp with
      | some x => x.tick = tickMax && x.seq = 65535
      | none => false)

/-- The stamp the time base would issue now, none when the request must wait (R137). -/
def State.nextStamp (s : State) : Option Stamp :=
  if ¬ s.time.bootCounted then none
  else
    match s.time.lastStamp with
    | none => some ⟨s.wc.bootCount, s.time.tick, 0⟩
    | some x =>
      if x.tick ≠ s.time.tick then some ⟨s.wc.bootCount, s.time.tick, 0⟩
      else if x.seq < 65535 then some ⟨s.wc.bootCount, s.time.tick, x.seq + 1⟩
      else none

/-- The stamp issued becomes the last stamp (R137). -/
def State.issue (s : State) (x : Stamp) : State := { s with time := { s.time with lastStamp := some x } }

/-- A request joins the stamp wait list (R138). -/
def State.waitStamp (s : State) (r : StampRequest) : State := { s with time := { s.time with waiting := s.time.waiting ++ [r] } }

/-- A request leaves the stamp wait list (R140). -/
def State.unwaitStamp (s : State) (r : StampRequest) : State :=
  { s with time := { s.time with waiting := s.time.waiting.filter (· ≠ r) } }

/-! ## Trust falls and reservations -/

/-- A reservation that covers a target of a minimum above the new level becomes LOST (R152). -/
def Reservation.onFall (r : Reservation) (creds : Vector CredRecord 32) (level : Nat) : Reservation :=
  match r with
  | .valid ts => if ts.any (fun t => level < creds[t.1].minTrust) then .lost ts else .valid ts
  | r => r

/-- A DEGRADE hit lowers the trust level (R85): TRUST_DROP is raised and the credential store is told (R86). -/
def State.degrade (s : State) : State :=
  if Trust.degraded.level < s.watch.trust.level then
    let s := { s with watch := { s.watch with trust := .degraded } }
    let s := s.raise sourceTrustDrop
    { s with
      creds :=
        { s.creds with
          reservations :=
            ⟨s.creds.reservations.c0.onFall s.wc.creds Trust.degraded.level,
              s.creds.reservations.c1.onFall s.wc.creds Trust.degraded.level⟩ } }
  else s

/-! ## The hit list -/

/-- Add a record at the front; a full list drops its oldest (R81). -/
def Watch.add (w : Watch) (h : HitRecord) : Watch :=
  { w with
    hits := (h :: w.hits).take 8
    drops := if w.hits.length < 8 then w.drops else satInc 0xFFFF w.drops
    hitsSince := satInc 0xFFFFFFFF w.hitsSince }

/-- The emptying of the watch table, the setting of trust and of the hits-since-restart count at an entry into HELD, done
once the report of an abandoned read has been taken (R51 steps 6 and 8, R80, R81). -/
def State.holdClear (s : State) : State :=
  { s with watch := { s.watch with table := [], trust := .unverified, hitsSince := 0, holdDeferred := false } }

/-- Add the record of a hit with its stamp (R79). -/
def State.addHit (s : State) (h : PendingHit) (x : Stamp) : State :=
  { s with watch := s.watch.add ⟨x, h.start, h.kind, h.region, h.entry⟩ }

/-- Apply the actions of a hit whose record has been added (R79). -/
def State.hitActions (s : State) (h : PendingHit) : State :=
  let s := if h.alert then s.raise sourceWatch else s
  let s := if h.degrade then s.degrade else s
  if h.endsHold ∧ s.watch.holdDeferred then s.holdClear else s

/-- Record a hit with its stamp, then apply its actions (R79). -/
def State.recordHit (s : State) (h : PendingHit) (x : Stamp) : State := (s.addHit h x).hitActions h

/-- Take the waiting hits in order until one must wait for its stamp (R79). The fuel is the number of waiting hits. An exhausted
boot count answers at once also before this restart's boot count write has completed (R137, R139): the model's choice (log entry
43). -/
def State.pumpHits : Nat → State → State
  | 0, s => s
  | n + 1, s =>
    if s.time.waiting.contains .hit then s
    else
      match s.watch.waiting with
      | [] => s
      | h :: rest =>
        let popped := { s with watch := { s.watch with waiting := rest } }
        if s.stampsExhausted then State.pumpHits n (popped.recordHit h Stamp.zero)
        else
          match s.time.waiting, s.nextStamp with
          | [], some x => State.pumpHits n ((popped.issue x).recordHit h x)
          | _, _ => s.waitStamp .hit

/-- Hand recognised hits to the unit, in order. -/
def State.takeHits (s : State) (hs : List PendingHit) : State :=
  let s := { s with watch := { s.watch with waiting := s.watch.waiting ++ hs } }
  s.pumpHits s.watch.waiting.length

/-! ## Reports -/

/-- The hit of a watch entry with its index and its actions (R76, R77). -/
def WatchEntry.hit (w : WatchEntry) (start : Nat) (kind : AccessKind) (region : Option Nat) (i : Nat) : PendingHit :=
  ⟨start, kind, region, some i, w.alert, w.degrade, false⟩

/-- The watch entries in force (R73, R80): none in HELD, also not while the emptying of the table waits for the hits of an
abandoned read. -/
def State.watchInForce (s : State) : List WatchEntry := if s.watch.holdDeferred then [] else s.watch.table

/-- A read report (R76): one hit for each READ entry that a returned byte touches, with the region of the first such byte. -/
def readHits (table : List WatchEntry) (start : Nat) (returned : List (Nat × Option Nat)) : List PendingHit :=
  (table.zipIdx.filterMap fun e =>
    if e.1.onRead then
      (returned.find? fun b => e.1.inRange (b.1 / 0x1000)).map fun b => e.1.hit start .read b.2 e.2
    else none)

/-- A completion report (R77): one hit for each entry of the kind whose range holds a covered granule. -/
def completionHits (table : List WatchEntry) (f : HostForward) : List PendingHit :=
  (table.zipIdx.filterMap fun e =>
    if e.1.watches f.kind then
      (f.granules.find? fun g => e.1.inRange g.1).map fun g => e.1.hit f.start f.kind g.2 e.2
    else none)

/-- A refusal report (R78): exactly one hit, marked REFUSED, with no action. -/
def State.reportRefusal (s : State) (start : Nat) (kind : AccessKind) (region : Option Nat) : State :=
  s.takeHits [⟨start, kind, region, none, false, false, false⟩]

/-- The altered flag bit of a region index (R75, R83). -/
def alteredBit (region : Option Nat) : BitVec 16 :=
  match region with
  | some i => BitVec.ofNat 16 (2 ^ i)
  | none => 0

/-- A completion report sets the altered flag of each covered region and gives its hits (R36, R77, R83). -/
def State.reportCompletion (s : State) (f : HostForward) : State :=
  let s :=
    { s with
      watch := { s.watch with altered := f.granules.foldl (fun (a : BitVec 16) (g : Nat × Option Nat) => a ||| alteredBit g.2) s.watch.altered } }
  s.takeHits (completionHits s.watch.table f)

/-! ## Quotes -/

/-- The measurement registers a mask selects, in ascending order (R70, R163). -/
def selectedRegisters (regs : Vector Digest 8) (mask : Nat) : List Byte :=
  (regs.toList.zipIdx.filter fun r => mask.testBit r.2).flatMap fun r => digestBytes r.1

/-- The number of SET credential slots (R145, R163). -/
def setCredentials (r : Retained) : Nat := (r.creds.toList.filter fun c => c.content.isSome).length

/-- The quote record before its signature, every field as it stands (R163; chapter 11). The byte order of the serial's 16 bytes
is the model's choice (log entry 37). -/
def State.quoteRecord (s : State) (mask : Nat) (nonce : List Byte) (x : Stamp) : List Byte :=
  [0x01] ++ be 16 s.wc.serial.toNat ++ [lifecycleCode s.wc] ++ x.bytes ++ [flagByte s.time.wall.isSome] ++
    le 8 ((s.time.wallAt x.tick).getD 0) ++ s.restart.outcome.bytes ++ [s.wc.selector.code] ++
    ([s.wc.records.a.state.code] ++ le 4 s.wc.records.a.version) ++
    ([s.wc.records.b.state.code] ++ le 4 s.wc.records.b.version) ++ le 4 s.wc.floor ++ le 1 s.watch.trust.level ++
    [flagByte s.restart.bootWindow] ++ le 1 mask ++ selectedRegisters s.watch.registers mask ++
    le 2 s.watch.altered.toNat ++ le 4 s.watch.hitsSince ++ le 2 s.watch.drops ++ le 1 (setCredentials s.wc) ++
    le 4 s.wc.ownerEpoch.toNat ++ [s.intake.session.state.code] ++ le 1 nonce.length ++ nonce

/-- Set the quote state of a context (R162). -/
def State.setQuote (s : State) (c : Ctx) (q : QuoteState) : State := s.setCtx c { s.ctx c with quote := q }

/-- The body of the executing request. -/
def State.body (s : State) (c : Ctx) : List Byte :=
  match (s.ctx c).request with
  | some r => r.body
  | none => []

/-- The time base has issued the quote's stamp: the record is assembled in the same step and its SIGNING job is submitted
(R162, R163, R164). -/
def State.assembleQuote (s : State) (c : Ctx) (x : Stamp) : State :=
  let record := s.quoteRecord (byteAt (s.body c) 0) ((s.body c).drop 1) x
  (s.setQuote c (.signing record)).enqueueJob (.ctx c) (.signing record)

/-- The quote builder asks for its stamp (R137 to R139, R162). An exhausted boot count answers at once also before this restart's
boot count write has completed: the model's choice (log entry 43). -/
def State.askQuoteStamp (s : State) (c : Ctx) : State :=
  if s.stampsExhausted then s.answerError c .exhausted
  else
    match s.time.waiting, s.nextStamp with
    | [], some x => (s.issue x).assembleQuote c x
    | _, _ => (s.setQuote c .waitingStamp).waitStamp (.quote c)

/-- The waiting hit at the head of the list has its stamp: its record is added, and its actions are applied. Where the next
stamp is a quote's and the hit carries DEGRADE, the quote may be assembled before or after the action (R166): a free choice
(log entry 20). -/
def State.serveHit (s : State) (h : PendingHit) (x : Stamp) : State :=
  let t := (s.issue x).addHit h x
  match t.time.waiting, t.nextStamp with
  | .quote c :: rest, some y =>
    let u := { t with draws := t.draws + 1 }
    if h.degrade ∧ Config.quoteFirst t.draws then
      (({ u with time := { u.time with waiting := rest } }.issue y).assembleQuote c y).hitActions h
    else u.hitActions h
  | _, _ => t.hitActions h

/-- Serve the stamp wait list in order for as long as stamps can be issued, or answered as exhausted (R138, R139). The fuel
bounds the requests that can be served. -/
def State.serveStamps : Nat → State → State
  | 0, s => s
  | n + 1, s =>
    match s.time.waiting with
    | [] => s
    | r :: rest =>
      let popped := { s with time := { s.time with waiting := rest } }
      if s.stampsExhausted then
        match r with
        | .quote c => State.serveStamps n (popped.answerError c .exhausted)
        | .hit => State.serveStamps n (popped.pumpHits popped.watch.waiting.length)
      else
        match s.nextStamp with
        | none => s
        | some x =>
          match r with
          | .quote c => State.serveStamps n ((popped.issue x).assembleQuote c x)
          | .hit =>
            match popped.watch.waiting with
            | [] => State.serveStamps n popped
            | h :: hs =>
              let s' := { popped with watch := { popped.watch with waiting := hs } }.serveHit h x
              State.serveStamps n (s'.pumpHits s'.watch.waiting.length)

/-- Serve every request that can be served now. -/
def State.serveAllStamps (s : State) : State := s.serveStamps (s.time.waiting.length + s.watch.waiting.length)

end Sys2Proof.Machine
end

