-- ==== Sys2Proof/Machine/Aperture.lean ====
section
/-! DEFINITION. The request assembler (chapter 10): response pages, frame assembly, request-busy, and the discarding of an
executing request. -/

namespace Sys2Proof.Machine

open Sys2Proof

/-! ## Reading the pages -/

/-- The context an aperture page belongs to (R1). -/
def pageCtx (page : Nat) : Ctx := if page < 2 then .c0 else .c1

/-- Pages 1 and 3 are response pages (R1). -/
def isResponsePage (page : Nat) : Bool := page % 2 = 1

/-- The header and body of a response as the page gives them (R179). -/
def Response.bytes : Response → List Byte
  | .none => [0x6A, Status.none.code] ++ zeros 6
  | .pending tag code => [0x6A, Status.pending.code] ++ le 2 tag ++ le 2 0 ++ le 1 code ++ [0]
  | .ready tag code st detail body => [0x6A, st.code] ++ le 2 tag ++ le 2 body.length ++ le 1 code ++ le 1 detail ++ body

/-- One byte of an aperture page: a request page reads FFh, and a response page FFh beyond the response (R179). -/
def State.apertureByte (s : State) (page off : Nat) : Byte :=
  if isResponsePage page then (s.ctx (pageCtx page)).response.bytes.getD off fill else fill

/-- The response is READY. -/
def Response.isReady : Response → Bool
  | .ready _ _ _ _ _ => true
  | _ => false

/-- Reading offset 0 of a READY response clears the RESPONSE source (R179). -/
def State.readAperture (s : State) (page off : Nat) : State :=
  if isResponsePage page ∧ off = 0 ∧ (s.ctx (pageCtx page)).response.isReady then s.clearSource (responseSource (pageCtx page))
  else s

/-! ## Discarding an executing request (R178) -/

/-- Writes that stay queued when their request is discarded by a context reset (R178). -/
def WriteKind.keptOnReset : WriteKind → Bool
  | .openSession _ => true
  | .commit _ _ _ => true
  | .clearPending => true
  | .confirm => true
  | _ => false

/-- The request of this context waits for this write. -/
def Write.waitedBy (w : Write) (c : Ctx) : Bool := w.owner = .ctx c && w.live

/-- The context's queued write is withdrawn, or kept without a requester to tell; a started one completes (R52, R178). -/
def State.discardWrites (s : State) (c : Ctx) : State :=
  { s with
    store :=
      { s.store with
        queue := s.store.queue.filterMap fun w =>
          if w.waitedBy c then (if w.kind.keptOnReset then some { w with live := false } else none) else some w
        taken := s.store.taken.map fun t =>
          if t.write.waitedBy c then { t with write := { t.write with live := false } } else t } }

/-- The open claim that belongs to this context's UPDATE_OPEN is cleared (R178). -/
def State.discardOpen (s : State) (c : Ctx) : State :=
  let ids := (s.store.queue ++ (s.store.taken.map (·.write)).toList).filterMap fun w =>
    match w.kind with
    | .openSession n => if w.waitedBy c then some n else none
    | _ => none
  match s.intake.session.claim with
  | none => s
  | some n =>
    if ids.contains n then { s with intake := { s.intake with session := { s.intake.session with claim := none } } } else s

/-- The writes of the provisioning requests, which hold the claim (R122). -/
def WriteKind.provisioning : WriteKind → Bool
  | .loadTable _ => true
  | .identity _ _ => true
  | .certificate _ => true
  | .injectKey _ _ => true
  | .advance _ => true
  | _ => false

/-- A provisioning write of this context has started. Its request may have been discarded before. -/
def State.provisioningStarted (s : State) (c : Ctx) : Bool :=
  match s.store.taken with
  | some t => t.write.owner = .ctx c && t.write.kind.provisioning
  | none => false

/-- A provisioning claim held by the discarded request clears now unless its write has started: then it clears when the write
completes, or at the entry into HELD that a LIFECYCLE_ADVANCE triggers (R122, R178). A later reset frame finds that write still
running and leaves the claim to it. -/
def State.discardClaim (s : State) (c : Ctx) : State :=
  let s := { s with requests := { s.requests with claimQueue := s.requests.claimQueue.filter (· ≠ c) } }
  if s.provisioningStarted c then s else s.dropClaim c

/-- The first step of a reset frame in EXECUTING (R178): the executing request is discarded without a response. -/
def State.discardRequest (s : State) (c : Ctx) : State :=
  let s := s.discardOpen c
  let s := s.discardClaim c
  let s := s.discardWrites c
  let s := s.unwaitStamp (.quote c)
  s.removeJobs (.ctx c)

/-! ## Frames -/

/-- The assembler answers FRAMING or TIMEOUT for the frame bytes received so far (R173 to R175). -/
def State.assemblerAnswer (s : State) (c : Ctx) (st : Status) (detail : Nat) (received : List Byte) : State :=
  s.ready c (tagEcho received) (codeEcho received) st detail []

/-- A frame is taken (R174): EXECUTING, PENDING, request-busy set, and routed. -/
def State.takeFrame (s : State) (c : Ctx) (frame : List Byte) : State :=
  let code := byteAt frame 1
  let tag := numAt frame 2 2
  let s := s.setCtx c
    ⟨.executing, frame, none, some (s.time.tick + 50), some ⟨code, tag, frame.drop 8, .routed⟩, .pending tag code, .none⟩
  s.clearSource (responseSource c)

/-- A taken frame of an unlisted code is answered by the assembler at once (R177). -/
def State.answerUnlisted (s : State) (c : Ctx) : State :=
  match (s.ctx c).state, (s.ctx c).request with
  | .executing, some r => if requestCodes.contains r.code then s else s.answerError c .unknownRequest
  | _, _ => s

/-- The bytes of an accepted delivery have been placed: header check, taking of the frame, or a new assembly deadline
(R173, R174, R175). -/
def State.placed (s : State) (c : Ctx) (buffer : List Byte) : State :=
  if buffer.length < 8 then
    s.setCtx c { s.ctx c with state := .assembling, buffer := buffer, deadline := some (s.time.tick + 1000) }
  else
    match headerFailure buffer with
    | some detail => s.assemblerAnswer c .framing detail buffer
    | none =>
      if 8 + headerLength buffer ≤ buffer.length then s.takeFrame c (buffer.take (8 + headerLength buffer))
      else s.setCtx c { s.ctx c with state := .assembling, buffer := buffer, deadline := some (s.time.tick + 1000) }

/-- What a delivery does (R173): the new state, or none where it is refused. -/
def State.deliver (s : State) (page off : Nat) (bytes : List Byte) : Option State :=
  let c := pageCtx page
  let x := s.ctx c
  if isResponsePage page then none
  else
    match x.state with
    | .executing =>
      if off = 0 ∧ isResetFrame bytes then some ((s.discardRequest c).takeFrame c (bytes.take 8)) else none
    | .idle =>
      if off = 0 then some (s.placed c bytes) else some (s.assemblerAnswer c .framing 0x01 [])
    | .assembling =>
      if off = 0 then some (s.placed c bytes)
      else if off = x.buffer.length then some (s.placed c (x.buffer ++ bytes))
      else some (s.assemblerAnswer c .framing 0x01 x.buffer)

/-- The deliveries of a page program into the aperture, the first run first; the flag says that one was refused (R16, R34). Each run is
a delivery by the table of R173. For a second run that is itself a reset frame, behind a first run that took a frame, the prose of
R173 has it refused and its table and R178 have it taken: that the model takes it is its choice (log entry 48). -/
def State.deliverAll (s : State) (page base : Nat) : List (Nat × List Byte) → State × Bool
  | [] => (s, false)
  | (off, bytes) :: rest =>
    match s.deliver page (base + off) bytes with
    | none => ((State.deliverAll s page base rest).1, true)
    | some s' => State.deliverAll s' page base rest

/-- A page program reaches the assembler: its deliveries, then the answer to a frame of an unlisted code that it completed, so that a
second run finds the context of such a frame EXECUTING too (R173, R177). The flag says that a delivery was refused. -/
def State.deliverProgram (s : State) (page base : Nat) (runs : List (Nat × List Byte)) : State × Bool :=
  let out := s.deliverAll page base runs
  (if (s.ctx (pageCtx page)).state = .executing then out.1 else out.1.answerUnlisted (pageCtx page), out.2)

/-- A sector erase of an aperture page (R20, R173, R180): a partial frame is discarded, or a READY response cleared. -/
def State.eraseAperture (s : State) (page : Nat) : State :=
  let c := pageCtx page
  let x := s.ctx c
  if isResponsePage page then
    if x.response.isReady then (s.setCtx c { x with response := .none }).clearSource (responseSource c) else s
  else if x.state = .assembling then s.setCtx c { x with state := .idle, buffer := [], deadline := none }
  else s

end Sys2Proof.Machine
end

