-- ==== Sys2Proof/Machine/Upstream.lean ====
section
/-! DEFINITION. The upstream link interface (chapter 2): the decoder byte slot by byte slot, reads, and what a performed
program or erase does at the release of HCS_N. -/

namespace Sys2Proof.Machine

open Sys2Proof

/-- Replace the decoder. -/
def State.setDecoder (s : State) (d : Decoder) : State := { s with link := { s.link with decoder := d } }

/-! ## Reads -/

/-- The storage link serves a host read byte at a physical address (R39): a running background job is suspended (R43), and
the physical read goes on or a new one is opened. -/
def State.hostRead (s : State) (p : Nat) : State :=
  { s with storage := { s.storage with link := .hostRead, readAt := some (p + 1), job := s.storage.suspended } }

/-- The value of a read byte, from one of the four sources of R32. -/
def State.readByte (s : State) (r : Record) : Byte :=
  match r.verdict with
  | .aperture page off => s.apertureByte page off
  | .forward p => if s.forwarding then fill else Memory.read s.flash.mem p
  | _ => fill

/-- What serving a read byte does: the aperture's RESPONSE source, or the storage link's host read (R32, R39, R179). -/
def State.serveByte (s : State) (r : Record) : State :=
  match r.verdict with
  | .aperture page off => s.readAperture page off
  | .forward p => if s.forwarding then s else s.hostRead p
  | _ => s

/-- The next byte of a read is translated and served, before its data is sent (R11, R32, R39, R179). -/
def State.translateAhead (s : State) : State :=
  let d := s.link.decoder
  let r := s.translateRead d.addr
  (s.serveByte r).setDecoder { d with ahead := some (s.readByte r, r.region) }

/-- The byte translated is driven and counts as returned (R14, R33). -/
def Decoder.driveRead (d : Decoder) (value : Byte) (region : Option Nat) : Decoder :=
  { d with
    addr := (d.addr + 1) % logicalSize
    ahead := none
    count := d.count + 1
    returned := d.returned ++ [(d.addr, region)]
    out := d.out ++ [value] }

/-- One data byte slot of a read (R14, R32). The first byte was translated with its last address bit (R11). The address of a
following byte is not clocked, and the model translates it as its own slot begins (log entry 33). -/
def State.readSlot (s : State) : State :=
  let t := if s.link.decoder.ahead = none then s.translateAhead else s
  match t.link.decoder.ahead with
  | some (value, region) => t.setDecoder (t.link.decoder.driveRead value region)
  | none => t

/-- One byte of READ IDENTIFICATION (R31). -/
def idByte (i : Nat) : Byte := [0xD7, 0x2C, 0x18].getD i 0

/-- A data byte driven that is not a read's (R29, R31). -/
def State.driveSlot (s : State) (b : Byte) : State :=
  let d := s.link.decoder
  s.setDecoder { d with count := d.count + 1, out := d.out ++ [b] }

/-! ## Programs and erases at the release of HCS_N -/

/-- The host forward is handed to the storage link controller (R40): a running background job is suspended (R44). -/
def State.startForward (s : State) (f : HostForward) : State :=
  { s with
    storage := { s.storage with link := .hostForward, readAt := none, forward := some f, job := s.storage.suspended }
    flash := { s.flash with busy := f.ops.head? } }

/-- A forwarded STAGING program or erase renews the inactivity deadline (R92, R96). -/
def State.renewStaging (s : State) : State :=
  { s with
    intake := { s.intake with session := { s.intake.session with deadline := some (s.time.tick + 60000) } } }

/-- The refusal of a performed program or erase: REFUSED is set and one refusal is reported (R27, R34, R35). -/
def State.refuse (s : State) (start : Nat) (kind : AccessKind) (region : Option Nat) : State :=
  { s with link := { s.link with refused := true } }.reportRefusal start kind region

/-- The write-enable latch is cleared by a performed program or erase (R26). -/
def State.clearWel (s : State) : State := { s with link := { s.link with wel := false } }

/-- Each refused page program into the STAGING region is counted (R92). -/
def State.countRefused (s : State) (kind : Option Kind) : State :=
  if kind = some .staging then
    { s with
      intake :=
        { s.intake with
          session := { s.intake.session with refusedPrograms := satInc 0xFFFF s.intake.session.refusedPrograms } } }
  else s

/-- A PAGE PROGRAM is performed with `n` bytes clocked and `bytes` kept (R34). -/
def State.performProgram (s : State) (start n : Nat) (bytes : List Byte) : State :=
  let base := pageBase start
  let off := keptOffset start n
  let r := s.translateWrite true base
  let s := s.clearWel
  match r.verdict with
  | .aperture page inPage =>
    let out := s.deliverProgram page inPage (programRuns off bytes)
    if out.2 then out.1.refuse start .program none else out.1
  | .forward p =>
    let staging :=
      if r.kind = some .staging then
        some (.program ((programRuns off bytes).map fun x => (r.stagingAt + x.1, x.2)))
      else none
    let s := s.startForward
      ⟨.program, start, [.program (programCells p off bytes)], 0, [(start / 0x1000, r.region)], staging, true⟩
    if r.kind = some .staging then s.renewStaging else s
  | _ => (s.countRefused r.kind).refuse start .program r.region

/-- The slot offsets div 1000h of the STAGING sectors among erased granules (R93). -/
def stagingSectors (rs : List (Nat × Record)) : List Nat :=
  rs.filterMap fun x => if x.2.kind = some .staging then some (x.2.stagingAt / 0x1000) else none

/-- What an erase in the STAGING region tells the update intake. -/
def stagingErase (rs : List (Nat × Record)) : Option StagingReport :=
  if stagingSectors rs = [] then none else some (.erase (stagingSectors rs))

/-- A forwarded erase of the granules translated (R35, R40). -/
def State.forwardErase (s : State) (start : Nat) (ops : List FlashOp) (rs : List (Nat × Record)) : State :=
  let s := s.startForward ⟨.erase, start, ops, 0, rs.map (fun x => (x.1, x.2.region)), stagingErase rs, true⟩
  if stagingErase rs = none then s else s.renewStaging

/-- A SECTOR ERASE is performed (R17, R20, R35). -/
def State.performSectorErase (s : State) (start : Nat) : State :=
  let g := start / 0x1000
  let r := s.translateWrite false (g * 0x1000)
  let s := s.clearWel
  match r.verdict with
  | .aperture page _ => s.eraseAperture page
  | .forward p => s.forwardErase (g * 0x1000) [.eraseSector p] [(g, r)]
  | _ => s.refuse (g * 0x1000) .erase r.region

/-- A BLOCK ERASE is performed (R18, R19, R35). -/
def State.performBlockErase (s : State) (start : Nat) : State :=
  let b := start / 0x10000
  let rs := s.blockRecords b
  let s := s.clearWel
  match rs.find? (fun x => x.2.phys?.isNone) with
  | some x => s.refuse (b * 0x10000) .erase x.2.region
  | none => s.forwardErase (b * 0x10000) (eraseOps (rs.filterMap fun x => x.2.phys?)) rs

/-- A CHIP ERASE is performed: always refused (R24). -/
def State.performChipErase (s : State) : State := s.clearWel.refuse 0 .erase none

/-! ## The decoder -/

/-- The programs and erases, which WEL and BUSY gate when their command byte is taken (R22, R26, R30). -/
def LinkCmd.gated : LinkCmd → Bool
  | .pageProgram => true
  | .sectorErase => true
  | .blockErase => true
  | .chipErase => true
  | _ => false

/-- The first phase of a command after its command byte (R22). -/
def LinkCmd.firstPhase : LinkCmd → DecoderState
  | .read => .address
  | .fastRead => .address
  | .quadRead => .address
  | .pageProgram => .address
  | .sectorErase => .address
  | .blockErase => .address
  | .readStatus => .dataOut
  | .readId => .dataOut
  | .writeEnable => .complete
  | .writeDisable => .complete
  | .chipErase => .complete
  | .unknown _ => .ignoring

/-- The phase after the third address byte (R22). -/
def LinkCmd.afterAddress : LinkCmd → DecoderState
  | .read => .dataOut
  | .fastRead => .dummy
  | .quadRead => .dummy
  | .pageProgram => .dataIn
  | _ => .complete

/-- The command performs reads of the presented space (R32). -/
def LinkCmd.isRead : LinkCmd → Bool
  | .read => true
  | .fastRead => true
  | .quadRead => true
  | _ => false

/-- HCS_N is asserted (R21): OPCODE. A transaction begins with nothing driven. -/
def State.select (s : State) : State :=
  if s.link.decoder.state = .idle then s.setDecoder { Decoder.idle with state := .opcode } else s

/-- The command byte is taken in OPCODE (R22, R24, R30). -/
def State.takeCommand (s : State) (cmd : LinkCmd) : State :=
  if s.link.decoder.state = .opcode then
    let ignored := cmd.gated ∧ (s.busy ∨ ¬ s.link.wel)
    s.setDecoder { s.link.decoder with cmd := some cmd, state := if ignored then .ignoring else cmd.firstPhase }
  else s

/-- The third address byte completes the start address, most significant byte first (R21). -/
def Decoder.takeAddress (d : Decoder) (cmd : LinkCmd) (b : Byte) : Decoder :=
  let bytes := d.addrBytes ++ [b]
  if bytes.length < 3 then { d with addrBytes := bytes }
  else { d with addrBytes := bytes, addr := ofBe bytes, start := ofBe bytes, state := cmd.afterAddress }

/-- A data byte in, the last 256 kept (R15, R21). -/
def Decoder.takeData (d : Decoder) (b : Byte) : Decoder :=
  let data := d.data ++ [b]
  { d with data := data.drop (data.length - 256), count := d.count + 1 }

/-- An address byte is taken; the last one of a read has the first data byte translated (R11, R21). -/
def State.addressSlot (s : State) (cmd : LinkCmd) (b : Byte) : State :=
  let t := s.setDecoder (s.link.decoder.takeAddress cmd b)
  if cmd.isRead ∧ t.link.decoder.state ≠ .address then t.translateAhead else t

/-- One whole byte slot after the command byte (R21, R22, R23). -/
def State.clockSlot (s : State) (cmd : LinkCmd) (b : Byte) : State :=
  let d := s.link.decoder
  match d.state with
  | .idle => s
  | .opcode => s
  | .address => s.addressSlot cmd b
  | .dummy => s.setDecoder { d with state := .dataOut }
  | .dataOut =>
    if cmd.isRead then s.readSlot
    else if cmd = .readStatus then s.driveSlot s.statusByte
    else s.driveSlot (idByte d.count)
  | .dataIn => s.setDecoder (d.takeData b)
  | .complete => s.setDecoder { d with state := .ignoring, eraseStands := cmd = .sectorErase ∨ cmd = .blockErase }
  | .ignoring => s

/-- A read transaction ends: it is reported if it returned a byte, against the entries in force (R76, R80), and the storage link
ends its physical read (R33, R39). `endsHold` marks the last hit of the report at an entry into HELD (R80). -/
def State.endRead (s : State) (endsHold : Bool) : State :=
  let d := s.link.decoder
  let s :=
    if s.storage.link = .hostRead then { s with storage := { s.storage with link := .idle, readAt := none } } else s
  let hs := readHits s.watchInForce d.start d.returned
  let hs := if endsHold then hs.dropLast ++ (hs.getLast?.map fun h => { h with endsHold := true }).toList else hs
  if d.returned = [] then s else s.takeHits hs

/-- What the release of HCS_N performs (R23); `stray` clocks of a byte are not whole. -/
def State.perform (s : State) (cmd : LinkCmd) (stray : Nat) : State :=
  let d := s.link.decoder
  match cmd with
  | .read => s.endRead false
  | .fastRead => s.endRead false
  | .quadRead => s.endRead false
  | .readStatus => s
  | .readId => s
  | .unknown _ => s
  | .writeEnable =>
    if d.state = .complete ∧ stray = 0 ∧ ¬ s.busy then { s with link := { s.link with wel := true, refused := false } } else s
  | .writeDisable =>
    if d.state = .complete ∧ stray = 0 ∧ ¬ s.busy then { s with link := { s.link with wel := false } } else s
  | .chipErase => if d.state = .complete ∧ stray = 0 then s.performChipErase else s
  | .sectorErase => if (d.state = .complete ∨ d.eraseStands) ∧ stray = 0 then s.performSectorErase d.start else s
  | .blockErase => if (d.state = .complete ∨ d.eraseStands) ∧ stray = 0 then s.performBlockErase d.start else s
  | .pageProgram =>
    if d.state = .dataIn ∧ 0 < d.count ∧ stray = 0 then s.performProgram d.start d.count d.data else s

/-- HCS_N is released: the command is finished or abandoned, and the decoder returns to IDLE (R21, R23). -/
def State.release (s : State) (cmd : LinkCmd) (stray : Nat) : State :=
  let t := s.perform cmd stray
  t.setDecoder { Decoder.idle with out := s.link.decoder.out }

/-- The decoder holds this row's command in the transaction in progress. -/
def State.holdsCmd (s : State) (cmd : LinkCmd) : Bool := s.link.decoder.state ≠ .idle && s.link.decoder.cmd = some cmd

/-- The byte slots of a transaction in progress. -/
def State.clockAll (s : State) (cmd : LinkCmd) (bytes : List Byte) : State := bytes.foldl (fun t b => t.clockSlot cmd b) s

/-- A whole transaction from IDLE. -/
def State.transact (s : State) (cmd : LinkCmd) (bytes : List Byte) (stray : Nat) : State :=
  (((s.select).takeCommand cmd).clockAll cmd bytes).release cmd stray

/-- One command of the upstream link, in the part of its transaction that the step delivers. A part that does not fit the
transaction in progress has no effect (log entry 1). -/
def State.linkStep (s : State) (cmd : LinkCmd) : LinkStep → State
  | .select => s.select
  | .command => s.takeCommand cmd
  | .clock bytes => if s.holdsCmd cmd then s.clockAll cmd bytes else s
  | .release stray => if s.holdsCmd cmd then s.release cmd stray else s
  | .transaction bytes stray => if s.link.decoder.state = .idle then s.transact cmd bytes stray else s

/-! ## The commands -/

/-- READ (R32). -/
def execRead (step : LinkStep) (s : State) : Host.Outcome State Fault Refusal := whenRunning s fun s => s.linkStep .read step

/-- FAST READ (R32). -/
def execFastRead (step : LinkStep) (s : State) : Host.Outcome State Fault Refusal :=
  whenRunning s fun s => s.linkStep .fastRead step

/-- QUAD OUTPUT FAST READ (R32). -/
def execQuadOutputFastRead (step : LinkStep) (s : State) : Host.Outcome State Fault Refusal :=
  whenRunning s fun s => s.linkStep .quadRead step

/-- WRITE ENABLE (R26, R27). -/
def execWriteEnable (step : LinkStep) (s : State) : Host.Outcome State Fault Refusal :=
  whenRunning s fun s => s.linkStep .writeEnable step

/-- WRITE DISABLE (R26). -/
def execWriteDisable (step : LinkStep) (s : State) : Host.Outcome State Fault Refusal :=
  whenRunning s fun s => s.linkStep .writeDisable step

/-- READ STATUS (R29). -/
def execReadStatus (step : LinkStep) (s : State) : Host.Outcome State Fault Refusal :=
  whenRunning s fun s => s.linkStep .readStatus step

/-- READ IDENTIFICATION (R31). -/
def execReadIdentification (step : LinkStep) (s : State) : Host.Outcome State Fault Refusal :=
  whenRunning s fun s => s.linkStep .readId step

/-- PAGE PROGRAM (R34). -/
def execPageProgram (step : LinkStep) (s : State) : Host.Outcome State Fault Refusal :=
  whenRunning s fun s => s.linkStep .pageProgram step

/-- SECTOR ERASE (R35). -/
def execSectorErase (step : LinkStep) (s : State) : Host.Outcome State Fault Refusal :=
  whenRunning s fun s => s.linkStep .sectorErase step

/-- BLOCK ERASE (R35). -/
def execBlockErase (step : LinkStep) (s : State) : Host.Outcome State Fault Refusal :=
  whenRunning s fun s => s.linkStep .blockErase step

/-- CHIP ERASE (R24). -/
def execChipErase (step : LinkStep) (s : State) : Host.Outcome State Fault Refusal :=
  whenRunning s fun s => s.linkStep .chipErase step

/-- A command byte that is none of the eleven (R24). A byte that is one of them is decoded as that command. -/
def execUnknownCommand (code : Byte) (step : LinkStep) (s : State) : Host.Outcome State Fault Refusal :=
  whenRunning s fun s => s.linkStep (LinkCmd.ofCode code) step

/-- The transaction in progress carries none of the eleven commands (R24, R25). -/
def Decoder.undecoded (d : Decoder) : Bool :=
  match d.cmd with
  | none => true
  | some (.unknown _) => true
  | _ => false

/-- HCS_N is released after a transaction that carries no decoded command: the decoder returns to IDLE (R25). -/
def execIgnoringTransactionEnd (s : State) : Host.Outcome State Fault Refusal :=
  whenRunning s fun s =>
    if s.link.decoder.undecoded ∧ (s.link.decoder.state = .ignoring ∨ s.link.decoder.state = .opcode) then
      s.setDecoder { Decoder.idle with out := s.link.decoder.out }
    else s

end Sys2Proof.Machine
end

