-- ==== Sys2Proof/Machine/Intake.lean ====
section
/-! DEFINITION. The update intake (chapter 5): the session, the sector tracker, stream accounting and the verification of the
staged slot, and the reading of an image in blocks that it shares with the restart controller (R59, R102). -/

namespace Sys2Proof.Machine

open Sys2Proof

/-- Replace the session record. -/
def State.setSession (s : State) (x : Session) : State := { s with intake := { s.intake with session := x } }

/-- Replace what the verification is doing. -/
def State.setIntakeWork (s : State) (w : IntakeWork) : State := { s with intake := { s.intake with work := w } }

/-- The physical base of the inactive slot area (R102). -/
def State.stagedBase (s : State) : Nat := s.slotBase s.active.other

/-- The table in force, none under the identity map or without a table. -/
def State.tableInForce (s : State) : Option Table :=
  match s.xlat.inForce with
  | .table _ t => some t
  | _ => none

/-! ## Blocks of an image -/

/-- The length of the next block (R59, R102). -/
def Pipe.blockLength (p : Pipe) : Nat := min 4096 (p.stop - p.next)

/-- Ask for the next block, if one is left. -/
def State.pipeRead (s : State) (user : JobUser) (base : Nat) (p : Pipe) : State × Pipe :=
  if p.next < p.stop then
    (s.submitRead user (base + p.next) p.blockLength, { p with next := p.next + p.blockLength })
  else (s, p)

/-- Queue the digest job of a block, the last one with finish set, and ask for the next block (R59, R102). -/
def State.pipeDigest (s : State) (r : Requester) (user : JobUser) (base : Nat) (p : Pipe) (block : List Byte) : State × Pipe :=
  (s.enqueueJob r (.digest p.absorbed block (p.stop ≤ p.next))).pipeRead user base { p with waiting := none, jobOut := true }

/-- A block has been read: its digest job is queued, unless the job ahead of it is still out. -/
def State.pipeBlock (s : State) (r : Requester) (user : JobUser) (base : Nat) (p : Pipe) (block : List Byte) : State × Pipe :=
  if p.jobOut then (s, { p with waiting := some block }) else s.pipeDigest r user base p block

/-- A digest job that was not the last has ended with this state. -/
def State.pipeAbsorbed (s : State) (r : Requester) (user : JobUser) (base : Nat) (p : Pipe) (bytes : List Byte) : State × Pipe :=
  let p := { p with absorbed := bytes, jobOut := false }
  match p.waiting with
  | some block => s.pipeDigest r user base p block
  | none => (s, p)

/-- The pipe of an image of a given length, before its first block. -/
def Pipe.start (length : Nat) : Pipe := ⟨0x1000, 0x1000 + length, none, [], false⟩

/-! ## Stream accounting (R94, R95) -/

/-- Queue a digest job over the whole buffer when the intake has no job in the FIFO (R94). -/
def State.kickStream (s : State) : State :=
  if s.intake.buffer ≠ [] ∧ ¬ s.intake.session.broken ∧ ¬ s.crypto.holds .intake then
    let s' := s.enqueueJob .intake (.digest s.intake.absorbed s.intake.buffer false)
    { s' with intake := { s'.intake with buffer := [], streamJob := true } }
  else s

/-- Stream work is dropped: the buffer, and a job queued or running (R94, R96, R107). -/
def State.dropStream (s : State) : State :=
  let s := s.removeJobs .intake
  { s with intake := { s.intake with buffer := [], absorbed := [], streamJob := false } }

/-- A break of the stream at a slot offset (R95). -/
def State.breakStream (s : State) (off : Nat) : State :=
  let x := s.intake.session
  let t := s.setSession
    { x with
      broken := true
      firstBreak := if x.broken then x.firstBreak else some off
      breaks := satInc 0xFFFF x.breaks }
  if x.broken then t else t.dropStream

/-- One run of a completed STAGING program (R93 to R95). -/
def State.streamRun (s : State) (run : Nat × List Byte) : State :=
  let x := s.intake.session
  let off := run.1
  let n := run.2.length
  if off < 0x1000 then s
  else if ¬ x.broken ∧ off = x.expected ∧ s.intake.buffer.length + n ≤ 4096 then
    ({ s with intake := { s.intake with buffer := s.intake.buffer ++ run.2, session := { x with expected := off + n } } }).kickStream
  else
    let t := if x.broken ∧ off = x.expected then s else s.breakStream off
    t.setSession { t.intake.session with expected := off + n }

/-- Set the tracker state of sectors (R93). -/
def State.setSectors (s : State) (sectors : List Nat) (v : SectorState) : State :=
  { s with intake := { s.intake with tracker := sectors.foldl (fun (t : List SectorState) (i : Nat) => t.set i v) s.intake.tracker } }

/-- A sector that was WRITTEN and holds stream bytes (R93). -/
def Intake.holdsStream (x : Intake) (i : Nat) : Bool :=
  x.tracker.getD i .stale = .written && 1 ≤ i && i * 0x1000 < x.session.expected

/-- A completion in the STAGING region reaches the intake (R93). -/
def State.stagingComplete (s : State) (r : StagingReport) : State :=
  if s.intake.session.state ≠ .receiving then s
  else
    match r with
    | .erase sectors =>
      let t :=
        match sectors.find? s.intake.holdsStream with
        | some i => s.breakStream (i * 0x1000)
        | none => s
      t.setSectors sectors .erased
    | .program runs =>
      let t := s.setSectors (runs.map fun x => x.1 / 0x1000) .written
      runs.foldl State.streamRun t

/-! ## Ends of a session -/

/-- Work of RECEIVING or VERIFYING is dropped: the background read, the crypto job, the stream (R96, R98, R107). -/
def State.dropIntakeWork (s : State) : State := ((s.cancelRead .update).dropStream).setIntakeWork .none

/-- The session enters IDLE: its fields take their resting values (R87). -/
def State.restSession (s : State) : State := s.dropIntakeWork.setSession Session.resting

/-- The session enters FAILED with a reason and a detail; its other fields stay (R87). -/
def State.failSession (s : State) (reason : FailReason) (detail : Nat) : State :=
  let t := s.dropIntakeWork
  (t.setSession { t.intake.session with state := .failed, reason := reason, detail := detail, deadline := none }).raise
    sourceUpdate

/-! ## Verification of the staged slot (R98 to R103) -/

/-- The image length lies in the range of check 4 (R59, R99). -/
def lengthOk (slotSize length : Nat) : Bool := 1 ≤ length && length + 0x1000 ≤ slotSize

/-- Checks 1 and 2, the digest of the manifest sector having ended (R99). -/
def State.checkManifest (s : State) (block : List Byte) (md : Digest) : State :=
  match Manifest.parse block with
  | none => s.failSession .manifestFormat 0
  | some m =>
    match s.activeKey m.signer with
    | none => s.failSession .keyUnusable 0
    | some pub => (s.enqueueJob .intake (.signatureCheck pub m.body m.signature)).setIntakeWork (.signature m md)

/-- Check 5: the carried table, and its geometry against the table in force (R100). -/
def State.checkCarried (s : State) (m : Manifest) : Option (FailReason × Nat) :=
  match m.table with
  | none => none
  | some t =>
    match t.firstFailure with
    | some detail => some (.tableInvalid, detail)
    | none =>
      match s.tableInForce with
      | some u => if t.baseA = u.baseA ∧ t.baseB = u.baseB ∧ t.slotSize = u.slotSize then none else some (.geometry, 0)
      | none => some (.geometry, 0)

/-- A key that slots 2 to 5 hold ACTIVE or REVOKED (R100, R124). -/
def UpdateKey.held (k : UpdateKey) (pub : PubKey) : Bool := k.state ≠ .empty && k.pub = pub

/-- Check 7: every addition can be applied (R100). -/
def additionsOk (keys : Vector UpdateKey 4) (adds : List (Fin 4 × PubKey)) : Bool :=
  adds.all (fun a => keys[a.1].state ≠ .active && keys.toList.all fun k => !k.held a.2) &&
    pairwise (fun a b => a.2 != b.2) adds

/-- Check 8: every sector of the manifest and image is ERASED or WRITTEN (R101). -/
def Intake.sectorsReady (x : Intake) (length : Nat) : Bool :=
  (List.range ((0x1000 + length + 0xFFF) / 0x1000)).all fun i => x.tracker.getD i .stale ≠ .stale

/-- The first of checks 4 to 8 that fails (R99 to R101). -/
def State.checkStaged (s : State) (m : Manifest) : Option (FailReason × Nat) :=
  if ¬ lengthOk s.slotSize m.length then some (.length, 0)
  else
    match s.checkCarried m with
    | some f => some f
    | none =>
      if m.changes.revocations.contains m.signer then some (.revokeSigner, 0)
      else if ¬ additionsOk s.wc.updateKeys m.changes.additions then some (.keyUnusable, 0)
      else if ¬ s.intake.sectorsReady m.length then some (.staleSectors, 0)
      else none

/-- Check 9 chooses its path (R101): the stream's running digest is completed, or the image is read back (R102). -/
def State.choosePath (s : State) (m : Manifest) (md : Digest) : State :=
  let x := s.intake.session
  if ¬ x.broken ∧ x.expected = 0x1000 + m.length then
    ((s.setSession { x with path := .stream }).enqueueJob .intake (.digest s.intake.absorbed [] true)).setIntakeWork
      (.finishStream m md)
  else
    let r := (s.setSession { x with path := .readBack }).pipeRead .update s.stagedBase (Pipe.start m.length)
    r.1.setIntakeWork (.readBack m md r.2)

/-- Checks 3 to 9, the signature check having ended (R99 to R101). -/
def State.checkSignature (s : State) (m : Manifest) (md : Digest) (ok : Bool) : State :=
  if ¬ ok then s.failSession .signature 0
  else
    match s.checkStaged m with
    | some f => s.failSession f.1 f.2
    | none => s.choosePath m md

/-- The end of check 9 and check 10 (R101, R103). -/
def State.checkImage (s : State) (m : Manifest) (md : Digest) (d : Digest) : State :=
  if d ≠ m.digest then s.failSession .digest 0
  else if m.version < s.wc.floor then s.failSession .rollback 0
  else
    let s := s.setIntakeWork .none
    (s.setSession
      { s.intake.session with
        state := .verified
        manifest := some ⟨m.version, md, m.floorRaise, m.changes, m.table⟩ }).raise sourceUpdate

/-- The digest job of check 1 is submitted once no stream work is left (R98). -/
def State.tryManifestDigest (s : State) : State :=
  match s.intake.work with
  | .flush block =>
    if s.intake.buffer = [] ∧ ¬ s.intake.streamJob then
      (s.enqueueJob .intake (.digest [] block true)).setIntakeWork (.manifestDigest block)
    else s
  | _ => s

/-- A block of read-back has been read (R99, R102). -/
def State.intakeBlock (s : State) (block : List Byte) : State :=
  match s.intake.work with
  | .readManifest => (s.setIntakeWork (.flush block)).tryManifestDigest
  | .readBack m md p =>
    let r := s.pipeBlock .intake .update s.stagedBase p block
    r.1.setIntakeWork (.readBack m md r.2)
  | _ => s

/-- Bytes whose digest job has ended (R102). -/
def State.setProgress (s : State) (n : Nat) : State := s.setSession { s.intake.session with progress := n }

/-- A crypto job of the intake has ended (R94, R98 to R102). -/
def State.intakeJob (s : State) (result : JobResult) : State :=
  if s.intake.streamJob then
    match result with
    | .absorbed bytes =>
      ({ s with intake := { s.intake with absorbed := bytes, streamJob := false } }).kickStream.tryManifestDigest
    | _ => s
  else
    match s.intake.work, result with
    | .manifestDigest block, .digest md => s.checkManifest block md
    | .signature m md, .valid ok => s.checkSignature m md ok
    | .finishStream m md, .digest d => s.checkImage m md d
    | .readBack m md p, .absorbed bytes =>
      let r := (s.setProgress bytes.length).pipeAbsorbed .intake .update s.stagedBase p bytes
      r.1.setIntakeWork (.readBack m md r.2)
    | .readBack m md _, .digest d => (s.setProgress m.length).checkImage m md d
    | _, _ => s

end Sys2Proof.Machine
end

