-- ==== Sys2Proof/Machine/Hold.lean ====
section
/-! DEFINITION. The entry into HELD (R51, R52), power-on and reset of the part (R46, R54), and the events of the supply, of
RESET_N and of RST_REQ_N (R47 to R49). -/

namespace Sys2Proof.Machine

open Sys2Proof

/-- Set the restart phase. -/
def State.setPhase (s : State) (p : Phase) : State := { s with restart := { s.restart with phase := p } }

/-- Set what the restart controller is doing. -/
def State.setRestartWork (s : State) (w : RestartWork) : State := { s with restart := { s.restart with work := w } }

/-- Replace the outcome record. -/
def State.setOutcome (s : State) (o : Outcome) : State := { s with restart := { s.restart with outcome := o } }

/-! ## The entry into HELD -/

/-- Step 1 (R51; R25 to R27, R33, R41): a read in progress is reported with the bytes it returned, the transaction is ignored
to its end, and WEL and REFUSED clear. -/
def State.holdLink (s : State) : State :=
  let d := s.link.decoder
  let isRead : Bool := match d.cmd with | some cmd => cmd.isRead | none => false
  let s := if isRead ∧ d.state ≠ .idle then s.endRead true else s
  let d' : Decoder := { Decoder.idle with state := if d.state = .idle then .idle else .ignoring, out := d.out }
  { s with link := ⟨d', false, false⟩ }

/-- A host forward on the real flash runs to its end unreported, and sector erases not yet issued are dropped (R19, R41). -/
def HostForward.overtaken (f : HostForward) : HostForward := { f with ops := f.ops.take (f.completed + 1), reported := false }

/-- Steps 2 and 3 (R6, R41, R45, R88): the table in force is given up; read-back ends; a session other than COMMIT_PENDING
returns to IDLE. A binding loaded while the forward ran goes on waiting for its end (R13, log entry 47). -/
def State.holdSession (s : State) : State :=
  let s :=
    { s with
      xlat := { s.xlat with inForce := .none }
      storage := { s.storage with forward := s.storage.forward.map HostForward.overtaken } }
  let s := s.dropIntakeWork
  if s.intake.session.state = .commitPending then s else s.setSession Session.resting

/-- Step 4 and R52: both contexts are reset, their jobs, stamp requests and unstarted writes go; a started write completes with
nobody to tell. The provisioning claim clears (R122). -/
def State.holdRequests (s : State) : State :=
  let s := ((s.removeJobs (.ctx .c0)).removeJobs (.ctx .c1)).removeJobs .intake
  let s := (s.unwaitStamp (.quote .c0)).unwaitStamp (.quote .c1)
  { s with
    requests := ⟨⟨Context.reset, Context.reset⟩, none, []⟩
    store :=
      { s.store with
        queue := []
        taken := s.store.taken.map fun t => { t with write := { t.write with live := false } } } }

/-- Step 5: reservations, grant, lockouts and the press in progress (R142, R150, R157, R158). -/
def Creds.reset : Creds := ⟨Vector.replicate 32 none, ⟨.none, .none⟩, 0, false, false, none⟩

/-- Steps 6 and 8 (R67, R73, R80, R83, R84): registers and altered flags clear at once; the watch table, the trust level and the
hits-since-restart count wait for the hits of an abandoned read. Hits of an earlier report that still wait for a stamp delay
nothing, and are handled after it: the model's choice (log entry 34). -/
def State.holdWatch (s : State) : State :=
  let s := { s with watch := { s.watch with registers := Vector.replicate 8 0, altered := 0 } }
  if s.watch.waiting.any (·.endsHold) then { s with watch := { s.watch with holdDeferred := true } } else s.holdClear

/-- Step 9 (R184): every source enabled, interval 0, timer disarmed; TRIAL and PRESENCE clear, and RESPONSE_0 and RESPONSE_1
with the contexts' responses. R51 clears the responses at its step 4 and enables the sources at its step 9, and R184 gives no order
to the two: that the line is judged once, after both, is the model's choice (log entry 46). In PULSE with only a source left that
was masked, the line stays PULSE; judged after step 4 and again after step 9 it would be RELEASED and then ASSERTED. -/
def State.holdAlert (s : State) : State :=
  s.judged
    { s.alert with
      mask := 0xFF, interval := 0, timer := none
      pending := s.alert.pending &&& ~~~(sourceTrial ||| sourcePresence ||| responseSource .c0 ||| responseSource .c1) }

/-- The entry into HELD at a platform restart trigger, with its cause (R47, R48, R51, R52). Step 7 closes the boot window and
disarms the trial deadline. -/
def State.enterHeld (s : State) (cause : Cause) : State :=
  let s := s.holdLink
  let s := s.holdSession
  let s := s.holdRequests
  let s := { s with creds := Creds.reset }
  let s := s.holdWatch
  let s := { s with restart := ⟨.held, Outcome.fresh cause s.active, false, none, 0, .held false⟩ }
  s.holdAlert

/-- A platform restart trigger: it starts a restart in RELEASED and is ignored in every other phase (R48). -/
def State.trigger (s : State) (cause : Cause) : State := if s.restart.phase = .released then s.enterHeld cause else s

/-! ## Power and RESET_N -/

/-- All volatile state is thrown away and every field takes its power-on or RESET_N value (R46 to R48, R187). -/
def State.cold (s : State) (pins : Pins) (flash : Flash) : State :=
  State.volatileReset pins s.store.nonvolatile flash (s.draws + 1) s.pending

/-- The start of a power-on class restart (R54): step 1 stands in the volatile reset, and the boot count write of step 2 is
queued. The working copy has been loaded (R187). A transaction found in progress is ignored to its end (R25). -/
def State.startPowerClass (s : State) (cause : Cause) (hcs : Bool) : State :=
  { s with
    link := { s.link with decoder := { Decoder.idle with state := if hcs then .ignoring else .idle } }
    restart := ⟨.held, Outcome.fresh cause s.active, false, none, 0, .held true⟩
    store := { s.store with queue := [⟨.restart, .bootCount, true⟩] } }

/-- POWER_LOSS (R48, R187): the part stops in every phase and throws away all volatile state; a write that has not completed is
undone. An operation of the real flash is interrupted (log entry 5). -/
def execPowerLoss (s : State) : Host.Outcome State Fault Refusal :=
  .next (s.cold { s.pins with supply := false } (s.flash.interrupt s.draws))

/-- POWER_ON (R48, R54): with RESET_N low the part stays in HELD until it goes high (R47). A rise of a supply that was good is
the end of a loss of it. -/
def execPowerOn (hcs rstReq : Bool) (s : State) : Host.Outcome State Fault Refusal :=
  let t := s.cold ⟨true, s.pins.resetLow, rstReq⟩ (s.flash.interrupt s.draws)
  .next (if s.pins.resetLow then t else t.startPowerClass .powerOn hcs)

/-- RESET_N_LOW (R41, R47): the part stops in every phase and forgets everything volatile; an operation of the real flash runs
on without it. -/
def execResetNLow (s : State) : Host.Outcome State Fault Refusal := .next (s.cold { s.pins with resetLow := true } s.flash)

/-- LINE_RESET (R48, R187): RESET_N goes high again after being low; with power good a power-on class restart begins. -/
def execLineReset (hcs : Bool) (s : State) : Host.Outcome State Fault Refusal :=
  .next
    (if s.pins.resetLow then
      let t := s.cold { s.pins with resetLow := false } s.flash
      if s.pins.supply then t.startPowerClass .lineReset hcs else t
    else s)

/-- RESTART_LINE (R49): a change of RST_REQ_N from deasserted to asserted is a trigger; a level that stands is not. -/
def execRestartLine (s : State) : Host.Outcome State Fault Refusal :=
  .next
    (if s.pins.rstReq then s
    else
      let t := { s with pins := { s.pins with rstReq := true } }
      if s.running then t.trigger .restartLine else t)

/-- RST_REQ_N_DEASSERT (R49): the edge watch is rearmed. -/
def execRstReqNDeassert (s : State) : Host.Outcome State Fault Refusal :=
  .next { s with pins := { s.pins with rstReq := false } }

/-- TRIAL_EXPIRY (R66): an armed deadline that has come, in RELEASED, is disarmed and triggers a restart. -/
def execTrialExpiry (s : State) : Host.Outcome State Fault Refusal :=
  whenRunning s fun s =>
    if s.restart.phase = .released ∧ due s.time.tick s.restart.trialDeadline then s.enterHeld .trialExpiry else s

end Sys2Proof.Machine
end

