-- ==== Sys2Proof/Machine/Boot.lean ====
section
/-! DEFINITION. The restart controller after the entry into HELD (chapter 3): the end of HELD, slot selection, verification,
fallback, halt, and the release sequence. -/

namespace Sys2Proof.Machine

open Sys2Proof

/-! ## Release (R63) -/

/-- The bytes of the table that the release takes into force; the identity map's are the empty string (R63, R189). -/
def State.releaseTableBytes (s : State) : List Byte :=
  match s.wc.tables.get s.active with
  | some t => t.bytes
  | none => []

/-- What the release takes into force (R6, R7). A part in FIELD never has the identity map. -/
def State.releaseTable (s : State) : InForce :=
  match s.wc.tables.get s.active with
  | some t => .table s.active t
  | none => if s.inField then .none else .identity

/-- The trial attempts field of the outcome record (R64). -/
def State.attemptsLeft (s : State) : Nat := if (s.slotRecord s.active).state = .trial then s.wc.attempts else 0

/-- The outcome record completed with the slot selected and the trust at release (R63 step 1, R64). In MANUFACTURE the trial
attempts are 0 (R55). -/
def State.completeOutcome (s : State) (trust : Trust) (halt : HaltReason) : State :=
  s.setOutcome
    { s.restart.outcome with
      selected := s.active, trust := trust, halt := halt, attemptsLeft := if s.inField then s.attemptsLeft else 0 }

/-- What register 0 is extended with (R55, R63): the manifest digest the restart left in the active slot's record, or 32 zero
bytes in MANUFACTURE. -/
def State.register0Input (s : State) : Digest := if s.inField then (s.slotRecord s.active).digest else 0

/-- The release sequence begins (R63): step 1, then the first digest job of step 2. -/
def State.beginRelease (s : State) (trust : Trust) (halt : HaltReason) : State :=
  ((s.completeOutcome trust halt).enqueueJob .restart (.extend 0 s.register0Input)).setRestartWork (.release .extend0 trust)

/-- The length of a lockout for a fail count (R149). -/
def lockoutLength (count : Nat) : Nat := 30000 * 2 ^ min (count - 5) 5

/-- Fresh lockouts at a release (R149): every VERIFIER slot whose fail count is 5 or more. -/
def releaseLockouts (tick : Nat) (r : Retained) : Vector (Option Nat) 32 :=
  vzip (fun (c : CredRecord) (n : Nat) => if c.isVerifier ∧ 5 ≤ n then some (tick + lockoutLength n) else none) r.creds
    r.failCounts

/-- Steps 3 to 8 of R63. A presence release also clears the presence grant (R65). -/
def State.finishRelease (s : State) (trust : Trust) : State :=
  { s with
    xlat := ⟨s.releaseTable, false⟩
    watch := { s.watch with trust := trust }
    restart :=
      { s.restart with
        phase := .released
        bootWindow := true
        trialDeadline := if trust = .trial then some (s.time.tick + 300000) else none
        presenceHold := 0
        work := .none }
    creds := { s.creds with lockouts := releaseLockouts s.time.tick s.wc, grant := none, pressArmed := false } }

/-- Write an extended measurement register (R68). -/
def State.setRegister (s : State) (n : Fin 8) (d : Digest) : State :=
  { s with watch := { s.watch with registers := s.watch.registers.set n d } }

/-- A table that REGION_LOAD stored waits for a host forward issued before it (R8, R13). -/
def State.loadHeldUp (s : State) : Bool := s.xlat.loadWaits && s.forwarding

/-- A digest job of the release sequence has ended: the next one is submitted, or the release is finished (R63). A forward issued
under the identity map or an earlier table completes before a newly loaded table enters force (the law of R13), also where the
entry into HELD has come between the two: step 3 and the steps after it then wait for the forward's end (log entry 47). -/
def State.releaseJob (s : State) (stage : ReleaseStage) (trust : Trust) (d : Digest) : State :=
  match stage with
  | .extend0 =>
    ((s.setRegister 0 d).enqueueJob .restart (.digest [] s.releaseTableBytes true)).setRestartWork (.release .tableDigest trust)
  | .tableDigest => (s.enqueueJob .restart (.extend 1 d)).setRestartWork (.release .extend1 trust)
  | .extend1 =>
    ((s.setRegister 1 d).enqueueJob .restart (.digest [] s.restart.outcome.bytes true)).setRestartWork
      (.release .outcomeDigest trust)
  | .outcomeDigest => (s.enqueueJob .restart (.extend 2 d)).setRestartWork (.release .extend2 trust)
  | .extend2 =>
    let s := s.setRegister 2 d
    if s.loadHeldUp then s.setRestartWork (.release .force trust) else s.finishRelease trust
  | .force => s

/-! ## Halt (R54, R62) -/

/-- HALTED with a reason: the outcome record is complete, with trust UNVERIFIED. -/
def State.halt (s : State) (reason : HaltReason) : State :=
  let s := s.completeOutcome .unverified reason
  { s with restart := { s.restart with phase := .halted reason, presenceHold := 0, work := .none } }

/-- A power-on class restart halts for a capacity below 32 MiB once its boot count write has completed (R54). -/
def State.tryHaltFlash (s : State) : State :=
  match s.restart.work, s.storage.capacity with
  | .held true, some n => if n < flashSize ∧ s.time.bootCounted then s.halt .flashSize else s
  | _, _ => s

/-! ## Verification of a slot (R59) -/

/-- The verification of a slot begins with its manifest sector. -/
def State.startVerify (s : State) (v : Verify) : State :=
  (s.submitRead .restart (s.slotBase v.slot) 0x1000).setRestartWork (.readManifest v)

/-- Set a slot's result in the outcome record (R64). -/
def State.setResult (s : State) (k : Slot) (r : SlotResult) : State :=
  s.setOutcome { s.restart.outcome with results := s.restart.outcome.results.set k r }

/-- A slot fails with a reason: its record is to be written REJECTED (R61). -/
def State.rejectSlot (s : State) (v : Verify) (md : Digest) (reason : SlotResult) : State :=
  (((s.cancelRead .restart).setResult v.slot reason).enqueueWrite .restart (.slotReject v.slot md)).setRestartWork
    (.writeRecord v)

/-- A slot passes: its record is to be written, and the selector with it for a fallback (R60, R61). -/
def State.passSlot (s : State) (v : Verify) (m : Manifest) (md : Digest) : State :=
  ((s.setResult v.slot .pass).enqueueWrite .restart (.slotPass v.slot m.version md v.fallback)).setRestartWork (.writeRecord v)

/-- Checks 1 and 2, the manifest digest having been taken; the first image block is asked for once check 1 has passed and the
length lies in range (R59). -/
def State.verifyManifest (s : State) (v : Verify) (block : List Byte) (md : Digest) : State :=
  match Manifest.parse block with
  | none => s.rejectSlot v md .manifestFormat
  | some m =>
    match s.activeKey m.signer with
    | none => s.rejectSlot v md .keyUnusable
    | some pub =>
      let p := Pipe.start m.length
      let r := if lengthOk s.slotSize m.length then s.pipeRead .restart (s.slotBase v.slot) p else (s, p)
      (r.1.enqueueJob .restart (.signatureCheck pub m.body m.signature)).setRestartWork (.signature v m md r.2)

/-- Checks 3 and 4, the signature check having ended (R59). -/
def State.verifySignature (s : State) (v : Verify) (m : Manifest) (md : Digest) (p : Pipe) (ok : Bool) : State :=
  if ¬ ok then s.rejectSlot v md .signature
  else if ¬ lengthOk s.slotSize m.length then s.rejectSlot v md .length
  else
    match p.waiting with
    | some block =>
      let r := s.pipeDigest .restart .restart (s.slotBase v.slot) p block
      r.1.setRestartWork (.image v m md r.2)
    | none => s.setRestartWork (.image v m md p)

/-- Checks 5 and 6, the image digest having ended (R59). -/
def State.verifyImage (s : State) (v : Verify) (m : Manifest) (md d : Digest) : State :=
  if d ≠ m.digest then s.rejectSlot v md .digest
  else if m.version < s.wc.floor then s.rejectSlot v md .rollback
  else s.passSlot v m md

/-- A block of a verification has been read (R59, R42). -/
def State.restartBlock (s : State) (block : List Byte) : State :=
  match s.restart.work with
  | .readManifest v =>
    (s.enqueueJob .restart (.digest [] block true)).setRestartWork (.manifestDigest v block)
  | .signature v m md p => s.setRestartWork (.signature v m md { p with waiting := some block })
  | .image v m md p =>
    let r := s.pipeBlock .restart .restart (s.slotBase v.slot) p block
    r.1.setRestartWork (.image v m md r.2)
  | _ => s

/-- A crypto job of the restart controller has ended (R59, R63). -/
def State.restartJob (s : State) (result : JobResult) : State :=
  match s.restart.work, result with
  | .manifestDigest v block, .digest md => s.verifyManifest v block md
  | .signature v m md p, .valid ok => s.verifySignature v m md p ok
  | .image v m md p, .absorbed bytes =>
    let r := s.pipeAbsorbed .restart .restart (s.slotBase v.slot) p bytes
    r.1.setRestartWork (.image v m md r.2)
  | .image v m md _, .digest d => s.verifyImage v m md d
  | .release stage trust, .digest d => s.releaseJob stage trust d
  | _, _ => s

/-! ## Selection, fallback and the end of a restart (R57 to R62) -/

/-- In CHECKING: a pending commit is applied, else an attempt counted or the trial reverted, else the active slot verified
(R57, R58). -/
def State.selectSlot (s : State) : State :=
  if s.wc.pendingCommit then (s.enqueueWrite .restart .applyCommit).setRestartWork .select
  else if (s.slotRecord s.active).state = .trial then
    if 0 < s.wc.attempts then (s.enqueueWrite .restart .countAttempt).setRestartWork .select
    else (s.enqueueWrite .restart .revert).setRestartWork .select
  else s.startVerify ⟨s.active, false⟩

/-- No slot has passed (R62). -/
def State.noSlot (s : State) : State := if s.wc.strict then s.halt .noBootableSlot else s.beginRelease .unverified .none

/-- The record of a slot that failed has been written (R61). -/
def State.afterReject (s : State) (v : Verify) : State :=
  if ¬ v.fallback ∧ (s.slotRecord v.slot.other).state = .good then s.startVerify ⟨v.slot.other, true⟩ else s.noSlot

/-- The record of a slot that passed has been written (R60, R61). -/
def State.afterPass (s : State) (v : Verify) : State :=
  let s := if v.fallback then s.setOutcome { s.restart.outcome with fallback := true } else s
  s.beginRelease (if ¬ v.fallback ∧ (s.slotRecord v.slot).state = .trial then .trial else .verified) .none

/-- The session follows the retained pending flag as it stands when HELD ends (R88, R106). -/
def State.reconcileSession (s : State) : State :=
  if s.wc.pendingCommit then
    (if s.intake.session.state = .commitPending then s else s.setSession { Session.resting with state := .commitPending })
  else s.setSession Session.resting

/-- HELD can end: entry work done, no retained write in flight, and for a power-on class restart its work done with a capacity
of at least 32 MiB (R47, R52, R54). A host forward left over does not keep HELD (R44, R52): the verification reads wait for it, and
before a loaded table the release does (log entry 47). -/
def State.heldDone (s : State) : Bool :=
  s.restart.phase = .held && !s.watch.holdDeferred && s.store.queue = [] && s.store.taken.isNone &&
    (match s.restart.work with
      | .held false => true
      | .held true => s.time.bootCounted && (match s.storage.capacity with | some n => flashSize ≤ n | none => false)
      | _ => false)

/-- HELD_END (R47, R55, R88): into CHECKING, or in MANUFACTURE directly into the release sequence. -/
def execHeldEnd (s : State) : Host.Outcome State Fault Refusal :=
  whenRunning s fun s =>
    if s.heldDone then
      let t := s.reconcileSession
      (if t.inField then (t.setPhase .checking).selectSlot else t.beginRelease .unverified .none).startNext
    else s

/-- PRESENCE_RELEASE (R65): the halt for NO_BOOTABLE_SLOT ends through the release sequence at trust UNVERIFIED. -/
def execPresenceRelease (s : State) : Host.Outcome State Fault Refusal :=
  whenRunning s fun s =>
    if s.restart.phase = .halted .noBootableSlot ∧ 10000 ≤ s.restart.presenceHold ∧ s.restart.work = .none then
      ((s.setOutcome { s.restart.outcome with cause := .presenceRelease }).beginRelease .unverified .noBootableSlot).startNext
    else s

end Sys2Proof.Machine
end

