-- ==== Sys2Proof/Machine/Store.lean ====
section
/-! DEFINITION. The retained store's steps (R187, R188): the values each write fixes, what taking a write decides, and what its
completion does in the block that queued it. -/

namespace Sys2Proof.Machine

open Sys2Proof

/-! ## The values of each write -/

/-- Replace one slot record. -/
def Retained.setRecord (r : Retained) (k : Slot) (x : SlotRecord) : Retained := { r with records := r.records.set k x }

/-- Apply a confirm's key changes: revocations first, then additions, each in the order carried (R112, R114). -/
def applyKeyChanges (keys : Vector UpdateKey 4) (ch : KeyChanges) : Vector UpdateKey 4 :=
  let revoked := ch.revocations.foldl
    (fun (ks : Vector UpdateKey 4) (i : Fin 4) =>
      if ks[i].state = .active then ks.set i { ks[i] with state := .revoked } else ks) keys
  ch.additions.foldl
    (fun (ks : Vector UpdateKey 4) (a : Fin 4 × PubKey) => ks.set a.1 ⟨.active, .manifest, a.2⟩) revoked

/-- Put new credential records in place: version old + 1 and fail count 0 (R143, R155). -/
def Retained.putCreds (r : Retained) : List (Fin 32 × Option CredContent) → Retained
  | [] => r
  | (i, x) :: rest =>
    Retained.putCreds
      { r with creds := r.creds.set i ⟨x, satInc 0xFFFFFFFF r.creds[i].version⟩, failCounts := r.failCounts.set i 0 } rest

/-- The record values a write fixes when the store takes it (R188), from the working copy as it then stands. -/
def WriteKind.values (k : WriteKind) (r : Retained) : Retained :=
  match k with
  | .bootCount => { r with bootCount := satInc 0xFFFFFFFF r.bootCount }
  | .applyCommit =>
    { r with selector := r.pendingSlot, pendingCommit := false, attempts := 3 }.setRecord r.pendingSlot
      { r.records.get r.pendingSlot with state := .trial }
  | .countAttempt => { r with attempts := r.attempts - 1 }
  | .revert =>
    { r with selector := r.selector.other, attempts := 0 }.setRecord r.selector
      { r.records.get r.selector with state := .rejected }
  | .slotPass slot version digest fallback =>
    let old := r.records.get slot
    let state := match old.state with | .empty => SlotState.good | .rejected => .good | .trial => .trial | .good => .good
    { r with selector := if fallback then slot else r.selector }.setRecord slot
      { old with state := state, version := version, digest := digest }
  | .slotReject slot digest => r.setRecord slot { r.records.get slot with state := .rejected, digest := digest }
  | .openSession _ => r.setRecord r.selector.other SlotRecord.blank
  | .commit m table _ =>
    let k := r.selector.other
    { r with pendingCommit := true, pendingSlot := k, tables := r.tables.set k (m.table.or table) }.setRecord k
      { state := (r.records.get k).state, version := m.version, digest := m.digest, floorRaise := m.floorRaise,
        changes := m.changes }
  | .clearPending => { r with pendingCommit := false }
  | .confirm =>
    let rec_ := r.records.get r.selector
    { r with
      attempts := 0
      floor := if rec_.floorRaise then max r.floor rec_.version else r.floor
      updateKeys := applyKeyChanges r.updateKeys rec_.changes }.setRecord r.selector
      { rec_ with state := .good, changes := ⟨[], []⟩ }
  | .loadTable t => { r with tables := ⟨some t, some t⟩ }
  | .identity key secret => { r with identity := some key, derivation := some secret, certificate := none }
  | .certificate bytes => { r with certificate := some bytes }
  | .injectKey slot pub => { r with updateKeys := r.updateKeys.set slot ⟨.active, .injected, pub⟩ }
  | .advance strict => { r with stage := .field, strict := strict }
  | .resetFails slot => { r with failCounts := r.failCounts.set slot 0 }
  | .mismatch slot _ => { r with failCounts := r.failCounts.set slot (satInc 255 r.failCounts[slot]) }
  | .credGroup records => r.putCreds records
  | .wipe =>
    { r with
      creds := vmap (fun (c : CredRecord) => ⟨none, satInc 0xFFFFFFFF c.version⟩) r.creds
      failCounts := Vector.replicate 32 0
      ownerEpoch := r.ownerEpoch + 1 }

/-! ## Credential checks shared by requests, job ends and writes -/

/-- What a request needs of a slot's class (R144 check 2); none where either class will do (R151). -/
inductive NeedClass where
  | secret
  | verifier
  | any
  deriving DecidableEq, Repr

/-- The release checks (R144): the answer of the first that fails. -/
def State.releaseCheck (s : State) (need : NeedClass) (slot : Fin 32) : Option Status :=
  match s.wc.creds[slot].content with
  | none => if need = .any then none else some .emptySlot
  | some c =>
    if (need = .secret ∧ s.wc.creds[slot].isVerifier) ∨ (need = .verifier ∧ ¬ s.wc.creds[slot].isVerifier) then
      some .wrongClass
    else if s.watch.trust.level < c.minTrust then some .trustTooLow
    else if c.windowOnly ∧ ¬ s.restart.bootWindow then some .bootWindowClosed
    else
      match c.notAfter with
      | none => none
      | some limit =>
        match s.time.wallAt s.time.tick with
        | none => some .timeUnknown
        | some now => if limit < now then some .expired else none

/-- Steps 1 and 2 of CRED_COMPARE (R147): the release checks and the lockout. The flag says that they passed. -/
def State.compareCheck (s : State) (c : Ctx) (slot : Fin 32) : State × Bool :=
  match s.releaseCheck .verifier slot with
  | some st => (s.answer c st slot.val [], false)
  | none =>
    match s.creds.lockouts[slot] with
    | some d => (s.answer c .lockedOut 0 (le 4 (ticksLeft s.time.tick (some d))), false)
    | none => (s, true)

/-- Submit a compare job over the slot as it stands, with its version recorded (R147). -/
def State.submitCompare (s : State) (c : Ctx) (slot : Fin 32) : State :=
  (s.enqueueJob (.ctx c) (.compare slot ((s.body c).drop 1))).setWork c (.comparing slot s.wc.creds[slot].version)

/-- Steps 1 and 2, then the compare job (R147): at the request, and again when a result is discarded for a changed slot. -/
def State.tryCompare (s : State) (c : Ctx) (slot : Fin 32) : State :=
  let r := s.compareCheck c slot
  if r.2 then r.1.submitCompare c slot else r.1

/-- A reservation's targets. -/
def Reservation.targets : Reservation → List (Fin 32 × Nat)
  | .none => []
  | .valid ts => ts
  | .lost ts => ts

/-- A VALID reservation becomes LOST (R152). -/
def Reservation.lose : Reservation → Reservation
  | .valid ts => .lost ts
  | r => r

/-- Replace a context's reservation. -/
def State.setReservation (s : State) (c : Ctx) (r : Reservation) : State :=
  { s with creds := { s.creds with reservations := s.creds.reservations.set c r } }

/-- A context's reservation. -/
def State.reservation (s : State) (c : Ctx) : Reservation := s.creds.reservations.get c

/-- The reservation is VALID and every target still has the version recorded (R155). -/
def State.reservationHolds (s : State) (c : Ctx) : Bool :=
  match s.reservation c with
  | .valid ts => ts.all fun t => s.wc.creds[t.1].version = t.2
  | _ => false

/-- Disarm lockouts of slots. -/
def State.disarmLockouts (s : State) (slots : List (Fin 32)) : State :=
  { s with
    creds :=
      { s.creds with
        lockouts := slots.foldl (fun (v : Vector (Option Nat) 32) (i : Fin 32) => v.set i none) s.creds.lockouts } }

/-! ## Taking a write -/

/-- The context a write belongs to. -/
def Write.ctx? (w : Write) : Option Ctx :=
  match w.owner with
  | .ctx c => some c
  | _ => none

/-- The store takes a write: its values are fixed (R188). -/
def State.startWrite (s : State) (w : Write) : State :=
  { s with store := { s.store with taken := some ⟨w, w.kind.values s.wc⟩ } }

/-- The store comes to take a write that has left the front of the queue (R148, R155, R188). A mismatch write behind a wipe of its
slot at version FFFFFFFFh, which the wipe keeps (R143, R159), passes the version test of R148 and counts 1 on a slot that is now
EMPTY, where R142 puts the fail count at 0: that the model follows R148 there is its choice (log entry 45). -/
def State.decideWrite (s : State) (w : Write) : State :=
  match w.kind, w.ctx? with
  | .mismatch slot version, some c =>
    if s.wc.creds[slot].version = version then s.startWrite w else if w.live then s.tryCompare c slot else s
  | .credGroup _, some c =>
    if s.reservationHolds c then s.startWrite w
    else
      let s := s.setReservation c .none
      if w.live then s.answerError c .reservationLost else s
  | _, _ => s.startWrite w

/-- RETAINED_WRITE_TAKE (R188): the oldest queued write, when none is in progress. -/
def execRetainedWriteTake (s : State) : Host.Outcome State Fault Refusal :=
  whenRunning s fun s =>
    match s.store.taken, s.store.queue with
    | none, w :: rest => ({ s with store := { s.store with queue := rest } }.decideWrite w).startNext
    | _, _ => s

/-! ## Completion -/

/-- Answer the request of a write, if it still waits. -/
def State.answerWrite (s : State) (w : Write) (st : Status) (detail : Nat) (body : List Byte) : State :=
  match w.ctx? with
  | some c => if w.live then s.answer c st detail body else s
  | none => s

/-- Clear the claim that a completed provisioning write held (R122, R178). -/
def State.dropWriteClaim (s : State) (w : Write) : State :=
  match w.ctx? with
  | some c => s.dropClaim c
  | none => s

/-- The active slot's binding enters force after a REGION_LOAD, and the altered flags clear (R8, R83). -/
def State.forceLoaded (s : State) : State :=
  { s with xlat := ⟨s.releaseTable, false⟩, watch := { s.watch with altered := 0 } }

/-- A REGION_LOAD write has completed (R8): its binding enters force at once, or when the host forward completes, or at the
next release, which waits for a host forward left over (R13, log entry 47). Outside RELEASED no request executes (R52, R63, R172);
one that did would be answered OK at once, before its binding is in force: the model's choice (log entry 40). -/
def State.loadDone (s : State) (w : Write) : State :=
  if s.restart.phase ≠ .released then
    ({ s with xlat := { s.xlat with loadWaits := s.xlat.loadWaits || s.forwarding } }.answerWrite w .ok 0 []).dropWriteClaim w
  else if s.forwarding then
    let s := { s with xlat := { s.xlat with loadWaits := true } }
    match w.ctx? with
    | some c => if w.live then s.setWork c .awaitForce else s.dropClaim c
    | none => s
  else (s.forceLoaded.answerWrite w .ok 0 []).dropWriteClaim w

/-- An UPDATE_OPEN write has completed (R89): a session starts if the claim of that open is still set. That the read-back progress
a FAILED session kept becomes 0 with the fields R89 lists is the model's choice (log entry 42). -/
def State.openDone (s : State) (w : Write) (n : Nat) : State :=
  if s.intake.session.claim = some n then
    let s :=
      { s with
        intake :=
          { s.intake with
            session :=
              { Session.resting with state := .receiving, owner := w.ctx?, deadline := some (s.time.tick + 60000) }
            tracker := List.replicate (s.slotSize / 0x1000) .stale
            buffer := []
            absorbed := []
            streamJob := false
            work := .none } }
    s.answerWrite w .ok 0 []
  else s.answerWrite w .sessionState 0 []

/-- A confirm's group has completed (R86, R111). -/
def State.confirmDone (s : State) (w : Write) : State :=
  let s := { s with restart := { s.restart with trialDeadline := none } }
  let s := s.clearSource sourceTrial
  let s := if s.watch.trust = .trial then { s with watch := { s.watch with trust := .verified } } else s
  s.answerWrite w .ok 0 []

/-- A mismatch write has completed (R148, R149): from count 5 on, the lockout is armed and LOCKOUT raised. While the part is
not RELEASED the entry into HELD has disarmed what it would arm. -/
def State.mismatchDone (s : State) (w : Write) (slot : Fin 32) : State :=
  let count := s.wc.failCounts[slot]
  let s :=
    if 5 ≤ count ∧ s.restart.phase = .released then
      { s with
        creds :=
          { s.creds with lockouts := s.creds.lockouts.set slot (some (s.time.tick + lockoutLength count)) } }.raise sourceLockout
    else s
  s.answerWrite w .mismatch 0 (le 1 count)

/-- The other context's reservation is lost if it covers a slot written (R152). -/
def Reservation.onWrite (r : Reservation) (slots : List (Fin 32)) : Reservation :=
  if r.targets.any (fun t => slots.contains t.1) then r.lose else r

/-- A conditional write group has completed (R155). -/
def State.credGroupDone (s : State) (w : Write) (records : List (Fin 32 × Option CredContent)) : State :=
  let slots := records.map (·.1)
  let s := s.disarmLockouts slots
  match w.ctx? with
  | none => s
  | some c =>
    let s := s.setReservation c .none
    let s := s.setReservation (otherCtx c) ((s.reservation (otherCtx c)).onWrite slots)
    s.answerWrite w .ok 0 (slots.flatMap fun i => le 4 s.wc.creds[i].version)

/-- An owner wipe has completed (R159). -/
def State.wipeDone (s : State) (w : Write) : State :=
  let s :=
    { s with
      creds :=
        { s.creds with
          lockouts := Vector.replicate 32 none
          reservations := ⟨s.creds.reservations.c0.lose, s.creds.reservations.c1.lose⟩ } }
  s.answerWrite w .ok 0 (le 4 s.wc.ownerEpoch.toNat)

/-- A commit's group has completed (R105): with the restart flag it triggers a restart. -/
def State.commitDone (s : State) (w : Write) (restart : Bool) : State :=
  let s := s.answerWrite w .ok 0 []
  if restart then s.trigger .commitRestart else s

/-- The advance to FIELD has completed (R127): the response is made ready and the restart triggered in the same step. The claim
is held until the entry into HELD (R122). -/
def State.advanceDone (s : State) (w : Write) : State := (s.answerWrite w .ok 0 []).trigger .lifecycleChange

/-- The record group of R57 or R58 has completed: the slot now active is verified. -/
def State.selectDone (s : State) : State := s.startVerify ⟨s.active, false⟩

/-- The revert of R58 has completed; the reverted slot is the one now inactive. -/
def State.revertDone (s : State) : State :=
  let s := s.setOutcome { s.restart.outcome with reverted := true }
  (s.setResult s.active.other .trialExhausted).selectDone

/-- The restart controller goes on after a record write (R60, R61). -/
def State.recordDone (s : State) (passed : Bool) : State :=
  match s.restart.work with
  | .writeRecord v => if passed then s.afterPass v else s.afterReject v
  | _ => s

/-- The block that queued a write is told of its completion (R187). -/
def State.writeDone (s : State) (w : Write) : State :=
  match w.kind with
  | .bootCount => ({ s with time := { s.time with bootCounted := true } }.serveAllStamps).tryHaltFlash
  | .applyCommit =>
    ((s.setOutcome { s.restart.outcome with commitApplied := true }).setSession Session.resting).selectDone
  | .countAttempt => s.selectDone
  | .revert => s.revertDone
  | .slotPass _ _ _ _ => s.recordDone true
  | .slotReject _ _ => s.recordDone false
  | .openSession n => s.openDone w n
  | .commit _ _ restart => s.commitDone w restart
  | .clearPending => s.answerWrite w .ok 0 []
  | .confirm => s.confirmDone w
  | .loadTable _ => s.loadDone w
  | .identity key _ => (s.answerWrite w .ok 0 (wideBytes key.pub)).dropWriteClaim w
  | .certificate _ => (s.answerWrite w .ok 0 []).dropWriteClaim w
  | .injectKey _ _ => (s.answerWrite w .ok 0 []).dropWriteClaim w
  | .advance _ => s.advanceDone w
  | .resetFails _ => s.answerWrite w .ok 0 []
  | .mismatch slot _ => s.mismatchDone w slot
  | .credGroup records => s.credGroupDone w records
  | .wipe => s.wipeDone w

/-- A CONTEXT_RESET that waited for a write of the request it discarded is answered (R182). -/
def State.finishReset (s : State) (c : Ctx) : State :=
  if s.work? c = some .awaitDiscarded ∧ ¬ s.discardedWrite c then s.answerOk c [] else s

/-- RETAINED_WRITE_COMPLETE (R187): the working copy and the non-volatile contents take the values, and the requester is told
in the same step. -/
def execRetainedWriteComplete (s : State) : Host.Outcome State Fault Refusal :=
  whenRunning s fun s =>
    match s.store.taken with
    | none => s
    | some t =>
      let s := { s with store := { s.store with working := t.values, nonvolatile := t.values, taken := none } }
      (((s.writeDone t.write).finishReset .c0).finishReset .c1).startNext

end Sys2Proof.Machine
end

