-- ==== Sys2Proof/Machine/Engine.lean ====
section
/-! DEFINITION. The end of a crypto job (R118) and what each requester does with the result, and the events of the storage
link: the real flash's ends of busy periods, the capacity handover and the background job (R36 to R45). -/

namespace Sys2Proof.Machine

open Sys2Proof

/-! ## Conditional writes: checks and preparation (R154) -/

/-- The record a CRED_WRITE_COND would write, its VERIFIER value aside: what steps 4 and 5 of R154 compare. -/
def NewCred.minTrustOf (n : NewCred) : Nat := if n.set then n.minTrust else 0

/-- The boot-window-only flag of a new record. -/
def NewCred.windowOnlyOf (n : NewCred) : Bool := n.set && n.windowOnly

/-- Step 4 of R154 for one target: the slot number where the trust level is too low. -/
def State.trustFails (s : State) (i : Fin 32) (newMin : Nat) : Bool :=
  s.watch.trust.level < max s.wc.creds[i].minTrust newMin

/-- Step 5 of R154 for one target. -/
def State.windowFails (s : State) (i : Fin 32) (newWindowOnly : Bool) : Bool :=
  (s.wc.creds[i].windowOnly || newWindowOnly) && !s.restart.bootWindow

/-- Steps 4 to 6 of R154 over targets given with their new minimum and flag, lowest slot first: the answer of the first step that
fails. Where both targets of a pair fail it, R154 leaves open whose slot number is the detail; the lower one is the model's choice
(log entry 44). -/
def State.condCheck (s : State) (c : Ctx) (targets : List (Fin 32 × Nat × Bool)) : Option (Status × Nat) :=
  match targets.find? (fun t => s.trustFails t.1 t.2.1) with
  | some t => some (.trustTooLow, t.1.val)
  | none =>
    match targets.find? (fun t => s.windowFails t.1 t.2.2) with
    | some t => some (.bootWindowClosed, t.1.val)
    | none =>
      match s.reservation c with
      | .lost _ => some (.reservationLost, 0)
      | .none => some (.reservationLost, 0)
      | .valid _ => none

/-- Answer a failed step of R154; step 6 clears the reservation. -/
def State.condRefuse (s : State) (c : Ctx) (f : Status × Nat) : State :=
  let s := if f.1 = .reservationLost then s.setReservation c .none else s
  s.answer c f.1 f.2 []

/-- The new minimum and flag of a prepared record. -/
def preparedTarget (r : Fin 32 × Option CredContent) : Fin 32 × Nat × Bool :=
  match r.2 with
  | some x => (r.1, x.minTrust, x.windowOnly)
  | none => (r.1, 0, false)

/-- A prepared record; a VERIFIER's value is its salt and the digest of salt and written value (R141, R154). -/
def NewCred.prepared (n : NewCred) (value : CredValue) : Fin 32 × Option CredContent :=
  (n.slot, if n.set then some ⟨n.label, value, n.minTrust, n.windowOnly, n.notAfter⟩ else none)

/-- All records are prepared: steps 4 to 6 are taken again after digest jobs ran, and the group is queued (R154). -/
def State.queueGroup (s : State) (c : Ctx) (records : List (Fin 32 × Option CredContent)) (again : Bool) : State :=
  match (if again then s.condCheck c (records.map preparedTarget) else none) with
  | some f => s.condRefuse c f
  | none => s.requestWrite c (.credGroup records)

/-- Prepare the records in order: a SECRET or EMPTY one at once, a VERIFIER one by a salt and a digest job (R154). -/
def State.prepare (s : State) (c : Ctx) (done : List (Fin 32 × Option CredContent)) (again : Bool) : List NewCred → State
  | [] => s.queueGroup c done again
  | n :: rest =>
    if n.set ∧ n.verifier then
      let salt := Config.random16 s.draws
      ({ s with draws := s.draws + 1 }.enqueueJob (.ctx c) (.digest [] (be 16 salt.toNat ++ n.value) true)).setWork c
        (.preparing done n salt rest)
    else State.prepare s c (done ++ [n.prepared (.secret n.value)]) again rest

/-! ## Results of a context's job -/

/-- An extension job has ended (R69): for registers 3 and 4 the boot window is checked again. -/
def State.extendDone (s : State) (c : Ctx) (n : Fin 8) (d : Digest) : State :=
  if (n = 3 ∨ n = 4) ∧ ¬ s.restart.bootWindow then s.answerError c .bootWindowClosed
  else (s.setRegister n d).answerOk c (le 1 n.val ++ digestBytes d)

/-- A derivation has ended (R120): the trust level is read again. -/
def State.deriveDone (s : State) (c : Ctx) (d : Digest) : State :=
  if s.watch.trust.level < Trust.trial.level then s.answerError c .trustTooLow else s.answerOk c (digestBytes d)

/-- A compare whose result stands (R148). -/
def State.compareStands (s : State) (c : Ctx) (slot : Fin 32) (version : Nat) (matched : Bool) : State :=
  if matched then
    if s.wc.failCounts[slot] = 0 then s.answerOk c [] else s.requestWrite c (.resetFails slot)
  else s.requestWrite c (.mismatch slot version)

/-- A compare job has ended (R147): steps 1 and 2 again, then the version. -/
def State.compareDone (s : State) (c : Ctx) (slot : Fin 32) (version : Nat) (matched : Bool) : State :=
  let r := s.compareCheck c slot
  if ¬ r.2 then r.1
  else if s.wc.creds[slot].version ≠ version then s.submitCompare c slot
  else s.compareStands c slot version matched

/-- A crypto job of a context's request has ended. -/
def State.ctxJob (s : State) (c : Ctx) (result : JobResult) : State :=
  match s.work? c, result with
  | some (.extending n), .digest d => s.extendDone c n d
  | some .deriving_, .digest d => s.deriveDone c d
  | some (.comparing slot version), .matched ok => s.compareDone c slot version ok
  | some (.preparing done n salt rest), .digest d => s.prepare c (done ++ [n.prepared (.verifier salt d)]) true rest
  | some .quoting, .signature sig =>
    match (s.ctx c).quote with
    | .signing record => s.answerOk c (record ++ wideBytes sig)
    | _ => s
  | some .quoting, .noKey => s.answerError c .noIdentity
  | _, _ => s

/-- Hand a result to its requester; a discarded one is dropped (R118, R119). -/
def State.handResult (s : State) (j : RunningJob) : State :=
  if j.discarded then s
  else
    match j.job.requester with
    | .restart => s.restartJob j.result
    | .intake => s.intakeJob j.result
    | .ctx c => s.ctxJob c j.result

/-- CRYPTO_JOB_END (R118): the result is handed over, the job leaves the FIFO, and the next one starts. The intake queues the
stream bytes that have gathered meanwhile (R94). -/
def execCryptoJobEnd (s : State) : Host.Outcome State Fault Refusal :=
  whenRunning s fun s =>
    match s.crypto.running with
    | none => s
    | some j =>
      let s := { s with crypto := { s.crypto with running := none } }
      let s := (s.handResult j).enterDeferred j.job.requester
      (if j.job.requester = .intake then s.kickStream else s).startNext

/-! ## The storage link -/

/-- SUBSTITUTE_ERASE_NEXT (R19, R40): one sector erase of a substituted block erase ends, and the next is issued. -/
def execSubstituteEraseNext (took : Bool) (s : State) : Host.Outcome State Fault Refusal :=
  whenRunning s fun s =>
    match s.storage.forward with
    | none => s
    | some f =>
      match f.ops[f.completed + 1]? with
      | none => s
      | some op =>
        { s with
          storage := { s.storage with forward := some { f with completed := f.completed + 1 } }
          flash := { s.flash.finish took with busy := some op } }

/-- A table loaded while the forward ran enters force once its completion has been reported, and REGION_LOAD is answered (R8). While
the host is held no table enters force but by the release (R6), which goes on here if it waited for the forward (R13, R63). -/
def State.loadAfterForward (s : State) : State :=
  if s.xlat.loadWaits then
    if s.restart.phase = .released then
      let s := s.forceLoaded
      let s := if s.work? .c0 = some .awaitForce then s.answerClaimed .c0 .ok 0 [] else s
      if s.work? .c1 = some .awaitForce then s.answerClaimed .c1 .ok 0 [] else s
    else
      match s.restart.work with
      | .release .force trust => s.finishRelease trust
      | _ => { s with xlat := { s.xlat with loadWaits := false } }
  else s

/-- The completed forward is reported to the measurement and watch unit and to the update intake (R36), unless the entry into
HELD has overtaken it (R41). -/
def State.reportForward (s : State) (f : HostForward) : State :=
  if f.reported then
    let s := s.reportCompletion f
    match f.staging with
    | some r => s.stagingComplete r
    | none => s
  else s

/-- HOST_FORWARD_COMPLETE (R36, R40, R41): the last physical operation's busy period ends. -/
def execHostForwardComplete (took : Bool) (s : State) : Host.Outcome State Fault Refusal :=
  whenRunning s fun s =>
    match s.storage.forward with
    | none => s
    | some f =>
      if f.completed + 1 < f.ops.length then s
      else
        let s :=
          { s with
            storage := { s.storage with forward := none, link := .idle }
            flash := s.flash.finish took }
        ((s.reportForward f).loadAfterForward).startNext

/-- The capacity that an identification's third byte gives (R38). -/
def capacityOf (id : Byte) : Nat := if 0x19 ≤ id.toNat ∧ id.toNat ≤ 0x1F then 2 ^ id.toNat else 0

/-- CAPACITY_HANDOVER (R38, R54): an operation left on the real flash has ended, and the capacity is handed over. -/
def execCapacityHandover (id : Byte) (took : Bool) (s : State) : Host.Outcome State Fault Refusal :=
  whenRunning s fun s =>
    match s.storage.capacity with
    | some _ => s
    | none =>
      ({ s with
        storage := { s.storage with capacity := some (capacityOf id) }
        flash := s.flash.finish took }).tryHaltFlash

/-- Read the next `n` bytes of the background job. -/
def State.readJob (s : State) (j : BackgroundJob) (n : Nat) : BackgroundJob :=
  { j with next := j.next + n, bytes := j.bytes ++ Memory.readRange s.flash.mem j.next n }

/-- The bytes a job has left. -/
def BackgroundJob.left (j : BackgroundJob) : Nat := j.start + j.length - j.next

/-- BACKGROUND_JOB_RUN (R42, R43, R44): a waiting job starts or resumes once the link is idle, and a running one reads on, up
to `count` bytes and short of its last byte. -/
def execBackgroundJobRun (count : Nat) (s : State) : Host.Outcome State Fault Refusal :=
  match s.storage.job with
  | none => .next s
  | some j =>
    if s.running ∧ (j.running ∨ s.storage.link = .idle) ∧ s.storage.capacity.isSome then
      if flashSize < j.start + j.length then .fault .outsideFlash
      else
        .next
          { s with
            storage :=
              { s.storage with
                link := .background
                job := some { s.readJob j (min count (j.left - 1)) with running := true } } }
    else .next s

/-- BACKGROUND_READ_COMPLETE (R42): the last byte is read, the link returns to IDLE, and the requester gets the block. -/
def execBackgroundReadComplete (s : State) : Host.Outcome State Fault Refusal :=
  whenRunning s fun s =>
    match s.storage.job with
    | none => s
    | some j =>
      if j.running then
        let block := (s.readJob j j.left).bytes
        let s := { s with storage := { s.storage with link := .idle, job := none } }
        (match j.user with
          | .restart => s.restartBlock block
          | .update => s.intakeBlock block).startNext
      else s

end Sys2Proof.Machine
end

