-- ==== Sys2Proof/Machine/Events.lean ====
section
/-! DEFINITION. The tick and the events that the passing of ticks makes due (R128 to R130, R65, R96, R109, R138, R149, R157,
R158, R175, R176, R186). A due event is a command of its own, so that either order with another event can be taken. -/

namespace Sys2Proof.Machine

open Sys2Proof

/-! ## The tick -/

/-- The restart controller counts the presence hold while HALTED for NO_BOOTABLE_SLOT (R65). -/
def Restart.onTick (x : Restart) (presence : Bool) : Restart :=
  if x.phase = .halted .noBootableSlot then
    { x with presenceHold := if presence then min 10000 (x.presenceHold + 1) else 0 }
  else x

/-- The credential store counts the reset-button hold while RELEASED (R157): a press counts once the line has been found
deasserted, and a tick event that finds it deasserted ends the press. -/
def Creds.onTick (x : Creds) (released presence : Bool) : Creds :=
  if ¬ released then x
  else if ¬ presence then { x with hold := 0, pressUsed := false, pressArmed := true }
  else if x.pressArmed then { x with hold := min 3000 (x.hold + 1) }
  else x

/-- TICK (R128, R129): the counter increases by 1 and holds at its highest value; each increase is a tick event, at which the
blocks that count ticks take theirs. -/
def execTick (presence : Bool) (s : State) : Host.Outcome State Fault Refusal :=
  whenRunning s fun s =>
    if s.time.tick < tickMax then
      { s with
        time := { s.time with tick := s.time.tick + 1 }
        restart := s.restart.onTick presence
        creds := s.creds.onTick (s.restart.phase = .released) presence }
    else s

/-! ## Events that become due -/

/-- TRIAL_ALERT_RAISE (R109): with the deadline armed and the phase RELEASED, once the counter reaches it less 60,000. -/
def execTrialAlertRaise (s : State) : Host.Outcome State Fault Refusal :=
  whenRunning s fun s =>
    match s.restart.trialDeadline with
    | some d => if s.restart.phase = .released ∧ d ≤ s.time.tick + 60000 then s.raise sourceTrial else s
    | none => s

/-- IDLE_TIMEOUT (R96). -/
def execIdleTimeout (s : State) : Host.Outcome State Fault Refusal :=
  whenRunning s fun s =>
    if s.intake.session.state = .receiving ∧ due s.time.tick s.intake.session.deadline then s.failSession .idleTimeout 0 else s

/-- TIMEOUT (R175): the partial frame is discarded and answered TIMEOUT. -/
def execTimeout (c : Ctx) (s : State) : Host.Outcome State Fault Refusal :=
  whenRunning s fun s =>
    if (s.ctx c).state = .assembling ∧ due s.time.tick (s.ctx c).deadline then
      s.assemblerAnswer c .timeout 0 (s.ctx c).buffer
    else s

/-- REQUEST_BUSY_CAP_EXPIRY (R176): request-busy clears; the request goes on. -/
def execRequestBusyCapExpiry (c : Ctx) (s : State) : Host.Outcome State Fault Refusal :=
  whenRunning s fun s =>
    if due s.time.tick (s.ctx c).busyCap then s.setCtx c { s.ctx c with busyCap := none } else s

/-- PRESENCE_GRANT_OPEN (R157): the hold count has reached 3,000 and the press has opened no grant. -/
def execPresenceGrantOpen (s : State) : Host.Outcome State Fault Refusal :=
  whenRunning s fun s =>
    if s.restart.phase = .released ∧ s.creds.hold = 3000 ∧ ¬ s.creds.pressUsed then
      { s with creds := { s.creds with grant := some (s.time.tick + 30000), pressUsed := true } }.raise sourcePresence
    else s

/-- PRESENCE_GRANT_EXPIRY (R158). -/
def execPresenceGrantExpiry (s : State) : Host.Outcome State Fault Refusal :=
  whenRunning s fun s =>
    if due s.time.tick s.creds.grant then
      { s with creds := { s.creds with grant := none } }.clearSource sourcePresence
    else s

/-- LOCKOUT_EXPIRY (R149): the lockout is disarmed; the fail count stays. -/
def execLockoutExpiry (slot : Fin 32) (s : State) : Host.Outcome State Fault Refusal :=
  whenRunning s fun s => if due s.time.tick s.creds.lockouts[slot] then s.disarmLockouts [slot] else s

/-- REALERT_EXPIRY (R186): the timer expires only while the line is ASSERTED, and the line enters PULSE. -/
def execRealertExpiry (s : State) : Host.Outcome State Fault Refusal :=
  whenRunning s fun s =>
    if s.alert.line = .asserted ∧ due s.time.tick s.alert.timer then
      { s with alert := { s.alert with line := .pulse, timer := none, pulseTick := s.time.tick } }
    else s

/-- The end of a pulse (R186): the line is asserted again for an enabled pending source, else it stays released. -/
def Alert.endPulse (now : Nat) (a : Alert) : Alert :=
  if a.pending &&& a.mask = 0 then { a with line := .released, timer := none }
  else { a with line := .asserted, timer := realertTimer now a.interval }

/-- PULSE_END (R186): at the tick event after the pulse began. -/
def execPulseEnd (s : State) : Host.Outcome State Fault Refusal :=
  whenRunning s fun s =>
    if s.alert.line = .pulse ∧ s.alert.pulseTick < s.time.tick then { s with alert := s.alert.endPulse s.time.tick } else s

/-- STAMP_WAIT_SERVE (R138, R139). -/
def execStampWaitServe (s : State) : Host.Outcome State Fault Refusal := whenRunning s fun s => s.serveAllStamps.startNext

end Sys2Proof.Machine
end

