-- ==== Sys2Proof/Machine/RequestsBase.lean ====
section
/-! DEFINITION. The requests of the request assembler, the restart controller, the alert unit, the translation unit, the
measurement and watch unit, the quote builder and the time base (chapters 1, 3, 4, 7, 9, 10, 11). -/

namespace Sys2Proof.Machine

open Sys2Proof

/-- A request with an empty body: any other length answers BAD_LENGTH. -/
def State.whenEmpty (s : State) (c : Ctx) (body : List Byte) (t : State) : State :=
  if body = [] then t else s.answerError c .badLength

/-! ## Request assembler -/

/-- The 17 bytes of INFO (R183). -/
def State.infoBody (s : State) : List Byte :=
  [lifecycleCode s.wc] ++ s.restart.outcome.bytes ++ le 1 s.watch.trust.level ++ [s.active.code] ++ le 4 s.wc.bootCount ++
    [flagByte s.restart.bootWindow] ++ [s.intake.session.state.code]

/-- INFO (R183). -/
def execInfo (c : Ctx) (s : State) : Host.Outcome State Fault Refusal :=
  whenRunning s fun s => s.onRequest c 0x01 fun body s => s.whenEmpty c body (s.answerOk c s.infoBody)

/-- What a CONTEXT_RESET does to the context's own session (R108). -/
def State.resetSession (s : State) (c : Ctx) : State :=
  let x := s.intake.session
  if x.owner = some c ∧ (x.state = .receiving ∨ x.state = .verifying) then s.failSession .aborted 0 else s

/-- The effects of CONTEXT_RESET, its response last (R150, R182). -/
def State.resetContext (s : State) (c : Ctx) : State :=
  let s := s.setReservation c .none
  let s := s.resetSession c
  if s.discardedWrite c then s.setWork c .awaitDiscarded else s.answerOk c []

/-- CONTEXT_RESET (R182). -/
def execContextReset (c : Ctx) (s : State) : Host.Outcome State Fault Refusal :=
  whenRunning s fun s => s.onRequest c 0x02 fun body s => s.whenEmpty c body (s.resetContext c)

/-! ## Restart controller -/

/-- RESTART (R50): a restart in RELEASED. In another phase the trigger is ignored (R48) and the request is answered, no entry
into HELD having overtaken it (R177). -/
def execRestart (c : Ctx) (s : State) : Host.Outcome State Fault Refusal :=
  whenRunning s fun s => s.onRequest c 0x03 fun body s =>
    s.whenEmpty c body (if s.restart.phase = .released then s.enterHeld .restartRequest else s.answerOk c [])

/-- CLOSE_BOOT_WINDOW (R72). -/
def execCloseBootWindow (c : Ctx) (s : State) : Host.Outcome State Fault Refusal :=
  whenRunning s fun s => s.onRequest c 0x06 fun body s =>
    s.whenEmpty c body ({ s with restart := { s.restart with bootWindow := false } }.answerOk c [])

/-! ## Alert unit -/

/-- ALERT_READ's acknowledgement (R185): LOCKOUT and TRUST_DROP clear, and an asserted line's timer is armed afresh. -/
def State.acknowledge (s : State) : State :=
  let s := s.clearSource (sourceLockout ||| sourceTrustDrop)
  if s.alert.line = .asserted ∧ s.alert.interval ≠ 0 then
    { s with alert := { s.alert with timer := realertTimer s.time.tick s.alert.interval } }
  else s

/-- ALERT_READ's effect and answer (R185). It does not end a pulse: of the alert unit, only the pending set changes then, and the
pulse's end judges the line (R186; log entry 39). -/
def State.alertRead (s : State) (c : Ctx) : State :=
  let t := s.acknowledge.answerOk c ([s.alert.pending, s.alert.mask] ++ le 2 s.alert.interval)
  if s.alert.line = .pulse then { t with alert := { s.alert with pending := t.alert.pending } } else t

/-- ALERT_READ (R185). -/
def execAlertRead (c : Ctx) (s : State) : Host.Outcome State Fault Refusal :=
  whenRunning s fun s => s.onRequest c 0x04 fun body s => s.whenEmpty c body (s.alertRead c)

/-- The interval as stored (R185). -/
def storedInterval (n : Nat) : Nat := if n = 0 then 0 else if n < 100 then 100 else if 60000 < n then 60000 else n

/-- ALERT_SET's effect (R185): mask and interval replaced together, the line judged, and an asserted line's timer set. -/
def State.setAlert (s : State) (mask : Byte) (interval : Nat) : State :=
  let s := { s with alert := { s.alert with mask := mask, interval := interval }.judge s.time.tick }
  if s.alert.line = .asserted then
    { s with alert := { s.alert with timer := realertTimer s.time.tick s.alert.interval } }
  else s

/-- ALERT_SET (R185). -/
def execAlertSet (c : Ctx) (s : State) : Host.Outcome State Fault Refusal :=
  whenRunning s fun s => s.onRequest c 0x05 fun body s =>
    if body.length ≠ 3 then s.answerError c .badLength
    else
      let mask := body.getD 0 0
      let interval := storedInterval (numAt body 1 2)
      (s.setAlert mask interval).answerOk c ([mask] ++ le 2 interval)

/-! ## Translation unit -/

/-- A table as REGION_READ gives it: the binding byte, then the table or a header of zeros (R9). -/
def regionReply (binding : Byte) (t : Option Table) : List Byte :=
  match t with
  | some t => binding :: t.bytes
  | none => binding :: zeros 16

/-- The answer of REGION_READ for a selector (R9). -/
def State.regionAnswer (s : State) (sel : Nat) : List Byte :=
  match sel with
  | 0 =>
    match s.xlat.inForce with
    | .table k t => regionReply (k.code + 1) (some t)
    | _ => regionReply 0 none
  | 1 => regionReply 1 s.wc.tables.a
  | _ => regionReply 2 s.wc.tables.b

/-- REGION_READ (R9). -/
def execRegionRead (c : Ctx) (s : State) : Host.Outcome State Fault Refusal :=
  whenRunning s fun s => s.onRequest c 0x10 fun body s =>
    if body.length ≠ 1 then s.answerError c .badLength
    else if 2 < byteAt body 0 then s.answerParameter c 0x01
    else s.answerOk c (s.regionAnswer (byteAt body 0))

/-! ## Measurement and watch unit -/

/-- The checks of WATCH_LOAD after the boot window (R74), with the status and detail of the first that fails. -/
def watchLoadCheck (body : List Byte) : Option (Status × Nat) :=
  let es := entriesOf (byteAt body 0) (body.drop 1)
  if body = [] then some (.badLength, 0)
  else if 8 < byteAt body 0 then some (.badParameter, 0x01)
  else if body.length ≠ 1 + 8 * byteAt body 0 then some (.badLength, 0)
  else if es.any (fun e => numAt e 2 2 = 0 || 0xFFC < numAt e 0 2 + numAt e 2 2) then some (.badParameter, 0x02)
  else if es.any (fun e => byteAt e 4 = 0 || 7 < byteAt e 4) then some (.badParameter, 0x03)
  else if es.any (fun e => byteAt e 5 = 0 || 7 < byteAt e 5 || byteAt e 6 != 0 || byteAt e 7 != 0) then
    some (.badParameter, 0x04)
  else none

/-- WATCH_LOAD (R74). -/
def execWatchLoad (c : Ctx) (s : State) : Host.Outcome State Fault Refusal :=
  whenRunning s fun s => s.onRequest c 0x12 fun body s =>
    if ¬ s.restart.bootWindow then s.answerError c .bootWindowClosed
    else
      match watchLoadCheck body with
      | some f => s.answer c f.1 f.2 []
      | none =>
        { s with
          watch :=
            { s.watch with table := (entriesOf (byteAt body 0) (body.drop 1)).map WatchEntry.ofBytes } }.answerOk c []

/-- The body of WATCH_READ (R75). -/
def State.watchBody (s : State) : List Byte :=
  le 1 s.watch.table.length ++ s.watch.table.flatMap WatchEntry.bytes ++ le 2 s.watch.altered.toNat

/-- WATCH_READ (R75). -/
def execWatchRead (c : Ctx) (s : State) : Host.Outcome State Fault Refusal :=
  whenRunning s fun s => s.onRequest c 0x13 fun body s => s.whenEmpty c body (s.answerOk c s.watchBody)

/-- The body of HITS_READ (R82). -/
def State.hitsBody (s : State) : List Byte :=
  le 2 s.watch.drops ++ le 4 s.watch.hitsSince ++ le 1 s.watch.hits.length ++ s.watch.hits.flatMap HitRecord.bytes

/-- HITS_READ with clear (R82): list, drop count and WATCH go in the step in which the body is taken. -/
def State.clearHits (s : State) : State :=
  { s with watch := { s.watch with hits := [], drops := 0 } }.clearSource sourceWatch

/-- HITS_READ (R82). -/
def execHitsRead (c : Ctx) (s : State) : Host.Outcome State Fault Refusal :=
  whenRunning s fun s => s.onRequest c 0x14 fun body s =>
    if body.length ≠ 1 then s.answerError c .badLength
    else if 1 < byteAt body 0 then s.answerParameter c 0x01
    else (if byteAt body 0 = 1 then s.clearHits else s).answerOk c s.hitsBody

/-- A register number of EXTEND as one of the eight registers. -/
def registerIndex (n : Nat) : Option (Fin 8) := if h : n < 8 then some ⟨n, h⟩ else none

/-- EXTEND's checks and its extension job (R68, R69). -/
def State.extendRequest (s : State) (c : Ctx) (body : List Byte) : State :=
  if body.length ≠ 33 then s.answerError c .badLength
  else
    match registerIndex (byteAt body 0) with
    | none => s.answerParameter c 0x01
    | some n =>
      if n.val < 3 then s.answerParameter c 0x02
      else if (n = 3 ∨ n = 4) ∧ ¬ s.restart.bootWindow then s.answerError c .bootWindowClosed
      else ((s.enqueueJob (.ctx c) (.extend n (digestOf (body.drop 1)))).setWork c (.extending n)).startNext

/-- EXTEND (R69). -/
def execExtend (c : Ctx) (s : State) : Host.Outcome State Fault Refusal :=
  whenRunning s fun s => s.onRequest c 0x20 fun body s => s.extendRequest c body

/-- MEASURE_READ (R70). -/
def execMeasureRead (c : Ctx) (s : State) : Host.Outcome State Fault Refusal :=
  whenRunning s fun s => s.onRequest c 0x21 fun body s =>
    if body.length ≠ 1 then s.answerError c .badLength
    else if byteAt body 0 = 0 then s.answerParameter c 0x01
    else s.answerOk c (le 1 (byteAt body 0) ++ selectedRegisters s.watch.registers (byteAt body 0))

/-! ## Quote builder -/

/-- QUOTE's checks and its stamp request (R161, R162). -/
def State.quoteRequest (s : State) (c : Ctx) (body : List Byte) : State :=
  if body = [] ∨ 65 < body.length then s.answerError c .badLength
  else if s.wc.identity.isNone then s.answerError c .noIdentity
  else ((s.setWork c .quoting).askQuoteStamp c).startNext

/-- QUOTE (R161). -/
def execQuote (c : Ctx) (s : State) : Host.Outcome State Fault Refusal :=
  whenRunning s fun s => s.onRequest c 0x22 fun body s => s.quoteRequest c body

/-! ## Time base -/

/-- TIME_SET (R133). -/
def execTimeSet (c : Ctx) (s : State) : Host.Outcome State Fault Refusal :=
  whenRunning s fun s => s.onRequest c 0x50 fun body s =>
    if body.length ≠ 8 then s.answerError c .badLength
    else if s.watch.trust.level < Trust.trial.level then s.answerError c .trustTooLow
    else if 2 ^ 40 ≤ ofLe body then s.answerParameter c 0x01
    else { s with time := { s.time with wall := some (ofLe body, s.time.tick) } }.answerOk c []

/-- The stamp status byte (R135). -/
def State.stampStatus (s : State) : Byte :=
  if s.stampsExhausted then 2 else if s.time.lastStamp.isSome then 1 else 0

/-- The 28 bytes of TIME_READ (R135). -/
def State.timeBody (s : State) : List Byte :=
  le 6 s.time.tick ++ [flagByte s.time.wall.isSome] ++ le 8 ((s.time.wallAt s.time.tick).getD 0) ++ [s.stampStatus] ++
    (s.time.lastStamp.getD Stamp.zero).bytes

/-- TIME_READ (R135). -/
def execTimeRead (c : Ctx) (s : State) : Host.Outcome State Fault Refusal :=
  whenRunning s fun s => s.onRequest c 0x51 fun body s => s.whenEmpty c body (s.answerOk c s.timeBody)

end Sys2Proof.Machine
end

