-- ==== Sys2Proof/Machine/RequestsUpdate.lean ====
section
/-! DEFINITION. The requests of the update intake (chapter 5). -/

namespace Sys2Proof.Machine

open Sys2Proof

/-- The session's claim, and the number the next open takes. -/
def State.setClaim (s : State) (n : Nat) : State :=
  { s with intake := { s.intake with session := { s.intake.session with claim := some n }, nextOpen := n + 1 } }

/-- UPDATE_OPEN's checks, its claim and its write (R89). -/
def State.openRequest (s : State) (c : Ctx) (body : List Byte) : State :=
  if ¬ s.inField then s.answerError c .wrongLifecycle
  else if body ≠ [] then s.answerError c .badLength
  else if (s.slotRecord s.active).state = .trial then s.answerError c .trialActive
  else if (s.intake.session.state ≠ .idle ∧ s.intake.session.state ≠ .failed) ∨ s.intake.session.claim.isSome then
    s.answerError c .sessionState
  else (s.setClaim s.intake.nextOpen).requestWrite c (.openSession s.intake.nextOpen)

/-- UPDATE_OPEN (R89). -/
def execUpdateOpen (c : Ctx) (s : State) : Host.Outcome State Fault Refusal :=
  whenRunning s fun s => s.onRequest c 0x30 fun body s => s.openRequest c body

/-- The STAGING length of the table in force (R90). -/
def State.stagingLength (s : State) : Nat :=
  match s.tableInForce with
  | some t => t.stagingLength
  | none => 0

/-- STAGING_BANK (R90). -/
def execStagingBank (c : Ctx) (s : State) : Host.Outcome State Fault Refusal :=
  whenRunning s fun s => s.onRequest c 0x31 fun body s =>
    let bank := ofLe body
    if body.length ≠ 4 then s.answerError c .badLength
    else if s.intake.session.state ≠ .receiving then s.answerError c .sessionState
    else if s.intake.session.owner ≠ some c then s.answerError c .notOwner
    else if bank % 0x10000 ≠ 0 then s.answerParameter c 0x01
    else if s.slotSize < bank + s.stagingLength then s.answerParameter c 0x02
    else
      (s.setSession
        { s.intake.session with bank := bank, deadline := some (s.time.tick + 60000) }).answerOk c []

/-- An accepted UPDATE_FINISH (R98): VERIFYING, deadline disarmed, the manifest sector asked for; OK at once. That check 1's read is
submitted in this step, beside a stream job that still runs, is the model's choice (log entry 36). -/
def State.finishSession (s : State) (c : Ctx) : State :=
  (((s.setSession { s.intake.session with state := .verifying, deadline := none }).submitRead .update s.stagedBase
    0x1000).setIntakeWork .readManifest).answerOk c []

/-- A program or erase of the STAGING region is on the real flash (R92). -/
def State.stagingForward (s : State) : Bool := s.storage.forward.any (·.staging.isSome)

/-- UPDATE_FINISH (R98). No STAGING forward is on the flash when the session leaves RECEIVING for VERIFYING (R92): a request that
would be accepted waits for one, which can be there because a routed request waits for its owner without bound (log entry 35). -/
def execUpdateFinish (c : Ctx) (s : State) : Host.Outcome State Fault Refusal :=
  whenRunning s fun s => s.onRequest c 0x32 fun body s =>
    if body ≠ [] then s.answerError c .badLength
    else if s.intake.session.state ≠ .receiving then s.answerError c .sessionState
    else if s.intake.session.owner ≠ some c then s.answerError c .notOwner
    else if s.stagingForward then s
    else s.finishSession c

/-- The number of sector tracker entries (R91). -/
def State.trackerEntries (s : State) : Nat :=
  match s.wc.header with
  | some t => t.slotSize / 0x1000
  | none => Config.trackerEntriesWithoutTable

/-- The tracker counts STALE, ERASED and WRITTEN, 2 bytes each (R104). -/
def State.trackerCounts (s : State) : List Byte :=
  let erased := s.intake.tracker.count .erased
  let written := s.intake.tracker.count .written
  le 2 (s.trackerEntries - erased - written) ++ le 2 erased ++ le 2 written

/-- The owner byte (R104). -/
def ownerByte : Option Ctx → Byte
  | some .c0 => 0
  | some .c1 => 1
  | none => 0xFF

/-- The inactivity deadline field (R104); a deadline beyond the counter's range has no stated form. -/
def deadlineBytes : Option Nat → List Byte
  | none => le 6 0
  | some d => if d ≤ tickMax then le 6 d else le 6 (Config.overlongDeadline d).toNat

/-- The 39 bytes of UPDATE_STATUS (R104). -/
def State.sessionBody (s : State) : List Byte :=
  let x := s.intake.session
  [x.state.code, ownerByte x.owner, flagByte x.claim.isSome] ++ le 4 x.bank ++ le 4 x.expected ++ [flagByte x.broken] ++
    le 4 (x.firstBreak.getD 0xFFFFFFFF) ++ le 2 x.breaks ++ le 2 x.refusedPrograms ++ s.trackerCounts ++
    [x.path.code, x.reason.code] ++ le 1 x.detail ++ le 4 x.progress ++ deadlineBytes x.deadline

/-- UPDATE_STATUS (R104): UPDATE clears in the step in which the body is taken. -/
def execUpdateStatus (c : Ctx) (s : State) : Host.Outcome State Fault Refusal :=
  whenRunning s fun s => s.onRequest c 0x33 fun body s =>
    s.whenEmpty c body ((s.clearSource sourceUpdate).answerOk c s.sessionBody)

/-- An accepted UPDATE_COMMIT (R105): COMMIT_PENDING at once, and its record group queued with the table in force. -/
def State.commitSession (s : State) (c : Ctx) (m : VerifiedManifest) (restart : Bool) : State :=
  (s.setSession { s.intake.session with state := .commitPending }).requestWrite c (.commit m s.tableInForce restart)

/-- UPDATE_COMMIT (R105). The verified manifest is held while VERIFIED (R87); without one there is nothing to hand over. -/
def execUpdateCommit (c : Ctx) (s : State) : Host.Outcome State Fault Refusal :=
  whenRunning s fun s => s.onRequest c 0x34 fun body s =>
    if body.length ≠ 1 then s.answerError c .badLength
    else if 1 < byteAt body 0 then s.answerParameter c 0x01
    else
      match s.intake.session.state, s.intake.session.manifest with
      | .verified, some m =>
        if s.intake.session.owner ≠ some c then s.answerError c .notOwner else s.commitSession c m (byteAt body 0 = 1)
      | _, _ => s.answerError c .sessionState

/-- An accepted UPDATE_ABORT (R107): the session enters IDLE, a claim cleared with it; from COMMIT_PENDING a write clears the
pending flag. -/
def State.abortSession (s : State) (c : Ctx) : State :=
  if s.intake.session.state = .commitPending then s.restSession.requestWrite c .clearPending
  else s.restSession.answerOk c []

/-- UPDATE_ABORT (R107). -/
def execUpdateAbort (c : Ctx) (s : State) : Host.Outcome State Fault Refusal :=
  whenRunning s fun s => s.onRequest c 0x35 fun body s =>
    if body ≠ [] then s.answerError c .badLength
    else if s.intake.session.state = .idle then s.answerError c .sessionState
    else s.abortSession c

/-- BOOT_CONFIRM (R110). -/
def execBootConfirm (c : Ctx) (s : State) : Host.Outcome State Fault Refusal :=
  whenRunning s fun s => s.onRequest c 0x36 fun body s =>
    if body ≠ [] then s.answerError c .badLength
    else if (s.slotRecord s.active).state ≠ .trial then s.answerError c .sessionState
    else if s.watch.trust.level < Trust.trial.level then s.answerError c .confirmDenied
    else s.requestWrite c .confirm

end Sys2Proof.Machine
end

