-- ==== Sys2Proof/Machine/RequestsKeys.lean ====
section
/-! DEFINITION. The requests of the key table (chapter 6), the provisioning claim, and REGION_LOAD, which takes it (R8, R122). -/

namespace Sys2Proof.Machine

open Sys2Proof

/-! ## Reports -/

/-- The 402 bytes of KEY_READ (R126). -/
def State.keyBody (s : State) : List Byte :=
  (match s.wc.identity with
    | some k => keyEntry 1 .active .generated k.pub
    | none => keyEntry 1 .empty .none 0) ++
  (if s.wc.derivation.isSome then keyEntry 2 .active .generated 0 else keyEntry 2 .empty .none 0) ++
  s.wc.updateKeys.toList.flatMap fun k => keyEntry 3 k.state k.origin (if k.state = .empty then 0 else k.pub)

/-- KEY_READ (R126). -/
def execKeyRead (c : Ctx) (s : State) : Host.Outcome State Fault Refusal :=
  whenRunning s fun s => s.onRequest c 0x43 fun body s => s.whenEmpty c body (s.answerOk c s.keyBody)

/-- CERT_READ (R126). -/
def execCertRead (c : Ctx) (s : State) : Host.Outcome State Fault Refusal :=
  whenRunning s fun s => s.onRequest c 0x23 fun body s => s.whenEmpty c body (s.answerOk c (s.wc.certificate.getD []))

/-! ## Derivation -/

/-- DERIVE's checks and its job (R120). -/
def State.deriveRequest (s : State) (c : Ctx) (body : List Byte) : State :=
  if body = [] ∨ 32 < body.length then s.answerError c .badLength
  else if s.watch.trust.level < Trust.trial.level then s.answerError c .trustTooLow
  else ((s.enqueueJob (.ctx c) (.derivation body)).setWork c .deriving_).startNext

/-- DERIVE (R120). -/
def execDerive (c : Ctx) (s : State) : Host.Outcome State Fault Refusal :=
  whenRunning s fun s => s.onRequest c 0x44 fun body s => s.deriveRequest c body

/-! ## Provisioning checks, taken once the claim is held (R122) -/

/-- REGION_LOAD (R8). -/
def State.checkRegionLoad (s : State) (c : Ctx) (body : List Byte) : State :=
  let count := byteAt body 12
  if s.inField then s.answerClaimed c .wrongLifecycle 0 []
  else if body.length < 16 then s.answerClaimed c .badLength 0 []
  else if count < 1 ∨ 16 < count then s.answerClaimed c .badParameter 0x01 []
  else if body.length ≠ 16 + 12 * count then s.answerClaimed c .badLength 0 []
  else
    match (Table.ofBytes body).firstFailure with
    | some detail => s.answerClaimed c .badParameter detail []
    | none => s.requestWrite c (.loadTable (Table.ofBytes body))

/-- IDENTITY_GENERATE (R123): the drawing takes time, with the request executing. -/
def State.checkIdentity (s : State) (c : Ctx) (body : List Byte) : State :=
  if s.inField then s.answerClaimed c .wrongLifecycle 0 []
  else if body ≠ [] then s.answerClaimed c .badLength 0 []
  else s.setWork c .drawing

/-- CERT_STORE (R125). -/
def State.checkCertificate (s : State) (c : Ctx) (body : List Byte) : State :=
  if s.inField then s.answerClaimed c .wrongLifecycle 0 []
  else if body = [] ∨ 2048 < body.length then s.answerClaimed c .badLength 0 []
  else if s.wc.identity.isNone then s.answerClaimed c .noIdentity 0 []
  else s.requestWrite c (.certificate body)

/-- A public key that another of slots 2 to 5 holds ACTIVE or REVOKED (R124 check 5). -/
def keyElsewhere (keys : Vector UpdateKey 4) (slot : Fin 4) (pub : PubKey) : Bool :=
  keys.toList.zipIdx.any fun k => k.2 != slot.val && k.1.held pub

/-- KEY_INJECT (R124). -/
def State.checkInject (s : State) (c : Ctx) (body : List Byte) : State :=
  let pub := wide (body.drop 1)
  if s.inField then s.answerClaimed c .wrongLifecycle 0 []
  else if body.length ≠ 65 then s.answerClaimed c .badLength 0 []
  else
    match updateKeyIndex (byteAt body 0) with
    | none => s.answerClaimed c .badParameter 0x01 []
    | some slot =>
      if ¬ Config.isPoint pub then s.answerClaimed c .badParameter 0x02 []
      else if keyElsewhere s.wc.updateKeys slot pub then s.answerClaimed c .badParameter 0x03 []
      else s.requestWrite c (.injectKey slot pub)

/-- LIFECYCLE_ADVANCE (R127). -/
def State.checkAdvance (s : State) (c : Ctx) (body : List Byte) : State :=
  if s.inField then s.answerClaimed c .wrongLifecycle 0 []
  else if body.length ≠ 1 then s.answerClaimed c .badLength 0 []
  else if 1 < byteAt body 0 then s.answerClaimed c .badParameter 0x01 []
  else if s.wc.identity.isNone ∨ s.wc.derivation.isNone then s.answerClaimed c .badParameter 0x02 []
  else if s.wc.certificate.isNone then s.answerClaimed c .badParameter 0x03 []
  else if s.wc.updateKeys.toList.all (fun k => k.state ≠ .active) then s.answerClaimed c .badParameter 0x04 []
  else if s.wc.header.isNone then s.answerClaimed c .badParameter 0x05 []
  else s.requestWrite c (.advance (byteAt body 0 = 1))

/-- The checks of a provisioning request by its code. -/
def State.checkProvisioning (s : State) (c : Ctx) (code : Nat) (body : List Byte) : State :=
  if code = 0x11 then s.checkRegionLoad c body
  else if code = 0x40 then s.checkIdentity c body
  else if code = 0x41 then s.checkCertificate c body
  else if code = 0x42 then s.checkInject c body
  else if code = 0x45 then s.checkAdvance c body
  else s

/-- A provisioning request is routed (R122): with the claim clear it takes it and is checked; else it waits. -/
def State.provision (s : State) (c : Ctx) (code : Nat) (body : List Byte) : State :=
  if s.requests.claim = none ∧ s.requests.claimQueue = [] then
    { s with requests := { s.requests with claim := some c } }.checkProvisioning c code body
  else
    { s with requests := { s.requests with claimQueue := s.requests.claimQueue ++ [c] } }.setWork c .awaitClaim

/-- PROVISIONING_CLAIM_GRANT (R122): with the claim clear, the request that waits takes it and is checked. -/
def execProvisioningClaimGrant (s : State) : Host.Outcome State Fault Refusal :=
  whenRunning s fun s =>
    match s.requests.claim, s.requests.claimQueue with
    | none, c :: rest =>
      match (s.ctx c).request with
      | some r =>
        { s with requests := { s.requests with claim := some c, claimQueue := rest } }.checkProvisioning c r.code r.body
      | none => { s with requests := { s.requests with claimQueue := rest } }
    | _, _ => s

/-- REGION_LOAD (R8). -/
def execRegionLoad (c : Ctx) (s : State) : Host.Outcome State Fault Refusal :=
  whenRunning s fun s => s.onRequest c 0x11 fun body s => s.provision c 0x11 body

/-- IDENTITY_GENERATE (R123). -/
def execIdentityGenerate (c : Ctx) (s : State) : Host.Outcome State Fault Refusal :=
  whenRunning s fun s => s.onRequest c 0x40 fun body s => s.provision c 0x40 body

/-- CERT_STORE (R125). -/
def execCertStore (c : Ctx) (s : State) : Host.Outcome State Fault Refusal :=
  whenRunning s fun s => s.onRequest c 0x41 fun body s => s.provision c 0x41 body

/-- KEY_INJECT (R124). -/
def execKeyInject (c : Ctx) (s : State) : Host.Outcome State Fault Refusal :=
  whenRunning s fun s => s.onRequest c 0x42 fun body s => s.provision c 0x42 body

/-- LIFECYCLE_ADVANCE (R127). -/
def execLifecycleAdvance (c : Ctx) (s : State) : Host.Outcome State Fault Refusal :=
  whenRunning s fun s => s.onRequest c 0x45 fun body s => s.provision c 0x45 body

/-- The drawing of context `c` ends (R123): a new private key, its public part and a new secret, in one record group. -/
def State.drawIdentity (s : State) (c : Ctx) : State :=
  let priv := Config.random32 s.draws
  let secret := Config.random32 (s.draws + 1)
  { s with draws := s.draws + 2 }.requestWrite c (.identity ⟨priv, Config.publicOf priv⟩ secret)

/-- IDENTITY_DRAW_DONE (R123). Only the holder of the claim can be drawing. -/
def execIdentityDrawDone (s : State) : Host.Outcome State Fault Refusal :=
  whenRunning s fun s =>
    match s.requests.claim with
    | some c => if s.work? c = some .drawing then s.drawIdentity c else s
    | none => s

end Sys2Proof.Machine
end

