-- ==== Sys2Proof/Machine/RequestsCreds.lean ====
section
/-! DEFINITION. The requests of the credential store (chapter 8). -/

namespace Sys2Proof.Machine

open Sys2Proof

/-- The 32 entries of CRED_LIST (R145). -/
def State.credEntries (s : State) : List Byte :=
  ((s.wc.creds.toList.zip s.wc.failCounts.toList).zip s.creds.lockouts.toList).flatMap fun x =>
    credListEntry x.1.1 x.1.2 (ticksLeft s.time.tick x.2)

/-- The 1,513 bytes of CRED_LIST (R145). -/
def State.credListBody (s : State) : List Byte :=
  le 4 s.wc.ownerEpoch.toNat ++ le 1 (setCredentials s.wc) ++ le 4 (ticksLeft s.time.tick s.creds.grant) ++ s.credEntries

/-- CRED_LIST (R145). -/
def execCredList (c : Ctx) (s : State) : Host.Outcome State Fault Refusal :=
  whenRunning s fun s => s.onRequest c 0x60 fun body s => s.whenEmpty c body (s.answerOk c s.credListBody)

/-- The body of a released SECRET (R146). -/
def CredRecord.releaseBody (r : CredRecord) : List Byte := le 4 r.version ++ le 1 r.secretBytes.length ++ r.secretBytes

/-- CRED_READ (R146). -/
def execCredRead (c : Ctx) (s : State) : Host.Outcome State Fault Refusal :=
  whenRunning s fun s => s.onRequest c 0x61 fun body s =>
    if body.length ≠ 1 then s.answerError c .badLength
    else
      match credSlot (byteAt body 0) with
      | none => s.answerParameter c 0x20
      | some slot =>
        match s.releaseCheck .secret slot with
        | some st => s.answer c st slot.val []
        | none => s.answerOk c s.wc.creds[slot].releaseBody

/-- CRED_COMPARE's form, then its checks and job (R147). -/
def State.compareRequest (s : State) (c : Ctx) (body : List Byte) : State :=
  if body = [] ∨ 193 < body.length then s.answerError c .badLength
  else
    match credSlot (byteAt body 0) with
    | none => s.answerParameter c 0x20
    | some slot => (s.tryCompare c slot).startNext

/-- CRED_COMPARE (R147). -/
def execCredCompare (c : Ctx) (s : State) : Host.Outcome State Fault Refusal :=
  whenRunning s fun s => s.onRequest c 0x64 fun body s => s.compareRequest c body

/-- The targets of CRED_RESERVE: one slot, or a pair whose first slot is even (R150, R151). -/
def reserveTargets (n count : Nat) : Option (List (Fin 32)) :=
  match credSlot n, credSlot (n + 1) with
  | some i, j =>
    if count = 1 then some [i]
    else if count = 2 ∧ n % 2 = 0 then
      match j with
      | some k => some [i, k]
      | none => none
    else none
  | none, _ => none

/-- One entry of CRED_RESERVE's response (R151). -/
def State.reserveEntry (s : State) (i : Fin 32) : List Byte :=
  let r := s.wc.creds[i]
  le 1 i.val ++ [flagByte r.content.isSome] ++ le 4 r.version ++ le 1 r.secretBytes.length ++ r.secretBytes

/-- CRED_RESERVE (R151). -/
def State.reserveRequest (s : State) (c : Ctx) (body : List Byte) : State :=
  if body.length ≠ 2 then s.answerError c .badLength
  else if 31 < byteAt body 0 then s.answerParameter c 0x20
  else
    match reserveTargets (byteAt body 0) (byteAt body 1) with
    | none => s.answerParameter c 0x21
    | some slots =>
      match slots.find? (fun i => (s.releaseCheck .any i).isSome) with
      | some i => s.answer c ((s.releaseCheck .any i).getD .ok) i.val []
      | none =>
        (s.setReservation c (.valid (slots.map fun i => (i, s.wc.creds[i].version)))).answerOk c
          (slots.flatMap s.reserveEntry)

/-- CRED_RESERVE (R151). -/
def execCredReserve (c : Ctx) (s : State) : Host.Outcome State Fault Refusal :=
  whenRunning s fun s => s.onRequest c 0x62 fun body s => s.reserveRequest c body

/-- The records are slots n and n + 1 in that order (R153 check 5). -/
def neighbours : List NewCred → Bool
  | [a, b] => b.slot.val = a.slot.val + 1
  | _ => true

/-- The form of a CRED_WRITE_COND body (R153): its records, or the answer of the first check that fails. -/
def credWriteForm (body : List Byte) : Except (Status × Nat) (List NewCred) :=
  let count := byteAt body 0
  if body.length < 16 then .error (.badLength, 0)
  else
    match splitCredRecords count (body.drop 1) with
    | none => .error (.badLength, 0)
    | some raw =>
      if count ≠ 1 ∧ count ≠ 2 then .error (.badParameter, 0x01)
      else
        match parseCreds raw with
        | none => .error (.badParameter, 0x02)
        | some rs => if neighbours rs then .ok rs else .error (.badParameter, 0x02)

/-- Steps 1 to 6 of R154 for a body that has its form. -/
def State.condJudge (s : State) (c : Ctx) (rs : List NewCred) : Option (Status × Nat) :=
  if s.reservation c = .none then some (.reservationLost, 0)
  else if rs.map (·.slot) ≠ (s.reservation c).targets.map (·.1) then some (.badParameter, 0x03)
  else if rs.any (fun n => s.wc.creds[n.slot].version = 0xFFFFFFFF) then some (.badParameter, 0x04)
  else s.condCheck c (rs.map fun n => (n.slot, n.minTrustOf, n.windowOnlyOf))

/-- CRED_WRITE_COND (R153, R154). -/
def State.condRequest (s : State) (c : Ctx) (body : List Byte) : State :=
  match credWriteForm body with
  | .error f => s.answer c f.1 f.2 []
  | .ok rs =>
    match s.condJudge c rs with
    | some f => s.condRefuse c f
    | none => (s.prepare c [] false rs).startNext

/-- CRED_WRITE_COND (R154). -/
def execCredWriteCond (c : Ctx) (s : State) : Host.Outcome State Fault Refusal :=
  whenRunning s fun s => s.onRequest c 0x63 fun body s => s.condRequest c body

/-- An OWNER_WIPE under an open grant (R158, R159). -/
def State.wipeTaken (s : State) (c : Ctx) : State :=
  let s := { s with creds := { s.creds with grant := none } }.clearSource sourcePresence
  let s :=
    { s with
      creds := { s.creds with reservations := ⟨s.creds.reservations.c0.lose, s.creds.reservations.c1.lose⟩ } }
  s.requestWrite c .wipe

/-- OWNER_WIPE (R159). -/
def execOwnerWipe (c : Ctx) (s : State) : Host.Outcome State Fault Refusal :=
  whenRunning s fun s => s.onRequest c 0x65 fun body s =>
    s.whenEmpty c body (if s.creds.grant.isSome then s.wipeTaken c else s.answerError c .presenceRequired)

end Sys2Proof.Machine
end

