-- ==== Sys2Proof/Machine/Dispatch.lean ====
section
/-! DEFINITION. The meaning of each command, one arm for each constructor, in the order of spec/opcode_table.json. -/

namespace Sys2Proof.Machine

open Sys2Proof

def exec (i : Instr) (s : State) : Host.Outcome State Fault Refusal :=
  match i with
  | .powerOn hcs rstReq => Sys2Proof.Machine.execPowerOn hcs rstReq s
  | .resetNLow => Sys2Proof.Machine.execResetNLow s
  | .lineReset hcs => Sys2Proof.Machine.execLineReset hcs s
  | .restartLine => Sys2Proof.Machine.execRestartLine s
  | .tick presence => Sys2Proof.Machine.execTick presence s
  | .trialExpiry => Sys2Proof.Machine.execTrialExpiry s
  | .trialAlertRaise => Sys2Proof.Machine.execTrialAlertRaise s
  | .idleTimeout => Sys2Proof.Machine.execIdleTimeout s
  | .timeout c => Sys2Proof.Machine.execTimeout c s
  | .requestBusyCapExpiry c => Sys2Proof.Machine.execRequestBusyCapExpiry c s
  | .presenceRelease => Sys2Proof.Machine.execPresenceRelease s
  | .presenceGrantOpen => Sys2Proof.Machine.execPresenceGrantOpen s
  | .presenceGrantExpiry => Sys2Proof.Machine.execPresenceGrantExpiry s
  | .lockoutExpiry slot => Sys2Proof.Machine.execLockoutExpiry slot s
  | .realertExpiry => Sys2Proof.Machine.execRealertExpiry s
  | .pulseEnd => Sys2Proof.Machine.execPulseEnd s
  | .stampWaitServe => Sys2Proof.Machine.execStampWaitServe s
  | .read step => Sys2Proof.Machine.execRead step s
  | .fastRead step => Sys2Proof.Machine.execFastRead step s
  | .quadOutputFastRead step => Sys2Proof.Machine.execQuadOutputFastRead step s
  | .writeEnable step => Sys2Proof.Machine.execWriteEnable step s
  | .writeDisable step => Sys2Proof.Machine.execWriteDisable step s
  | .readStatus step => Sys2Proof.Machine.execReadStatus step s
  | .readIdentification step => Sys2Proof.Machine.execReadIdentification step s
  | .pageProgram step => Sys2Proof.Machine.execPageProgram step s
  | .sectorErase step => Sys2Proof.Machine.execSectorErase step s
  | .blockErase step => Sys2Proof.Machine.execBlockErase step s
  | .chipErase step => Sys2Proof.Machine.execChipErase step s
  | .unknownCommand code step => Sys2Proof.Machine.execUnknownCommand code step s
  | .substituteEraseNext took => Sys2Proof.Machine.execSubstituteEraseNext took s
  | .hostForwardComplete took => Sys2Proof.Machine.execHostForwardComplete took s
  | .capacityHandover id took => Sys2Proof.Machine.execCapacityHandover id took s
  | .backgroundJobRun count => Sys2Proof.Machine.execBackgroundJobRun count s
  | .backgroundReadComplete => Sys2Proof.Machine.execBackgroundReadComplete s
  | .cryptoJobEnd => Sys2Proof.Machine.execCryptoJobEnd s
  | .retainedWriteTake => Sys2Proof.Machine.execRetainedWriteTake s
  | .retainedWriteComplete => Sys2Proof.Machine.execRetainedWriteComplete s
  | .heldEnd => Sys2Proof.Machine.execHeldEnd s
  | .provisioningClaimGrant => Sys2Proof.Machine.execProvisioningClaimGrant s
  | .identityDrawDone => Sys2Proof.Machine.execIdentityDrawDone s
  | .info c => Sys2Proof.Machine.execInfo c s
  | .contextReset c => Sys2Proof.Machine.execContextReset c s
  | .restart c => Sys2Proof.Machine.execRestart c s
  | .alertRead c => Sys2Proof.Machine.execAlertRead c s
  | .alertSet c => Sys2Proof.Machine.execAlertSet c s
  | .closeBootWindow c => Sys2Proof.Machine.execCloseBootWindow c s
  | .regionRead c => Sys2Proof.Machine.execRegionRead c s
  | .regionLoad c => Sys2Proof.Machine.execRegionLoad c s
  | .watchLoad c => Sys2Proof.Machine.execWatchLoad c s
  | .watchRead c => Sys2Proof.Machine.execWatchRead c s
  | .hitsRead c => Sys2Proof.Machine.execHitsRead c s
  | .extend c => Sys2Proof.Machine.execExtend c s
  | .measureRead c => Sys2Proof.Machine.execMeasureRead c s
  | .quote c => Sys2Proof.Machine.execQuote c s
  | .certRead c => Sys2Proof.Machine.execCertRead c s
  | .updateOpen c => Sys2Proof.Machine.execUpdateOpen c s
  | .stagingBank c => Sys2Proof.Machine.execStagingBank c s
  | .updateFinish c => Sys2Proof.Machine.execUpdateFinish c s
  | .updateStatus c => Sys2Proof.Machine.execUpdateStatus c s
  | .updateCommit c => Sys2Proof.Machine.execUpdateCommit c s
  | .updateAbort c => Sys2Proof.Machine.execUpdateAbort c s
  | .bootConfirm c => Sys2Proof.Machine.execBootConfirm c s
  | .identityGenerate c => Sys2Proof.Machine.execIdentityGenerate c s
  | .certStore c => Sys2Proof.Machine.execCertStore c s
  | .keyInject c => Sys2Proof.Machine.execKeyInject c s
  | .keyRead c => Sys2Proof.Machine.execKeyRead c s
  | .derive c => Sys2Proof.Machine.execDerive c s
  | .lifecycleAdvance c => Sys2Proof.Machine.execLifecycleAdvance c s
  | .timeSet c => Sys2Proof.Machine.execTimeSet c s
  | .timeRead c => Sys2Proof.Machine.execTimeRead c s
  | .credList c => Sys2Proof.Machine.execCredList c s
  | .credRead c => Sys2Proof.Machine.execCredRead c s
  | .credReserve c => Sys2Proof.Machine.execCredReserve c s
  | .credWriteCond c => Sys2Proof.Machine.execCredWriteCond c s
  | .credCompare c => Sys2Proof.Machine.execCredCompare c s
  | .ownerWipe c => Sys2Proof.Machine.execOwnerWipe c s
  | .powerLoss => Sys2Proof.Machine.execPowerLoss s
  | .rstReqNDeassert => Sys2Proof.Machine.execRstReqNDeassert s
  | .ignoringTransactionEnd => Sys2Proof.Machine.execIgnoringTransactionEnd s

end Sys2Proof.Machine
end

