-- ==== Sys2Proof/Safety.lean ====
section
/-! DEFINITION. The terms in which statements about the part are made: what a request's routing, answer and frame are, what a
restart leaves, and the invariants that every command keeps. -/

namespace Sys2Proof.Machine

open Sys2Proof

/-! ## Requests -/

/-- A request of context `c` executes and has come this far; its response is PENDING (R172, R174); the part runs. -/
def Executing (s : State) (c : Ctx) (code tag : Nat) (body : List Byte) (work : ExecWork) : Prop :=
  s.running = true ∧ (s.ctx c).request = some ⟨code, tag, body, work⟩ ∧ (s.ctx c).response = .pending tag code

/-- A frame of context `c` has been taken and routed and its owner has not taken it yet (R174, R177); the part runs. -/
def Routed (s : State) (c : Ctx) (code tag : Nat) (body : List Byte) : Prop := Executing s c code tag body .routed

/-- The response of context `c` is READY and the context is back in IDLE (R179); the other context and the provisioning claim
are as before. -/
def Answers (s t : State) (c : Ctx) (code tag : Nat) (st : Status) (detail : Nat) (body : List Byte) : Prop :=
  t.ctx c = ⟨.idle, [], none, none, none, .ready tag code st detail body, .none⟩ ∧ t.ctx (otherCtx c) = s.ctx (otherCtx c) ∧
    t.requests.claim = s.requests.claim ∧ t.requests.claimQueue = s.requests.claimQueue

/-! ## The alert unit (R184, R186) -/

/-- `b` is `a` with its line judged: released, with the timer disarmed, without an enabled pending source; a released line with one
is asserted, and its timer armed; any other line stays. -/
def LineJudged (now : Nat) (a b : Alert) : Prop :=
  { b with line := a.line, timer := a.timer } = a ∧
    (a.pending &&& a.mask = 0 → b.line = .released ∧ b.timer = none) ∧
    (a.pending &&& a.mask ≠ 0 → a.line = .released →
      b.line = .asserted ∧ b.timer = if a.interval = 0 then none else some (now + a.interval)) ∧
    (a.pending &&& a.mask ≠ 0 → a.line ≠ .released → b = a)

/-- One change of the pending set, sources cleared and raised: where the set changes the line is judged, else nothing happens. -/
def AlertStep (now : Nat) (cleared raised : BitVec 8) (a b : Alert) : Prop :=
  ((a.pending &&& ~~~cleared) ||| raised = a.pending → b = a) ∧
    ((a.pending &&& ~~~cleared) ||| raised ≠ a.pending →
      LineJudged now { a with pending := (a.pending &&& ~~~cleared) ||| raised } b)

/-- Changes of the pending set one after another, each with the sources it clears and those it raises. -/
def AlertSteps (now : Nat) : List (BitVec 8 × BitVec 8) → Alert → Alert → Prop
  | [], a, b => b = a
  | (cleared, raised) :: more, a, b => ∃ x, AlertStep now cleared raised a x ∧ AlertSteps now more x b

/-- The alert unit after sources were cleared and then others raised. -/
def AlertChange (s t : State) (cleared raised : BitVec 8) : Prop :=
  AlertSteps s.time.tick [(cleared, 0), (0, raised)] s.alert t.alert

/-- The alert unit at an entry into HELD: every source enabled, interval 0, the timer disarmed; TRIAL, PRESENCE and the RESPONSE
sources clear, and WATCH, UPDATE, LOCKOUT and TRUST_DROP stay as they are; the line is judged where this changes the pending set or
the mask, once for the clearing and the enabling together (the model's choice, log entry 46). -/
def AlertHeld (now : Nat) (a b : Alert) : Prop :=
  ∀ x : Alert,
    x = { a with
      mask := 0xFF, interval := 0, timer := none
      pending := a.pending &&& (sourceWatch ||| sourceUpdate ||| sourceLockout ||| sourceTrustDrop) } →
      (x.pending = a.pending → a.mask = 0xFF → b = x) ∧ (x.pending ≠ a.pending ∨ a.mask ≠ 0xFF → LineJudged now x b)

/-! ## Answers -/

/-- The answer is all that happened: READY, the context's RESPONSE source raised, every other field of the state as before. -/
def OnlyAnswers (s t : State) (c : Ctx) (code tag : Nat) (st : Status) (detail : Nat) (body : List Byte) : Prop :=
  Answers s t c code tag st detail body ∧ AlertChange s t 0 (responseSource c) ∧
    { t with requests := s.requests, alert := s.alert } = s

/-- The request of context `c` goes on executing with this work; its response stays PENDING, and the other context is as
before. -/
def GoesOn (s t : State) (c : Ctx) (code tag : Nat) (body : List Byte) (work : ExecWork) : Prop :=
  t.ctx c = { s.ctx c with request := some ⟨code, tag, body, work⟩ } ∧ t.ctx (otherCtx c) = s.ctx (otherCtx c)

/-- One write of context `c` has joined the back of the retained write queue; the records are as before (R188). -/
def QueuesWrite (s t : State) (c : Ctx) (k : WriteKind) : Prop :=
  t.store = { s.store with queue := s.store.queue ++ [⟨.ctx c, k, true⟩] }

/-- The FIFO of the crypto engine, oldest job first: the running job and those behind it (R118). -/
def Crypto.fifo (x : Crypto) : List Job := (x.running.map (·.job)).toList ++ x.queue

/-- The requester holds no job in the FIFO (R118). -/
def NoJob (s : State) (r : Requester) : Prop := ∀ j ∈ s.crypto.fifo, j.requester ≠ r

/-- One job of this requester has joined the back of the FIFO (R118); where its discarded job still runs, the new one waits
until that has ended (R119). -/
def QueuesJob (s t : State) (r : Requester) (k : JobKind) : Prop :=
  (NoJob s r → t.crypto.fifo = s.crypto.fifo ++ [⟨r, k⟩] ∧ t.crypto.deferred = s.crypto.deferred) ∧
    (¬ NoJob s r → t.crypto.fifo = s.crypto.fifo ∧ t.crypto.deferred = s.crypto.deferred ++ [⟨r, k⟩])

/-- The running job of this requester ends with this result. It is the requester's one job, and no submission waits outside the
FIFO (R118). -/
def JobEnding (s : State) (r : Requester) (k : JobKind) (x : JobResult) : Prop :=
  s.running = true ∧ s.crypto.running = some ⟨⟨r, k⟩, x, false⟩ ∧ s.crypto.deferred = [] ∧
    ∀ j ∈ s.crypto.queue, j.requester ≠ r

/-- The end of a job has answered the request of context `c`: the FIFO is what stood behind the job, and nothing else has changed
but the count of random draws. -/
def JobAnswers (s t : State) (c : Ctx) (code tag : Nat) (st : Status) (detail : Nat) (body : List Byte) : Prop :=
  Answers s t c code tag st detail body ∧ AlertChange s t 0 (responseSource c) ∧ t.crypto.fifo = s.crypto.queue ∧
    { t with requests := s.requests, alert := s.alert, crypto := s.crypto, draws := s.draws } = s

/-- After the end of a job the request of context `c` goes on with this work, and these jobs of it have joined the FIFO. -/
def JobGoesOn (s t : State) (c : Ctx) (code tag : Nat) (body : List Byte) (work : ExecWork) (more : List JobKind) : Prop :=
  GoesOn s t c code tag body work ∧ t.requests.claim = s.requests.claim ∧ t.requests.claimQueue = s.requests.claimQueue ∧
    t.crypto.fifo = s.crypto.queue ++ more.map (fun k => ⟨.ctx c, k⟩)

/-- The background job of this user ends: its last bytes are read, and `block` is all it has read (R42). -/
def ReadEnding (s : State) (user : JobUser) (block : List Byte) : Prop :=
  s.running = true ∧ ∃ j, s.storage.job = some j ∧ j.running = true ∧ j.user = user ∧
    block = j.bytes ++ (List.range (j.start + j.length - j.next)).map fun n => Memory.read s.flash.mem (j.next + n)

/-- A block of an image is taken into its digest (R59, R102): `job` is the digest job over it, with finish set for the last one,
and the next block is asked for if one is left. The job that asks is WAITING (log entry 15). -/
def TakesBlock (t : State) (user : JobUser) (base : Nat) (p q : Pipe) (block : List Byte) (job : JobKind)
    (left : Option BackgroundJob) : Prop :=
  job = .digest p.absorbed block (decide (p.stop ≤ p.next)) ∧
    (p.stop ≤ p.next → q = { p with waiting := none, jobOut := true } ∧ t.storage.job = left) ∧
    (p.next < p.stop →
      q = { p with waiting := none, jobOut := true, next := p.next + min 4096 (p.stop - p.next) } ∧
        t.storage.job = some ⟨user, base + p.next, min 4096 (p.stop - p.next), base + p.next, [], false⟩)

/-- The table of release checks (R144) over what a slot holds: the answer of the first that fails. `verifier` is the class the
request needs, none where either will do. -/
def State.releaseAnswer (s : State) (verifier : Option Bool) (x : CredContent) : Option Status :=
  let isVerifier : Bool := match x.value with | .verifier _ _ => true | .secret _ => false
  let now := s.time.wallAt s.time.tick
  if verifier = some (!isVerifier) then some .wrongClass
  else if s.watch.trust.level < x.minTrust then some .trustTooLow
  else if x.windowOnly = true ∧ s.restart.bootWindow = false then some .bootWindowClosed
  else if x.notAfter.isSome = true ∧ now = none then some .timeUnknown
  else if ∃ limit ∈ x.notAfter, ∃ w ∈ now, limit < w then some .expired
  else none

/-- A record of a CRED_WRITE_COND body is as long as its label and value length bytes say (R153). -/
def CredRecordCut (r : List Byte) : Prop := r.length = 15 + byteAt r 5 + byteAt r (14 + byteAt r 5)

/-- The fields of such a record are in range, and a record of state EMPTY is zero (R153 checks 3 and 4). -/
def CredRecordFormed (r : List Byte) : Prop :=
  byteAt r 0 ≤ 31 ∧ byteAt r 1 ≤ 1 ∧ byteAt r 2 ≤ 1 ∧ byteAt r 3 ≤ 3 ∧ byteAt r 4 ≤ 3 ∧ byteAt r 5 ≤ 24 ∧
    byteAt r (14 + byteAt r 5) ≤ 192 ∧ (byteAt r 4 < 2 → numAt r (6 + byteAt r 5) 8 = 0) ∧
    (byteAt r 1 = 0 →
      byteAt r 2 = 0 ∧ byteAt r 3 = 0 ∧ byteAt r 4 = 0 ∧ byteAt r 5 = 0 ∧ numAt r 6 8 = 0 ∧ byteAt r 14 = 0)

/-- What such a record says (R153). -/
def credRecordRead (r : List Byte) : NewCred where
  slot := Fin.ofNat 32 (byteAt r 0)
  set := byteAt r 1 = 1
  verifier := byteAt r 2 = 1
  label := slice r 6 (byteAt r 5)
  minTrust := byteAt r 3
  windowOnly := byteAt r 4 % 2 = 1
  notAfter := if 2 ≤ byteAt r 4 then some (numAt r (6 + byteAt r 5) 8) else none
  value := slice r (15 + byteAt r 5) (byteAt r (14 + byteAt r 5))

/-- A provisioning request that passed its checks holds the claim and waits for its one write (R122). -/
def Provisions (s t : State) (c : Ctx) (code tag : Nat) (body : List Byte) (k : WriteKind) : Prop :=
  GoesOn s t c code tag body .awaitWrite ∧ QueuesWrite s t c k ∧ t.requests.claim = some c ∧
    { t with requests := s.requests, store := s.store } = s

/-- A completed write that changes the retained records alone: its block has nothing more to do. Such is also that of an
UPDATE_OPEN whose claim has been cleared meanwhile (R89). -/
def State.storeOnly (s : State) (k : WriteKind) : Prop :=
  k = .clearPending ∨ (∃ i, k = .resetFails i) ∨ (∃ m u, k = .commit m u false) ∨ (∃ b, k = .certificate b) ∨
    (∃ i pub, k = .injectKey i pub) ∨ (∃ key secret, k = .identity key secret) ∨
    ∃ n, k = .openSession n ∧ s.intake.session.claim ≠ some n

/-- What the completed write of a request of context `c` does beside the retained records and the two contexts, whether its request
still waits for it or has been discarded (R8, R86, R111, R148, R149, R152, R155, R159, R178): a loaded table enters force, or waits
for a host forward; a group disarms its targets' lockouts and settles both reservations; a confirm ends the trial; a mismatch from
count 5 on arms the lockout in RELEASED (log entry 22); a wipe stops the lockouts and loses the reservations. `told` are the alert changes of the responses
that become READY with it. -/
def WriteActs (s t : State) (w : TakenWrite) (c : Ctx) (told : List (BitVec 8 × BitVec 8)) : Prop :=
  (s.storeOnly w.write.kind →
    AlertSteps s.time.tick told s.alert t.alert ∧ { t with requests := s.requests, alert := s.alert, store := s.store } = s) ∧
  (∀ u, w.write.kind = .loadTable u →
    AlertSteps s.time.tick told s.alert t.alert ∧
      (s.restart.phase ≠ .released →
        t.xlat = { s.xlat with loadWaits := s.xlat.loadWaits || s.storage.forward.isSome } ∧ t.watch = s.watch) ∧
      (s.restart.phase = .released → s.storage.forward ≠ none →
        t.xlat = { s.xlat with loadWaits := true } ∧ t.watch = s.watch) ∧
      (s.restart.phase = .released → s.storage.forward = none →
        t.watch = { s.watch with altered := 0 } ∧
          t.xlat =
            ⟨match w.values.tables.get w.values.selector with
              | some u => .table w.values.selector u
              | none => if w.values.stage = .field then .none else .identity, false⟩) ∧
      { t with requests := s.requests, alert := s.alert, store := s.store, xlat := s.xlat, watch := s.watch } = s) ∧
  (∀ rs, w.write.kind = .credGroup rs →
    AlertSteps s.time.tick told s.alert t.alert ∧
      t.creds = { s.creds with lockouts := t.creds.lockouts, reservations := t.creds.reservations } ∧
      (∀ i : Fin 32, t.creds.lockouts[i] = if rs.any (fun r => r.1 = i) then none else s.creds.lockouts[i]) ∧
      t.reservation c = .none ∧
      (∀ ts, s.reservation (otherCtx c) = .valid ts →
        t.reservation (otherCtx c) = if ts.any (fun y => rs.any fun r => r.1 = y.1) then .lost ts else .valid ts) ∧
      ((∀ ts, s.reservation (otherCtx c) ≠ .valid ts) → t.reservation (otherCtx c) = s.reservation (otherCtx c)) ∧
      { t with requests := s.requests, alert := s.alert, store := s.store, creds := s.creds } = s) ∧
  (w.write.kind = .confirm →
    AlertSteps s.time.tick ((sourceTrial, 0) :: told) s.alert t.alert ∧
      t.restart = { s.restart with trialDeadline := none } ∧
      t.watch = { s.watch with trust := if s.watch.trust = .trial then .verified else s.watch.trust } ∧
      { t with requests := s.requests, alert := s.alert, store := s.store, restart := s.restart, watch := s.watch } = s) ∧
  (∀ k v, w.write.kind = .mismatch k v →
    (w.values.failCounts[k] < 5 ∨ s.restart.phase ≠ .released → t.creds = s.creds ∧ AlertSteps s.time.tick told s.alert t.alert) ∧
      (5 ≤ w.values.failCounts[k] → s.restart.phase = .released →
        t.creds =
          { s.creds with
            lockouts := s.creds.lockouts.set k
              (some (s.time.tick + 30000 * 2 ^ min (w.values.failCounts[k] - 5) 5)) } ∧
        AlertSteps s.time.tick ((0, sourceLockout) :: told) s.alert t.alert) ∧
      { t with requests := s.requests, alert := s.alert, store := s.store, creds := s.creds } = s) ∧
  (w.write.kind = .wipe →
    AlertSteps s.time.tick told s.alert t.alert ∧
      t.creds =
        { s.creds with
          lockouts := Vector.replicate 32 none
          reservations := ⟨s.creds.reservations.c0.lose, s.creds.reservations.c1.lose⟩ } ∧
      { t with requests := s.requests, alert := s.alert, store := s.store, creds := s.creds } = s)

/-- A write that triggers a restart when it completes, with its cause: a commit with its flag, and the advance to FIELD (R105,
R127). -/
def WriteKind.restarts (k : WriteKind) (cause : Cause) : Prop :=
  (∃ m u, k = .commit m u true) ∧ cause = .commitRestart ∨ (∃ b, k = .advance b) ∧ cause = .lifecycleChange

/-- The claim after the completion of a write of context `c`: it clears with a provisioning write, but that of the advance to FIELD
(R122, R178). -/
def ClaimAfter (s t : State) (w : TakenWrite) (c : Ctx) : Prop :=
  t.requests.claimQueue = s.requests.claimQueue ∧
    ∀ clears : Bool,
      (clears = true ↔
        ((∃ u, w.write.kind = .loadTable u) ∨ (∃ key secret, w.write.kind = .identity key secret) ∨
          (∃ b, w.write.kind = .certificate b) ∨ ∃ i pub, w.write.kind = .injectKey i pub) ∧ s.requests.claim = some c) →
        t.requests.claim = if clears then none else s.requests.claim

/-- A quote has its stamp: the record is assembled and its SIGNING job queued in the same step (R162 to R164). -/
def Assembles (s t : State) (c : Ctx) (tag : Nat) (body record : List Byte) : Prop :=
  t.ctx c = { s.ctx c with request := some ⟨0x22, tag, body, .quoting⟩, quote := .signing record } ∧
    t.ctx (otherCtx c) = s.ctx (otherCtx c) ∧ QueuesJob s t (.ctx c) (.signing record)

/-! ## The real flash (R15, R17 to R19, R37, R40) -/

/-- The addresses of a physical operation: the 4 KiB of a sector erase, the 64 KiB of a block erase, the cells of a program. -/
def FlashOp.Covers : FlashOp → Nat → Prop
  | .program cells, a => ∃ v, (a, v) ∈ cells
  | .eraseSector p, a => p ≤ a ∧ a < p + 0x1000
  | .eraseBlock p, a => p ≤ a ∧ a < p + 0x10000

/-- What the end of an operation's busy period makes of the contents `m` of the real flash. One that the flash took leaves FFh at
each address it erased, and at each cell it programmed the programmed byte where the cell was erased, else a free value of the two
bytes (log entry 4); the cells of a page program lie at addresses of their own (R15). Every other address reads as before, and
every address where the flash ignored the operation (R37; log entry 25). -/
def OperationLeaves (took : Bool) (op : FlashOp) (m n : List Host.Cell) : Prop :=
  (∀ a, took = false ∨ ¬ op.Covers a → Memory.read n a = Memory.read m a) ∧
    (took = true →
      match op with
      | .eraseSector _ | .eraseBlock _ => ∀ a, op.Covers a → Memory.read n a = 0xFF
      | .program cells =>
        ∀ (pre post : List (Nat × Byte)) (a : Nat) (v : Byte), cells = pre ++ (a, v) :: post → (∀ c ∈ pre ++ post, c.1 ≠ a) →
          Memory.read n a = if Memory.read m a = 0xFF then v else Config.reprogrammed (Memory.read m a) v)

/-- What a loss of the supply makes of the real flash: the busy period ends, and every address that the running operation does not
cover reads as before; those it covers read free values (log entry 5). -/
def InterruptLeaves (f g : Flash) : Prop :=
  g.busy = none ∧ (f.busy = none → g = f) ∧
    (Memory.wf f.mem → ∀ (op : FlashOp) (a : Nat), f.busy = some op → ¬ op.Covers a →
      Memory.read g.mem a = Memory.read f.mem a)

/-! ## Restarts -/

/-- The values the reset tables give every volatile field at power-on and RESET_N, with a power-on class restart begun (R46,
R54, R87, R172, R184, R187). -/
def PowerClassHeld (s t : State) (cause : Cause) (hcs : Bool) : Prop :=
  t.restart.phase = .held ∧ t.restart.outcome.cause = cause ∧ t.restart.outcome.results = ⟨.notTried, .notTried⟩ ∧
    t.restart.bootWindow = false ∧ t.restart.trialDeadline = none ∧
    t.time.tick = 0 ∧ t.time.wall = none ∧ t.time.lastStamp = none ∧ t.time.waiting = [] ∧
    t.watch.registers = Vector.replicate 8 0 ∧ t.watch.table = [] ∧ t.watch.hits = [] ∧ t.watch.drops = 0 ∧
    t.watch.hitsSince = 0 ∧ t.watch.altered = 0 ∧ t.watch.trust = .unverified ∧
    t.store.working = s.store.nonvolatile ∧ t.store.nonvolatile = s.store.nonvolatile ∧ t.store.taken = none ∧
    t.store.queue = [⟨.restart, .bootCount, true⟩] ∧
    t.link.decoder.state = (if hcs then .ignoring else .idle) ∧ t.link.wel = false ∧ t.link.refused = false ∧
    t.xlat = ⟨.none, false⟩ ∧ t.storage = ⟨.idle, none, none, none, none⟩ ∧ t.crypto = ⟨none, [], []⟩ ∧
    t.intake.session =
      { Session.resting with state := if s.store.nonvolatile.pendingCommit then .commitPending else .idle } ∧
    t.creds = ⟨Vector.replicate 32 none, ⟨.none, .none⟩, 0, false, false, none⟩ ∧
    t.requests = ⟨⟨Context.reset, Context.reset⟩, none, []⟩ ∧ t.alert = ⟨0, 0xFF, 0, none, .released, 0⟩

/-- The decoder back in IDLE after a transaction that drove these bytes. -/
def Decoder.after (out : List Byte) : Decoder := { Decoder.idle with out := out }

/-- A hit that asks for a stamp now is stamped at once: nothing waits, and a stamp can be issued (R137). -/
def StampFree (s : State) (x : Stamp) : Prop :=
  s.time.waiting = [] ∧ s.watch.waiting = [] ∧ s.stampsExhausted = false ∧ s.nextStamp = some x

/-- A read of the presented space is in progress on the upstream link. -/
def State.hostReading (s : State) : Bool :=
  s.link.decoder.state ≠ .idle && [some LinkCmd.read, some .fastRead, some .quadRead].contains s.link.decoder.cmd

/-- The watch unit after an entry into HELD whose read report gives no hit (R51, R67, R73, R80, R83, R84). -/
def WatchHeld (w : Watch) : Watch :=
  { w with
    registers := Vector.replicate 8 0, altered := 0, table := [], trust := .unverified, hitsSince := 0, holdDeferred := false }

/-- The read that an entry into HELD abandons (R25, R33, R80): what its report does to the time base, the watch unit and the alert
unit, ahead of what the entry does there. A report without a hit leaves the stamps and the hit list alone. A hit that has its stamp
at once is recorded and acts, and the table is emptied after it; a hit that must wait for its stamp keeps the table and the trust
level waiting. The stamp requests of the contexts' quotes go (R140). -/
def ReportsAbandonedRead (s t : State) : Prop :=
  (s.hostReading = false ∨ s.link.decoder.returned = [] ∨
      s.watch.waiting = [] ∧
        (∀ w ∈ s.watch.table, w.onRead = true → ∀ b ∈ s.link.decoder.returned, w.inRange (b.1 / 0x1000) = false) →
    t.time = { s.time with waiting := s.time.waiting.filter (· = .hit) } ∧ AlertHeld s.time.tick s.alert t.alert ∧
      (s.watch.waiting.all (fun h => !h.endsHold) → t.watch = WatchHeld s.watch)) ∧
  ∀ (w : WatchEntry) (l : Nat) (r : Option Nat) (pre post : List (Nat × Option Nat)), s.hostReading = true →
    s.watch.table = [w] → s.watch.holdDeferred = false → s.watch.waiting = [] → w.onRead = true →
    s.link.decoder.returned = pre ++ (l, r) :: post → w.inRange (l / 0x1000) = true →
    (∀ b ∈ pre, w.inRange (b.1 / 0x1000) = false) →
      (∀ x : Stamp, StampFree s x →
        t.time = { s.time with lastStamp := some x } ∧
          t.watch =
            { WatchHeld s.watch with
              hits := (⟨x, s.link.decoder.start, .read, r, some 0⟩ :: s.watch.hits).take 8
              drops := if s.watch.hits.length < 8 then s.watch.drops else satInc 0xFFFF s.watch.drops } ∧
          ∃ a, AlertSteps s.time.tick
              [(0, if w.alert then sourceWatch else 0), (0, if w.degrade ∧ 1 < s.watch.trust.level then sourceTrustDrop else 0)]
              s.alert a ∧ AlertHeld s.time.tick a t.alert) ∧
      (s.stampsExhausted = false → .hit ∉ s.time.waiting → s.time.waiting ≠ [] ∨ s.nextStamp = none →
        t.time = { s.time with waiting := [.hit] } ∧ AlertHeld s.time.tick s.alert t.alert ∧
          t.watch =
            { s.watch with
              registers := Vector.replicate 8 0, altered := 0, holdDeferred := true
              waiting := [⟨s.link.decoder.start, .read, r, some 0, w.alert, w.degrade, true⟩] })

/-- What every entry into HELD does (R51, R52), and what it keeps: a transaction in progress is ignored to its end (R25) and its read
reported; an open host read and a read-back job end (R41, R45); a host forward goes on unreported, without the erases it has not
issued (R19, R41), and a loaded table that waits for it goes on waiting (R13, log entry 47); the contexts are reset, their jobs and the intake's leave the FIFO, and a running one is discarded (R119); the
queued writes go, and nobody waits for the write in progress; a session enters IDLE with its resting values, COMMIT_PENDING aside
(R87, R88). -/
def EntersHeld (s t : State) (cause : Cause) : Prop :=
  (t.restart.phase = .held ∧ t.restart.outcome.cause = cause ∧ t.restart.outcome.results = ⟨.notTried, .notTried⟩ ∧
    t.restart.bootWindow = false ∧ t.restart.trialDeadline = none ∧ t.restart.presenceHold = 0 ∧
    t.restart.work = .held false) ∧
  t.link =
    ⟨{ Decoder.after s.link.decoder.out with state := if s.link.decoder.state = .idle then .idle else .ignoring }, false,
      false⟩ ∧
  t.xlat = { s.xlat with inForce := .none } ∧
  t.storage =
    { s.storage with
      forward := s.storage.forward.map fun f => { f with ops := f.ops.take (f.completed + 1), reported := false }
      job := s.storage.job.filter fun j => j.user ≠ .update
      readAt := if s.hostReading ∧ s.storage.link = .hostRead then none else s.storage.readAt
      link :=
        if s.hostReading ∧ s.storage.link = .hostRead ∨ s.storage.job.any (fun j => j.user = .update && j.running) then .idle
        else s.storage.link } ∧
  t.requests = ⟨⟨Context.reset, Context.reset⟩, none, []⟩ ∧
  t.creds = ⟨Vector.replicate 32 none, ⟨.none, .none⟩, 0, false, false, none⟩ ∧
  t.store =
    { s.store with
      queue := [], taken := s.store.taken.map fun w => { w with write := { w.write with live := false } } } ∧
  t.crypto =
    ⟨s.crypto.running.map fun j => if j.job.requester = .restart then j else { j with discarded := true },
      s.crypto.queue.filter (fun j => j.requester = .restart), s.crypto.deferred.filter (fun j => j.requester = .restart)⟩ ∧
  t.intake =
    { s.intake with
      work := .none, buffer := [], absorbed := [], streamJob := false
      session :=
        if s.intake.session.state = .commitPending then s.intake.session
        else ⟨.idle, none, none, 0, 0x1000, false, none, 0, 0, .none, .none, 0, none, 0, none⟩ } ∧
  t.watch.registers = Vector.replicate 8 0 ∧ t.watch.altered = 0 ∧ t.alert.mask = 0xFF ∧ t.alert.interval = 0 ∧
  t.alert.timer = none ∧ t.time.tick = s.time.tick ∧ t.time.wall = s.time.wall ∧ ReportsAbandonedRead s t ∧
  t.flash = s.flash ∧ t.pending = s.pending ∧ t.draws = s.draws

/-- Steps 3 to 8 of the release sequence (R6, R7, R63, R65, R66, R84, R149, R157): the active binding enters force, trust takes its
level, the boot window opens, the trial deadline is armed for TRIAL alone, the lockouts start afresh, the presence hold and the
grant end. -/
def Releases (s t : State) (trust : Trust) : Prop :=
  t.restart =
      { s.restart with
        phase := .released
        bootWindow := true
        trialDeadline := if trust = .trial then some (s.time.tick + 300000) else none
        presenceHold := 0
        work := .none } ∧
    t.watch.trust = trust ∧
    t.xlat =
      ⟨match s.store.working.tables.get s.store.working.selector with
        | some u => .table s.store.working.selector u
        | none => if s.store.working.stage = .field then .none else .identity, false⟩ ∧
    t.creds = { s.creds with lockouts := t.creds.lockouts, grant := none, pressArmed := false } ∧
    ∀ i : Fin 32, t.creds.lockouts[i] =
      (match s.store.working.creds[i].content with
      | some ⟨_, .verifier _ _, _, _, _⟩ =>
        if 5 ≤ s.store.working.failCounts[i] then some (s.time.tick + 30000 * 2 ^ min (s.store.working.failCounts[i] - 5) 5)
        else none
      | _ => none)

/-- The release sequence begins (R63, R64): the outcome record is complete, the extension of register 0 with `d` joins the FIFO, and
nothing else changes but the retained records, whose write has just completed. -/
def BeginsRelease (s t : State) (x : Outcome) (d : Digest) : Prop :=
  t.restart = { s.restart with outcome := x, work := .release .extend0 x.trust } ∧ QueuesJob s t .restart (.extend 0 d) ∧
    { t with restart := s.restart, crypto := s.crypto, store := s.store, draws := s.draws } = s

/-- The verification of a slot ends with this reason (R59, R61): its result stands in the outcome record, its REJECTED record is
queued with the manifest digest, its background job is cancelled, and its last crypto job has left the FIFO. -/
def RejectsSlot (s t : State) (v : Verify) (md : Digest) (reason : SlotResult) : Prop :=
  t.restart =
      { s.restart with
        outcome := { s.restart.outcome with results := s.restart.outcome.results.set v.slot reason }
        work := .writeRecord v } ∧
    t.store = { s.store with queue := s.store.queue ++ [⟨.restart, .slotReject v.slot md, true⟩] } ∧
    (∀ j, t.storage.job = some j → j.user ≠ .restart) ∧
    { t.storage with job := s.storage.job, link := s.storage.link } = s.storage ∧ t.crypto.fifo = s.crypto.queue ∧
    { t with restart := s.restart, store := s.store, storage := s.storage, crypto := s.crypto, draws := s.draws } = s

/-- The image length lies in the range of check 4 (R59, R99). -/
def LengthInRange (s : State) (m : Manifest) : Prop := 1 ≤ m.length ∧ m.length + 0x1000 ≤ s.slotSize

/-- The work of a RECEIVING or VERIFYING session is dropped (R45, R94, R107, R119): no check goes on, the stream bytes go, the
intake's jobs leave the FIFO and a running one is discarded, and its background read is cancelled; the tracker stays. -/
def DropsIntakeWork (s t : State) : Prop :=
  { t.intake with session := s.intake.session } =
      { s.intake with work := .none, buffer := [], absorbed := [], streamJob := false } ∧
    t.crypto =
      ⟨s.crypto.running.map fun j => if j.job.requester = .intake then { j with discarded := true } else j,
        s.crypto.queue.filter (fun j => j.requester ≠ .intake), s.crypto.deferred.filter (fun j => j.requester ≠ .intake)⟩ ∧
    (∀ j, s.storage.job = some j → j.user = .update →
      t.storage = { s.storage with job := none, link := if j.running then .idle else s.storage.link }) ∧
    ((∀ j, s.storage.job = some j → j.user ≠ .update) → t.storage = s.storage)

/-- A session with the record `x` fails its verification at the end of a crypto job (R87, R103): FAILED with the reason and the
detail, its background read, crypto job and stream dropped, UPDATE raised. -/
def FailsSession (s t : State) (x : Session) (reason : FailReason) (detail : Nat) : Prop :=
  t.intake.session = { x with state := .failed, reason := reason, detail := detail, deadline := none } ∧
    t.intake.work = .none ∧ t.intake.buffer = [] ∧ t.intake.streamJob = false ∧ t.intake.tracker = s.intake.tracker ∧
    (∀ j, t.storage.job = some j → j.user ≠ .update) ∧
    { t.storage with job := s.storage.job, link := s.storage.link } = s.storage ∧ t.crypto.fifo = s.crypto.queue ∧
    AlertChange s t 0 sourceUpdate ∧
    { t with intake := s.intake, storage := s.storage, crypto := s.crypto, alert := s.alert, draws := s.draws } = s

/-! ## The upstream link -/

/-- The host starts a transaction with HCS_N deasserted before it, and the part runs. -/
def LinkIdle (s : State) : Prop := s.running = true ∧ s.link.decoder.state = .idle

/-- A program or erase that starts now is not ignored (R22, R26, R30). -/
def WriteReady (s : State) : Prop := LinkIdle s ∧ s.link.wel = true ∧ s.busy = false

/-- The three address bytes of a command, most significant first (R21). -/
def addressBytes (a : Nat) : List Byte := be 3 a

/-- A refused program or erase (R27, R34, R35, R78): WEL cleared, REFUSED set, one REFUSED hit recorded with its stamp at the
front of the hit list, and nothing else changed. -/
def Refuses (s t : State) (x : Stamp) (start : Nat) (kind : AccessKind) (region : Option Nat) : Prop :=
  t.link = ⟨Decoder.after [], false, true⟩ ∧
    t.watch.hits = (⟨x, start, kind, region, none⟩ :: s.watch.hits).take 8 ∧
    t.watch.drops = (if s.watch.hits.length < 8 then s.watch.drops else satInc 0xFFFF s.watch.drops) ∧
    t.watch.hitsSince = satInc 0xFFFFFFFF s.watch.hitsSince ∧
    { t.watch with hits := s.watch.hits, drops := s.watch.drops, hitsSince := s.watch.hitsSince } = s.watch ∧
    t.time = { s.time with lastStamp := some x } ∧
    { t with link := s.link, watch := s.watch, time := s.time, intake := s.intake } = s ∧
    { t.intake.session with refusedPrograms := s.intake.session.refusedPrograms } = s.intake.session ∧
    { t.intake with session := s.intake.session } = s.intake

/-- A host forward starts at the release of HCS_N (R26, R40, R44, R92): WEL clears, BUSY is held by it, a background job that runs
is suspended, the first operation is on the real flash with no byte changed yet, and a STAGING forward renews the inactivity
deadline. -/
def StartsForward (s t : State) (f : HostForward) (staging : Prop) : Prop :=
  t.link = ⟨Decoder.after [], false, s.link.refused⟩ ∧ t.busy = true ∧
    t.storage =
      { s.storage with
        link := .hostForward
        readAt := none
        forward := some f
        job := s.storage.job.map fun j => { j with running := false } } ∧
    t.flash = ⟨s.flash.mem, f.ops.head?⟩ ∧
    { t.intake with session := s.intake.session } = s.intake ∧
    { t.intake.session with deadline := s.intake.session.deadline } = s.intake.session ∧
    (staging → t.intake.session.deadline = some (s.time.tick + 60000)) ∧
    (¬ staging → t.intake.session.deadline = s.intake.session.deadline) ∧
    { t with link := s.link, storage := s.storage, flash := s.flash, intake := s.intake } = s

/-! ## Invariants -/

/-- The real flash is listed in its canonical form. -/
def State.FlashCanonical (s : State) : Prop := Memory.wf s.flash.mem

/-- Both bindings of a set of records are valid tables or absent. -/
def Retained.tablesOk (r : Retained) : Prop :=
  (∀ t, r.tables.a = some t → t.valid = true) ∧ ∀ t, r.tables.b = some t → t.valid = true

/-- A queued write carries valid tables only. -/
def WriteKind.tablesOk : WriteKind → Prop
  | .loadTable t => t.valid = true
  | .commit m table _ => (∀ t, m.table = some t → t.valid = true) ∧ ∀ t, table = some t → t.valid = true
  | _ => True

/-- The manifest whose carried table has passed check 5 (R100). -/
def IntakeWork.tablesOk : IntakeWork → Prop
  | .finishStream m _ => ∀ t, m.table = some t → t.valid = true
  | .readBack m _ _ => ∀ t, m.table = some t → t.valid = true
  | _ => True

/-- Every region table the part holds, retained, on its way to the retained store, or in force, is valid (R5). -/
def State.TablesValid (s : State) : Prop :=
  s.store.working.tablesOk ∧ s.store.nonvolatile.tablesOk ∧ (∀ w, s.store.taken = some w → w.values.tablesOk) ∧
    (∀ w ∈ s.store.queue, w.kind.tablesOk) ∧ s.intake.work.tablesOk ∧
    (∀ m, s.intake.session.manifest = some m → ∀ t, m.table = some t → t.valid = true) ∧
    ∀ k t, s.xlat.inForce = .table k t → t.valid = true

/-- The working copy is what the non-volatile contents are (R187), and a write in progress does not lower the floor, nor
change it unless it is a confirm's group (R111). -/
def State.FloorSound (s : State) : Prop :=
  s.store.working = s.store.nonvolatile ∧
    ∀ w, s.store.taken = some w →
      s.store.working.floor ≤ w.values.floor ∧
        (w.write.kind ≠ .confirm → w.values.floor = s.store.working.floor)

/-- The writes that the restart controller waits for in CHECKING: those of R57 and R58, and those of R60 and R61. -/
def WriteKind.selects : WriteKind → Bool
  | .applyCommit => true
  | .countAttempt => true
  | .revert => true
  | _ => false

/-- The record writes of R60 and R61. -/
def WriteKind.records : WriteKind → Bool
  | .slotPass _ _ _ _ => true
  | .slotReject _ _ => true
  | _ => false

/-- The writes of CHECKING that are queued or taken. -/
def State.checkingWrites (s : State) : List Write :=
  ((s.store.taken.map (·.write)).toList ++ s.store.queue).filter fun w => w.kind.selects || w.kind.records

/-- The restart controller's work fits its phase, and it waits for one write exactly while its work says so (R46, R57 to R63). -/
def State.RestartSound (s : State) : Prop :=
  (∀ w ∈ s.checkingWrites, w.owner = .restart) ∧
    match s.restart.work with
    | .none => s.restart.phase ≠ .checking ∧ s.checkingWrites = []
    | .held _ => s.restart.phase = .held ∧ s.checkingWrites = []
    | .select => s.restart.phase = .checking ∧ ∃ w, s.checkingWrites = [w] ∧ w.kind.selects = true
    | .writeRecord _ => s.restart.phase = .checking ∧ ∃ w, s.checkingWrites = [w] ∧ w.kind.records = true
    | .release _ _ => s.restart.phase ≠ .released ∧ s.checkingWrites = []
    | _ => s.restart.phase = .checking ∧ s.checkingWrites = []

/-- The engine never idles over a queued job (R118). -/
def State.EngineFed (s : State) : Prop := s.crypto.running = none → s.crypto.queue = []

/-- The order of stamps (R136). -/
def Stamp.before (x y : Stamp) : Prop :=
  x.boot < y.boot ∨ x.boot = y.boot ∧ (x.tick < y.tick ∨ x.tick = y.tick ∧ x.seq < y.seq)

/-- The boot count writes that are queued or in progress. -/
def Store.bootWrites (x : Store) : Nat := (x.queue ++ (x.taken.map (·.write)).toList).countP (fun w => w.kind = .bootCount)

/-- The last stamp carries this power cycle's boot count and no later tick; before the boot count write of the cycle has
completed there is none; and there is one such write at most, and none after it (R54, R137). -/
def State.StampSound (s : State) : Prop :=
  (∀ x, s.time.lastStamp = some x →
      s.time.bootCounted = true ∧ x.boot = s.store.working.bootCount ∧ x.tick ≤ s.time.tick) ∧
    s.store.bootWrites ≤ (if s.time.bootCounted then 0 else 1) ∧
    s.store.working = s.store.nonvolatile ∧
    ∀ w, s.store.taken = some w →
      w.values.bootCount =
        if w.write.kind = .bootCount then satInc 0xFFFFFFFF s.store.working.bootCount else s.store.working.bootCount

end Sys2Proof.Machine
end

