-- ==== Sys2Proof/WellFormed.lean ====
section
/-! DEFINITION. Which terms of `Instr` stand for something the outside world can do. `exec` is total all the same: what it
does with an ill-formed term is said where the term's meaning is. -/

namespace Sys2Proof

/-- The command bytes of the eleven commands (section 11.2). -/
def decodedCommandBytes : List Byte := [0x03, 0x0B, 0x6B, 0x06, 0x04, 0x05, 0x9F, 0x02, 0x20, 0xD8, 0xC7]

/-- A byte that is not whole has fewer than its eight clocks (R21, R23). -/
def LinkStep.wf : LinkStep → Bool
  | .select => true
  | .command => true
  | .clock _ => true
  | .release stray => stray < 8
  | .transaction _ stray => stray < 8

/-- A command is well formed: stray clocks make no whole byte, UNKNOWN_COMMAND carries none of the eleven command bytes (R24),
and a background job has no run longer than a block of 4,096 bytes (R42). -/
def Instr.wf : Instr → Bool
  | .read step => step.wf
  | .fastRead step => step.wf
  | .quadOutputFastRead step => step.wf
  | .writeEnable step => step.wf
  | .writeDisable step => step.wf
  | .readStatus step => step.wf
  | .readIdentification step => step.wf
  | .pageProgram step => step.wf
  | .sectorErase step => step.wf
  | .blockErase step => step.wf
  | .chipErase step => step.wf
  | .unknownCommand code step => step.wf && !decodedCommandBytes.contains code
  | .backgroundJobRun count => count ≤ 4096
  | .powerOn _ _ => true
  | .resetNLow => true
  | .lineReset _ => true
  | .restartLine => true
  | .tick _ => true
  | .trialExpiry => true
  | .trialAlertRaise => true
  | .idleTimeout => true
  | .timeout _ => true
  | .requestBusyCapExpiry _ => true
  | .presenceRelease => true
  | .presenceGrantOpen => true
  | .presenceGrantExpiry => true
  | .lockoutExpiry _ => true
  | .realertExpiry => true
  | .pulseEnd => true
  | .stampWaitServe => true
  | .substituteEraseNext _ => true
  | .hostForwardComplete _ => true
  | .capacityHandover _ _ => true
  | .backgroundReadComplete => true
  | .cryptoJobEnd => true
  | .retainedWriteTake => true
  | .retainedWriteComplete => true
  | .heldEnd => true
  | .provisioningClaimGrant => true
  | .identityDrawDone => true
  | .info _ => true
  | .contextReset _ => true
  | .restart _ => true
  | .alertRead _ => true
  | .alertSet _ => true
  | .closeBootWindow _ => true
  | .regionRead _ => true
  | .regionLoad _ => true
  | .watchLoad _ => true
  | .watchRead _ => true
  | .hitsRead _ => true
  | .extend _ => true
  | .measureRead _ => true
  | .quote _ => true
  | .certRead _ => true
  | .updateOpen _ => true
  | .stagingBank _ => true
  | .updateFinish _ => true
  | .updateStatus _ => true
  | .updateCommit _ => true
  | .updateAbort _ => true
  | .bootConfirm _ => true
  | .identityGenerate _ => true
  | .certStore _ => true
  | .keyInject _ => true
  | .keyRead _ => true
  | .derive _ => true
  | .lifecycleAdvance _ => true
  | .timeSet _ => true
  | .timeRead _ => true
  | .credList _ => true
  | .credRead _ => true
  | .credReserve _ => true
  | .credWriteCond _ => true
  | .credCompare _ => true
  | .ownerWipe _ => true
  | .powerLoss => true
  | .rstReqNDeassert => true
  | .ignoringTransactionEnd => true

end Sys2Proof
end

