-- ==== Sys2Proof/Certificates/Slice0/Obligations.lean ====
section
/-! DEFINITION. The statements for the provers. Each says of a command that it answers a next state, and what that state
holds and keeps. -/

open Sys2Proof Sys2Proof.Machine

/-! ## The queue -/

/-- A step takes the command at the front of the queue, runs it with the queue's rest, and leaves that rest waiting (spec/95). -/
def Obligations.StepRunsFrontCommand : Prop :=
  ∀ (c : Instr) (rest : List Instr) (s : State), s.pending = c :: rest →
    step s = exec c { s with pending := rest } ∧ ∀ t, step s = .next t → t.pending = rest

/-! ## Supply, RESET_N and restarts (chapter 3) -/

/-- POWER_ON and LINE_RESET begin a power-on class restart in HELD (R46, R48, R54, R187). The model's choice: a POWER_ON while the
supply is good acts as a loss and a rise of it (log entry 26), which leaves free values where an operation of the real flash was
running, and no other address changed (log entry 5); and the levels of HCS_N and RST_REQ_N at that moment come with the command (log
entry 24). -/
def Obligations.PowerClassRestartBegins : Prop :=
  (∀ (hcs rstReq : Bool) (s : State), s.pins.resetLow = false →
    ∃ t, exec (.powerOn hcs rstReq) s = .next t ∧ PowerClassHeld s t .powerOn hcs ∧ t.pins = ⟨true, false, rstReq⟩ ∧
      InterruptLeaves s.flash t.flash) ∧
  ∀ (hcs : Bool) (s : State), s.pins.supply = true → s.pins.resetLow = true →
    ∃ t, exec (.lineReset hcs) s = .next t ∧ PowerClassHeld s t .lineReset hcs ∧
      t.pins = ⟨true, false, s.pins.rstReq⟩ ∧ t.flash = s.flash

/-- POWER_LOSS and RESET_N low stop the part in every phase: volatile state is thrown away, and a retained write that has not
completed is undone (R47, R48, R187). An operation of the real flash runs on without the part while RESET_N is low (R41). The model's
choice: a loss of the supply leaves free values at the addresses of a running operation, and every other address as it was (log
entry 5). -/
def Obligations.SupplyAndResetStopThePart : Prop :=
  ∀ (i : Instr) (s : State), i = .powerLoss ∨ i = .resetNLow →
    ∃ t, exec i s = .next t ∧ t.running = false ∧ t.restart.phase = .held ∧ t.restart.bootWindow = false ∧
      t.restart.trialDeadline = none ∧ t.time.lastStamp = none ∧ t.watch.trust = .unverified ∧
      t.store.working = s.store.nonvolatile ∧ t.store.nonvolatile = s.store.nonvolatile ∧ t.store.taken = none ∧
      t.store.queue = [] ∧ t.crypto = ⟨none, [], []⟩ ∧ t.storage.forward = none ∧
      t.requests = ⟨⟨Context.reset, Context.reset⟩, none, []⟩ ∧ (i = .resetNLow → t.flash = s.flash) ∧
      (i = .powerLoss → InterruptLeaves s.flash t.flash)

/-- RESTART_LINE, TRIAL_EXPIRY and RESTART put a RELEASED part on hold, each with its cause (R48 to R52, R66). A transaction in
progress is ignored to its end (R25), and its read reported: a hit that has its stamp acts before the watch table and the trust
level go; one that waits keeps them, until STAMP_WAIT_SERVE has handled it (R33, R80). A host forward runs on unreported, without
the erases not yet issued (R19, R41); the intake's work goes, and a session other than COMMIT_PENDING takes its resting values (R45,
R87, R88); the contexts are reset, their queued jobs go and a running one is discarded (R119); WATCH, UPDATE, LOCKOUT and TRUST_DROP
stay pending, and every source is enabled (R184). RST_REQ_N is watched for its edge: a level that stands is no trigger, an edge
outside RELEASED is not remembered, and the deassertion rearms the watch (R48, R49). The model's choices: the entry leaves the write
queue empty, also of a write that a reset frame had left queued (log entry 16); hits of an earlier report that still wait for
stamps delay nothing (log entry 34), and a recognised hit keeps its actions (log entry 20); the clearing of alert sources and the
enabling of all are judged once for the line (log entry 46); a binding that waits for a forward goes on waiting (log entry 47); a job
of the restart controller, which no RELEASED part has, would be left WAITING (log entry 15). -/
def Obligations.PlatformRestartEntersHeld : Prop :=
  (∀ s : State,
    (s.pins.rstReq = true → exec .restartLine s = .next s) ∧
    (s.pins.rstReq = false → s.restart.phase ≠ .released →
      exec .restartLine s = .next { s with pins := { s.pins with rstReq := true } }) ∧
    exec .rstReqNDeassert s = .next { s with pins := { s.pins with rstReq := false } }) ∧
  (∀ s : State, s.running = true → s.restart.phase = .released → s.pins.rstReq = false →
    ∃ t, exec .restartLine s = .next t ∧ EntersHeld s t .restartLine ∧ t.pins = { s.pins with rstReq := true }) ∧
  (∀ (s : State) (d : Nat), s.running = true → s.restart.phase = .released → s.restart.trialDeadline = some d →
    d ≤ s.time.tick → ∃ t, exec .trialExpiry s = .next t ∧ EntersHeld s t .trialExpiry ∧ t.pins = s.pins) ∧
  (∀ (c : Ctx) (tag : Nat) (s : State), Routed s c 0x03 tag [] → s.restart.phase = .released →
    ∃ t, exec (.restart c) s = .next t ∧ EntersHeld s t .restartRequest ∧ t.pins = s.pins) ∧
  ∀ (s : State) (h : PendingHit) (x : Stamp), s.running = true → s.EngineFed → s.watch.holdDeferred = true →
    h.endsHold = true → s.watch.waiting = [h] → s.time.waiting = [.hit] → s.stampsExhausted = false → s.nextStamp = some x →
      ∃ t, exec .stampWaitServe s = .next t ∧ t.time = { s.time with waiting := [], lastStamp := some x } ∧
        t.watch =
          { s.watch with
            table := [], trust := .unverified, hitsSince := 0, waiting := [], holdDeferred := false
            hits := (⟨x, h.start, h.kind, h.region, h.entry⟩ :: s.watch.hits).take 8
            drops := if s.watch.hits.length < 8 then s.watch.drops else satInc 0xFFFF s.watch.drops } ∧
        AlertSteps s.time.tick
          [(0, if h.alert then sourceWatch else 0), (0, if h.degrade ∧ 1 < s.watch.trust.level then sourceTrustDrop else 0)]
          s.alert t.alert ∧
        (s.creds.reservations = ⟨.none, .none⟩ → t.creds = s.creds) ∧
        { t with time := s.time, watch := s.watch, alert := s.alert, creds := s.creds } = s

/-- HELD ends into the release sequence in MANUFACTURE and into CHECKING in FIELD, where first a pending commit is applied, else
an attempt of a TRIAL slot is counted, or the trial reverted, each by one write, else the active slot's manifest sector is read
(R47, R54, R55, R57 to R59, R88). That the background job asked for is still WAITING, to start in a step of its own where R42
starts it on an idle link, is the model's choice (log entry 15). -/
def Obligations.HeldEnds : Prop :=
  ∀ s : State, s.running = true → s.heldDone = true → s.EngineFed →
    ∃ t, exec .heldEnd s = .next t ∧
      (s.store.working.stage = .field → t.restart.phase = .checking) ∧
      (s.store.working.stage = .manufacture → t.restart.phase = .held ∧
        t.restart.work = .release .extend0 .unverified ∧ QueuesJob s t .restart (.extend 0 0) ∧
        t.restart.outcome.trust = .unverified ∧ t.restart.outcome.attemptsLeft = 0) ∧
      (s.store.working.stage = .field → s.store.working.pendingCommit = true →
        t.store.queue = [⟨.restart, .applyCommit, true⟩]) ∧
      (s.store.working.stage = .field → s.store.working.pendingCommit = false →
        (s.store.working.records.get s.store.working.selector).state = .trial →
          t.store.queue = [⟨.restart, if 0 < s.store.working.attempts then .countAttempt else .revert, true⟩]) ∧
      (s.store.working.stage = .field → s.store.working.pendingCommit = false →
        (s.store.working.records.get s.store.working.selector).state ≠ .trial →
          t.store.queue = [] ∧
            t.storage.job =
              some ⟨.restart, s.slotBase s.store.working.selector, 0x1000, s.slotBase s.store.working.selector, [], false⟩) ∧
      t.intake.session.state = (if s.store.working.pendingCommit then .commitPending else .idle) ∧
      t.store.working = s.store.working ∧ t.flash = s.flash ∧ t.watch = s.watch ∧ t.time = s.time

/-- Each digest job of the release sequence writes its register and queues the next job, and the last one releases the part: the
active binding enters force, trust takes its level, the boot window opens, the trial deadline is armed for TRIAL alone, the
lockouts start afresh, the presence hold and the grant end, and a press counts only after the line was found deasserted (R6, R7,
R63, R65, R66, R84, R149, R157). A host forward that was on the real flash when REGION_LOAD stored a table, and that the entry into
HELD overtook, completes before that table enters force (R8, the law of R13): the release waits for it behind its last job, ends
with it, and is not kept by it if it ends earlier. The model's choices: that the wait stands there, and not at the end of HELD (log
entry 47); that a FIELD part without a table for its slot, which the manual says cannot arise, is released with no table in
force (log entry 28); and at the end of that forward, that whether the real flash took its last operation comes with the command (log
entry 25), and that a background job that waits for the link is left WAITING on the idle link and starts by a step of its own (log
entry 15). -/
def Obligations.ReleaseSequenceRuns : Prop :=
  (∀ (s : State) (stage : ReleaseStage) (trust : Trust) (k : JobKind) (d : Digest), s.running = true →
    s.restart.work = .release stage trust → s.crypto.running = some ⟨⟨.restart, k⟩, .digest d, false⟩ →
    s.crypto.deferred = [] → (∀ j ∈ s.crypto.queue, j.requester ≠ .restart) →
      ∃ t, exec .cryptoJobEnd s = .next t ∧
        (∀ next job, (stage, next, job) ∈
            [(ReleaseStage.extend0, ReleaseStage.tableDigest,
                JobKind.digest [] (((s.store.working.tables.get s.store.working.selector).map Table.bytes).getD []) true),
              (.tableDigest, .extend1, .extend 1 d), (.extend1, .outcomeDigest, .digest [] s.restart.outcome.bytes true),
              (.outcomeDigest, .extend2, .extend 2 d)] →
          t.restart = { s.restart with work := .release next trust } ∧ t.crypto.fifo = s.crypto.queue ++ [⟨.restart, job⟩] ∧
            t.watch.registers =
              (match stage with
              | .extend0 => s.watch.registers.set 0 d
              | .extend1 => s.watch.registers.set 1 d
              | _ => s.watch.registers) ∧
            { t.watch with registers := s.watch.registers } = s.watch ∧ t.xlat = s.xlat ∧ t.creds = s.creds) ∧
        (stage = .extend2 →
          t.crypto.fifo = s.crypto.queue ∧
            t.watch = { s.watch with registers := s.watch.registers.set 2 d, trust := t.watch.trust } ∧
            (s.xlat.loadWaits = true → s.storage.forward ≠ none →
              t.restart = { s.restart with work := .release .force trust } ∧ t.watch.trust = s.watch.trust ∧
                t.xlat = s.xlat ∧ t.creds = s.creds) ∧
            (s.xlat.loadWaits = false ∨ s.storage.forward = none → Releases s t trust)) ∧
        { t with
          restart := s.restart, crypto := s.crypto, watch := s.watch, xlat := s.xlat, creds := s.creds, draws := s.draws } = s) ∧
  ∀ (took : Bool) (s : State) (f : HostForward) (op : FlashOp), s.running = true → s.EngineFed →
    s.storage.forward = some f → s.flash.busy = some op → f.ops.length ≤ f.completed + 1 → f.reported = false →
    s.xlat.loadWaits = true → s.restart.phase ≠ .released →
      ∃ t, exec (.hostForwardComplete took) s = .next t ∧ t.storage = { s.storage with forward := none, link := .idle } ∧
        t.flash = ⟨if took then op.apply s.flash.mem else s.flash.mem, none⟩ ∧
        (∀ trust, s.restart.work = .release .force trust → Releases s t trust ∧ t.watch = { s.watch with trust := trust }) ∧
        ((∀ trust, s.restart.work ≠ .release .force trust) →
          t.restart = s.restart ∧ t.watch = s.watch ∧ t.xlat = { s.xlat with loadWaits := false } ∧ t.creds = s.creds) ∧
        { t with
          storage := s.storage, flash := s.flash, restart := s.restart, watch := s.watch, xlat := s.xlat,
          creds := s.creds } = s

/-- The verification of a slot up to its last digest (R59): the manifest's form and its key, then its signature and the image
length, the first that fails rejecting the slot; the first image block is read from check 1 on, each block is taken by one
digest job as soon as the controller's job ahead of it has ended, and the next block is asked for then. That a background job
asked for is WAITING at first is the model's choice (log entry 15). -/
def Obligations.SlotChecksAreTakenInOrder : Prop :=
  (∀ (s : State) (v : Verify) (block : List Byte) (md : Digest) (k : JobKind), JobEnding s .restart k (.digest md) →
    s.restart.work = .manifestDigest v block →
      ∃ t, exec .cryptoJobEnd s = .next t ∧
        (Manifest.parse block = none → RejectsSlot s t v md .manifestFormat) ∧
        ∀ m, Manifest.parse block = some m →
          (s.store.working.updateKeys[m.signer].state ≠ .active → RejectsSlot s t v md .keyUnusable) ∧
          (s.store.working.updateKeys[m.signer].state = .active →
            ∃ p, t.restart = { s.restart with work := .signature v m md p } ∧
              t.crypto.fifo = s.crypto.queue ++
                [⟨.restart, .signatureCheck s.store.working.updateKeys[m.signer].pub m.body m.signature⟩] ∧
              (LengthInRange s m →
                p = ⟨0x1000 + min 4096 m.length, 0x1000 + m.length, none, [], false⟩ ∧
                  t.storage =
                    { s.storage with
                      job := some ⟨.restart, s.slotBase v.slot + 0x1000, min 4096 m.length, s.slotBase v.slot + 0x1000, [],
                        false⟩ }) ∧
              (¬ LengthInRange s m → t.storage = s.storage) ∧
              { t with restart := s.restart, crypto := s.crypto, storage := s.storage, draws := s.draws } = s)) ∧
  (∀ (s : State) (v : Verify) (m : Manifest) (md : Digest) (p : Pipe) (k : JobKind) (ok : Bool),
    JobEnding s .restart k (.valid ok) → s.restart.work = .signature v m md p →
      ∃ t, exec .cryptoJobEnd s = .next t ∧ (ok = false → RejectsSlot s t v md .signature) ∧
        (ok = true → ¬ LengthInRange s m → RejectsSlot s t v md .length) ∧
        (ok = true → LengthInRange s m →
          (p.waiting = none →
            t.restart = { s.restart with work := .image v m md p } ∧ t.crypto.fifo = s.crypto.queue ∧ t.storage = s.storage) ∧
          (∀ block, p.waiting = some block →
            ∃ q job, t.restart = { s.restart with work := .image v m md q } ∧
              t.crypto.fifo = s.crypto.queue ++ [⟨.restart, job⟩] ∧
              TakesBlock t .restart (s.slotBase v.slot) p q block job s.storage.job) ∧
          { t with restart := s.restart, crypto := s.crypto, storage := s.storage, draws := s.draws } = s)) ∧
  (∀ (s : State) (v : Verify) (m : Manifest) (md : Digest) (p : Pipe) (block : List Byte), ReadEnding s .restart block →
    (s.restart.work = .signature v m md p ∨ s.restart.work = .image v m md p ∧ p.jobOut = true →
      ∃ t, exec .backgroundReadComplete s = .next t ∧
        t.restart =
          { s.restart with
            work :=
              match s.restart.work with
              | .image _ _ _ _ => .image v m md { p with waiting := some block }
              | _ => .signature v m md { p with waiting := some block } } ∧
        t.storage = { s.storage with link := .idle, job := none } ∧ t.crypto.fifo = s.crypto.fifo ∧
        { t with restart := s.restart, storage := s.storage, crypto := s.crypto, draws := s.draws } = s) ∧
    (s.restart.work = .image v m md p → p.jobOut = false →
      ∃ t q job, exec .backgroundReadComplete s = .next t ∧ t.restart = { s.restart with work := .image v m md q } ∧
        QueuesJob s t .restart job ∧ TakesBlock t .restart (s.slotBase v.slot) p q block job none ∧
        { t with restart := s.restart, crypto := s.crypto, storage := s.storage, draws := s.draws } = s)) ∧
  ∀ (s : State) (v : Verify) (m : Manifest) (md : Digest) (p : Pipe) (k : JobKind) (bytes : List Byte),
    JobEnding s .restart k (.absorbed bytes) → s.restart.work = .image v m md p →
      ∃ t, exec .cryptoJobEnd s = .next t ∧
        (p.waiting = none →
          t.restart = { s.restart with work := .image v m md { p with absorbed := bytes, jobOut := false } } ∧
            t.crypto.fifo = s.crypto.queue ∧ t.storage = s.storage) ∧
        (∀ block, p.waiting = some block →
          ∃ q job, t.restart = { s.restart with work := .image v m md q } ∧
            t.crypto.fifo = s.crypto.queue ++ [⟨.restart, job⟩] ∧
            TakesBlock t .restart (s.slotBase v.slot) { p with absorbed := bytes, jobOut := false } q block job s.storage.job) ∧
        { t with restart := s.restart, crypto := s.crypto, storage := s.storage, draws := s.draws } = s

/-- The last digest of a slot's verification ends it: the slot is rejected for its digest or for ROLLBACK, or passes, by one
record write. Once a rejection is written, a GOOD other slot is verified, else the part halts under STRICT and is released at
UNVERIFIED without it; once a pass is written, the release begins at TRIAL or VERIFIED (R59 to R62). The halt and both releases
complete the outcome record, with the slot selected, the trust level and the trial attempts left (R63 step 1, R64), and both releases
queue the extension of register 0 with the manifest digest that the restart left in the active slot's record, which is the one just
read where the slot verified is the active one (R63 step 2; in MANUFACTURE, which has no CHECKING, R55 puts zeros and no attempts
there). The second part is about CHECKING, the one phase in which the controller waits for a record write (statement
RestartWorkFitsItsWrites). That the fallback's background job is WAITING at first is the model's choice (log entry 15). -/
def Obligations.SlotVerificationEnds : Prop :=
  (∀ (s : State) (v : Verify) (m : Manifest) (md d : Digest) (p : Pipe) (k : JobKind), s.running = true →
    s.restart.work = .image v m md p → s.crypto.running = some ⟨⟨.restart, k⟩, .digest d, false⟩ → s.crypto.deferred = [] →
      ∃ t, exec .cryptoJobEnd s = .next t ∧ t.crypto.fifo = s.crypto.queue ∧
        t.restart =
          { s.restart with
            work := .writeRecord v
            outcome :=
              { s.restart.outcome with
                results :=
                  s.restart.outcome.results.set v.slot
                    (if d ≠ m.digest then .digest else if m.version < s.store.working.floor then .rollback else .pass) } } ∧
        t.store =
          { s.store with
            queue :=
              s.store.queue ++
                [⟨.restart,
                  if d ≠ m.digest ∨ m.version < s.store.working.floor then .slotReject v.slot md
                  else .slotPass v.slot m.version md v.fallback, true⟩] } ∧
        (d = m.digest → s.store.working.floor ≤ m.version → t.storage = s.storage) ∧
        (∀ j, t.storage.job = some j → d ≠ m.digest ∨ m.version < s.store.working.floor → j.user ≠ .restart) ∧
        { t.storage with job := s.storage.job, link := s.storage.link } = s.storage ∧
        { t with restart := s.restart, crypto := s.crypto, storage := s.storage, store := s.store, draws := s.draws } = s) ∧
  ∀ (s : State) (w : TakenWrite) (v : Verify) (d : Digest) (left : Nat), s.running = true → s.EngineFed →
    s.store.taken = some w → s.restart.work = .writeRecord v → s.restart.phase = .checking →
    (∀ c r, (s.ctx c).request = some r → r.work ≠ .awaitDiscarded) →
    d = (if w.values.stage = .field then (w.values.records.get w.values.selector).digest else 0) →
    left =
      (if w.values.stage = .field ∧ (w.values.records.get w.values.selector).state = .trial then w.values.attempts else 0) →
      ∃ t, exec .retainedWriteComplete s = .next t ∧ t.store = { s.store with
          working := w.values, nonvolatile := w.values, taken := none } ∧
        (∀ k md, w.write.kind = .slotReject k md →
          (∀ r, w.values = (WriteKind.slotReject k md).values r → r.stage = .field → r.selector = k → d = md) ∧
          (v.fallback = false ∧ (w.values.records.get v.slot.other).state = .good →
            t.restart = { s.restart with work := .readManifest ⟨v.slot.other, true⟩ } ∧
              t.storage =
                { s.storage with
                  job := some ⟨.restart, t.slotBase v.slot.other, 0x1000, t.slotBase v.slot.other, [], false⟩ } ∧
              { t with restart := s.restart, storage := s.storage, store := s.store } = s) ∧
          (¬ (v.fallback = false ∧ (w.values.records.get v.slot.other).state = .good) →
            (w.values.strict = true →
              t.restart =
                  { s.restart with
                    phase := .halted .noBootableSlot
                    outcome :=
                      { s.restart.outcome with
                        selected := w.values.selector, attemptsLeft := left, trust := .unverified, halt := .noBootableSlot }
                    presenceHold := 0
                    work := .none } ∧
                { t with restart := s.restart, store := s.store } = s) ∧
            (w.values.strict = false →
              BeginsRelease s t
                { s.restart.outcome with
                  selected := w.values.selector, attemptsLeft := left, trust := .unverified, halt := .none } d))) ∧
        ∀ k n md f, w.write.kind = .slotPass k n md f →
          (∀ r, w.values = (WriteKind.slotPass k n md f).values r → r.stage = .field → f = true ∨ r.selector = k → d = md) ∧
          BeginsRelease s t
            { s.restart.outcome with
              fallback := s.restart.outcome.fallback || v.fallback
              selected := w.values.selector
              attemptsLeft := left
              trust := if v.fallback = false ∧ (w.values.records.get v.slot).state = .trial then .trial else .verified
              halt := .none } d

/-! ## Ticks and deadlines (chapter 7) -/

/-- TICK raises the counter by 1 up to FFFFFFFFFFFFh, where it holds, and each increase counts the presence hold of the restart
controller and of the credential store by their own rules (R65, R128, R129, R157). A deadline does nothing before the counter
reaches it, the trial alert 60,000 ticks before its deadline, and a disarmed one never expires (R109, R130). The model's choice:
at the counter's top, where no tick event comes, the holds stay (log entry 24), and the restart controller's count stops at 10,000
(log entry 13). -/
def Obligations.TicksCountAndDeadlinesWait : Prop :=
  (∀ (p : Bool) (s : State), s.running = true →
     (0xFFFFFFFFFFFF ≤ s.time.tick → exec (.tick p) s = .next s) ∧
     (s.time.tick < 0xFFFFFFFFFFFF →
       ∃ t, exec (.tick p) s = .next t ∧ t.time = { s.time with tick := s.time.tick + 1 } ∧
         { t with time := s.time, restart := s.restart, creds := s.creds } = s ∧
         { t.restart with presenceHold := s.restart.presenceHold } = s.restart ∧
         t.restart.presenceHold =
           (if s.restart.phase = .halted .noBootableSlot then (if p then min 10000 (s.restart.presenceHold + 1) else 0)
           else s.restart.presenceHold) ∧
         { t.creds with hold := s.creds.hold, pressUsed := s.creds.pressUsed, pressArmed := s.creds.pressArmed } = s.creds ∧
         (s.restart.phase ≠ .released → t.creds = s.creds) ∧
         (s.restart.phase = .released → p = false →
           t.creds.hold = 0 ∧ t.creds.pressUsed = false ∧ t.creds.pressArmed = true) ∧
         (s.restart.phase = .released → p = true →
           t.creds.hold = (if s.creds.pressArmed then min 3000 (s.creds.hold + 1) else s.creds.hold) ∧
             t.creds.pressUsed = s.creds.pressUsed ∧ t.creds.pressArmed = s.creds.pressArmed))) ∧
  ∀ (c : Ctx) (k : Fin 32) (s : State),
    ((∀ d, s.restart.trialDeadline = some d → s.time.tick < d) → exec .trialExpiry s = .next s) ∧
    ((∀ d, s.restart.trialDeadline = some d → s.time.tick + 60000 < d) → exec .trialAlertRaise s = .next s) ∧
    ((∀ d, s.intake.session.deadline = some d → s.time.tick < d) → exec .idleTimeout s = .next s) ∧
    ((∀ d, (s.ctx c).deadline = some d → s.time.tick < d) → exec (.timeout c) s = .next s) ∧
    ((∀ d, (s.ctx c).busyCap = some d → s.time.tick < d) → exec (.requestBusyCapExpiry c) s = .next s) ∧
    ((∀ d, s.creds.grant = some d → s.time.tick < d) → exec .presenceGrantExpiry s = .next s) ∧
    ((∀ d, s.creds.lockouts[k] = some d → s.time.tick < d) → exec (.lockoutExpiry k) s = .next s) ∧
    ((∀ d, s.alert.timer = some d → s.time.tick < d) → exec .realertExpiry s = .next s)

/-- Deadlines and counts that have come: the inactivity deadline of a RECEIVING session (R87, R96); the trial alert, the assembly
deadline and the request-busy cap of a context, the presence grant that a press of 3,000 ticks opens and its end, a lockout, whose
end leaves the fail count, and the re-alert timer, which puts an asserted line into PULSE until the tick after it (R109, R149,
R157, R158, R175, R176, R186); the release by the reset button of a part halted for NO_BOOTABLE_SLOT (R65). -/
def Obligations.DueDeadlinesAreTaken : Prop :=
  (∀ (s : State) (d : Nat), s.running = true → s.intake.session.state = .receiving → s.intake.session.deadline = some d →
     d ≤ s.time.tick →
       ∃ t, exec .idleTimeout s = .next t ∧
         t.intake.session =
           { s.intake.session with state := .failed, reason := .idleTimeout, detail := 0, deadline := none } ∧
         DropsIntakeWork s t ∧ AlertChange s t 0 sourceUpdate ∧
         { t with intake := s.intake, crypto := s.crypto, storage := s.storage, alert := s.alert } = s) ∧
  (∀ s : State, s.running = true → s.restart.phase = .halted .noBootableSlot → s.restart.presenceHold = 10000 →
     s.restart.work = .none → s.EngineFed →
       ∃ t, exec .presenceRelease s = .next t ∧ t.restart.work = .release .extend0 .unverified ∧
         QueuesJob s t .restart
           (.extend 0 (if s.store.working.stage = .field then (s.store.working.records.get s.store.working.selector).digest
             else 0)) ∧
         t.restart.outcome.cause = .presenceRelease ∧ t.restart.outcome.results = s.restart.outcome.results ∧
         t.restart.outcome.halt = .noBootableSlot ∧ t.restart.outcome.trust = .unverified ∧
         t.restart.outcome.selected = s.store.working.selector ∧
         { t with restart := s.restart, crypto := s.crypto, draws := s.draws } = s) ∧
  (∀ (s : State) (d : Nat), s.running = true → s.restart.phase = .released → s.restart.trialDeadline = some d →
    d ≤ s.time.tick + 60000 →
      ∃ t, exec .trialAlertRaise s = .next t ∧ AlertChange s t 0 sourceTrial ∧ { t with alert := s.alert } = s) ∧
  (∀ (c : Ctx) (s : State) (d : Nat), s.running = true → (s.ctx c).state = .assembling → (s.ctx c).deadline = some d →
    d ≤ s.time.tick →
      ∃ t, exec (.timeout c) s = .next t ∧
        OnlyAnswers s t c (if (s.ctx c).buffer.length < 2 then 0 else byteAt (s.ctx c).buffer 1)
          (if (s.ctx c).buffer.length < 4 then 0 else numAt (s.ctx c).buffer 2 2) .timeout 0 []) ∧
  (∀ (c : Ctx) (s : State) (d : Nat), s.running = true → (s.ctx c).busyCap = some d → d ≤ s.time.tick →
    ∃ t, exec (.requestBusyCapExpiry c) s = .next t ∧ t.ctx c = { s.ctx c with busyCap := none } ∧
      t.ctx (otherCtx c) = s.ctx (otherCtx c) ∧ t.requests.claim = s.requests.claim ∧
      t.requests.claimQueue = s.requests.claimQueue ∧ { t with requests := s.requests } = s) ∧
  (∀ s : State, s.running = true → s.restart.phase = .released → s.creds.hold = 3000 → s.creds.pressUsed = false →
    ∃ t, exec .presenceGrantOpen s = .next t ∧
      t.creds = { s.creds with grant := some (s.time.tick + 30000), pressUsed := true } ∧
      AlertChange s t 0 sourcePresence ∧ { t with creds := s.creds, alert := s.alert } = s) ∧
  (∀ (s : State) (d : Nat), s.running = true → s.creds.grant = some d → d ≤ s.time.tick →
    ∃ t, exec .presenceGrantExpiry s = .next t ∧ t.creds = { s.creds with grant := none } ∧
      AlertChange s t sourcePresence 0 ∧ { t with creds := s.creds, alert := s.alert } = s) ∧
  (∀ (k : Fin 32) (s : State) (d : Nat), s.running = true → s.creds.lockouts[k] = some d → d ≤ s.time.tick →
    exec (.lockoutExpiry k) s = .next { s with creds := { s.creds with lockouts := s.creds.lockouts.set k none } }) ∧
  (∀ (s : State) (d : Nat), s.running = true → s.alert.line = .asserted → s.alert.timer = some d → d ≤ s.time.tick →
    exec .realertExpiry s =
      .next { s with alert := { s.alert with line := .pulse, timer := none, pulseTick := s.time.tick } }) ∧
  ∀ s : State, s.running = true → s.alert.line = .pulse → s.alert.pulseTick < s.time.tick →
    exec .pulseEnd s =
      .next { s with
        alert :=
          if s.alert.pending &&& s.alert.mask = 0 then { s.alert with line := .released, timer := none }
          else
            { s.alert with
              line := .asserted
              timer := if s.alert.interval = 0 then none else some (s.time.tick + s.alert.interval) } }

/-! ## The upstream link (chapter 2) -/

/-- WRITE ENABLE and WRITE DISABLE, performed after exactly the command byte: with BUSY clear they set the latch and clear
REFUSED, or clear the latch; with BUSY set they change nothing (R23, R26, R27, R30). READ STATUS drives the status byte as often
as the host clocks and changes nothing: BUSY 01h of a host forward or a request-busy, WEL 02h, REFUSED 04h, ALERT 08h of an
asserted line, and 0 in every other bit (R28, R29). A program or erase whose command byte comes while BUSY is set or the latch is
clear is ignored without trace, and so is a command byte that is none of the eleven; a transaction with no decoded command ends in
IDLE (R22, R24 to R26, R30). An abandoned command has no effect: a short address, a program without a whole data byte, an erase or a
program cut within a byte, and anything clocked behind WRITE ENABLE, WRITE DISABLE or CHIP ERASE (R23). -/
def Obligations.LatchStatusAndIgnoredCommands : Prop :=
  (∀ (s : State) (busy : Bool), LinkIdle s →
    (busy = true ↔ s.storage.forward ≠ none ∨ s.requests.ctx.c0.busyCap ≠ none ∨ s.requests.ctx.c1.busyCap ≠ none) →
      (busy = false →
        exec (.writeEnable (.transaction [] 0)) s = .next { s with link := ⟨Decoder.after [], true, false⟩ } ∧
        exec (.writeDisable (.transaction [] 0)) s = .next { s with link := ⟨Decoder.after [], false, s.link.refused⟩ }) ∧
      (busy = true →
        exec (.writeEnable (.transaction [] 0)) s = .next { s with link := { s.link with decoder := Decoder.after [] } } ∧
        exec (.writeDisable (.transaction [] 0)) s = .next { s with link := { s.link with decoder := Decoder.after [] } }) ∧
      ∀ (clocked : List Byte) (stray : Nat),
        exec (.readStatus (.transaction clocked stray)) s =
          .next { s with
            link := { s.link with
              decoder := Decoder.after
                (List.replicate clocked.length
                  (BitVec.ofNat 8
                    ((if busy then 1 else 0) + (if s.link.wel then 2 else 0) + (if s.link.refused then 4 else 0) +
                      (if s.alert.line = .asserted then 8 else 0)))) } }) ∧
  (∀ (bytes : List Byte) (stray : Nat) (s : State), LinkIdle s → s.busy = true ∨ s.link.wel = false →
    ∀ i : Instr,
      i = .pageProgram (.transaction bytes stray) ∨ i = .sectorErase (.transaction bytes stray) ∨
        i = .blockErase (.transaction bytes stray) ∨ i = .chipErase (.transaction bytes stray) →
      exec i s = .next { s with link := { s.link with decoder := Decoder.after [] } }) ∧
  (∀ (bytes : List Byte) (stray : Nat) (s : State) (i : Instr), LinkIdle s →
    (bytes ≠ [] ∨ stray ≠ 0) ∧
        (i = .writeEnable (.transaction bytes stray) ∨ i = .writeDisable (.transaction bytes stray) ∨
          i = .chipErase (.transaction bytes stray)) ∨
      (bytes.length < 3 ∨ stray ≠ 0) ∧
        (i = .sectorErase (.transaction bytes stray) ∨ i = .blockErase (.transaction bytes stray)) ∨
      (bytes.length < 4 ∨ stray ≠ 0) ∧ i = .pageProgram (.transaction bytes stray) ∨
      bytes.length < 3 ∧ s.storage.link ≠ .hostRead ∧
        (i = .read (.transaction bytes stray) ∨ i = .fastRead (.transaction bytes stray) ∨
          i = .quadOutputFastRead (.transaction bytes stray)) →
      exec i s = .next { s with link := { s.link with decoder := Decoder.after [] } }) ∧
  (∀ (code : Byte) (bytes : List Byte) (stray : Nat) (s : State), LinkIdle s → decodedCommandBytes.contains code = false →
    exec (.unknownCommand code (.transaction bytes stray)) s =
      .next { s with link := { s.link with decoder := Decoder.after [] } }) ∧
  ∀ s : State, s.running = true → s.link.decoder.undecoded = true →
    s.link.decoder.state = .ignoring ∨ s.link.decoder.state = .opcode →
      exec .ignoringTransactionEnd s =
        .next { s with link := { s.link with decoder := Decoder.after s.link.decoder.out } }

/-- READ IDENTIFICATION gives D7h, 2Ch, 18h and then 00h for every further byte, in every state, and changes nothing (R31). -/
def Obligations.ReadIdentificationIsFixed : Prop :=
  ∀ (clocked : List Byte) (stray : Nat) (s : State), LinkIdle s →
    exec (.readIdentification (.transaction clocked stray)) s =
      .next { s with
        link := { s.link with
          decoder := Decoder.after (([0xD7, 0x2C, 0x18] ++ List.replicate clocked.length 0x00).take clocked.length) } }

/-- The three reads return, byte after byte from the address on, each byte translated afresh, and leave the real flash, the
latch, the contexts and the retained records alone; FAST READ and QUAD OUTPUT FAST READ differ by the dummy slot. A byte comes
from the aperture: of a response page the header and body of NONE, PENDING or READY and FFh beyond, of a request page FFh (R179,
R181); from fill, as for a granule that the table leaves uncovered; or from the real flash, with fill in its place while a host
forward is in progress (R12, R14, R22, R30, R32). The first byte is translated with the last bit of its address, and
its data slot drives it whatever has changed meanwhile (R11; that it is served then, also where no data byte follows, is log entry
33). A read that translates the first byte of a READY response clears its
RESPONSE source (R179), one that translates a byte to be fetched from the real flash suspends a background job (R39, R43), which
waits on the idle link for a step of its own after the read (the model's choice, log entry 15), and one that touches a watched range gives one hit with the region of the first byte in it, stamped and recorded (R76, R79, R81). -/
def Obligations.ReadsReturnTranslatedBytes : Prop :=
  (∀ (a : Nat) (dummy : Byte) (clocked : List Byte) (stray : Nat) (s : State), LinkIdle s → a < 0x1000000 →
    ∀ i : Instr,
      i = .read (.transaction (addressBytes a ++ clocked) stray) ∨
        i = .fastRead (.transaction (addressBytes a ++ dummy :: clocked) stray) ∨
        i = .quadOutputFastRead (.transaction (addressBytes a ++ dummy :: clocked) stray) →
      ∃ t, exec i s = .next t ∧
        t.link = { s.link with
          decoder := Decoder.after ((List.range clocked.length).map fun n =>
            s.readByte (s.translateRead ((a + n) % 0x1000000))) } ∧
        t.flash = s.flash ∧ t.requests = s.requests ∧ t.store = s.store ∧ t.xlat = s.xlat ∧ t.intake = s.intake ∧
        t.crypto = s.crypto ∧ t.restart = s.restart ∧ t.time.tick = s.time.tick ∧ t.time.wall = s.time.wall ∧
        t.storage.forward = s.storage.forward ∧ t.watch.registers = s.watch.registers ∧ t.watch.altered = s.watch.altered ∧
        (s.watch.holdDeferred = false → t.watch.table = s.watch.table) ∧
        (∀ first : Ctx → Bool,
          (∀ c, first c = true ↔ (s.ctx c).response.isReady = true ∧
            ∃ n, n < max 1 clocked.length ∧ (a + n) % 0x1000000 = (match c with | .c0 => 0xFFD000 | .c1 => 0xFFF000)) →
          s.watch.table = [] → s.watch.waiting = [] →
            t.watch = s.watch ∧ t.time = s.time ∧ t.creds = s.creds ∧
              AlertChange s t
                ((if first .c0 then responseSource .c0 else 0) ||| (if first .c1 then responseSource .c1 else 0)) 0) ∧
        (∀ fetched : Bool,
          (fetched = true ↔ s.storage.forward = none ∧
            ∃ n p, n < max 1 clocked.length ∧ (s.translateRead ((a + n) % 0x1000000)).verdict = .forward p) →
          s.storage.link ≠ .hostRead →
            t.storage =
              if fetched then
                { s.storage with
                  link := .idle, readAt := none, job := s.storage.job.map fun j => { j with running := false } }
              else s.storage) ∧
        (clocked = [] → t.watch = s.watch ∧ t.time = s.time ∧ t.creds = s.creds) ∧
        ∀ (w : WatchEntry) (x : Stamp) (n : Nat), s.watch.table = [w] → s.watch.holdDeferred = false → StampFree s x →
          w.onRead = true → w.alert = false → w.degrade = false → n < clocked.length →
          w.inRange ((a + n) % 0x1000000 / 0x1000) = true →
          (∀ m, m < n → w.inRange ((a + m) % 0x1000000 / 0x1000) = false) →
            t.watch =
                { s.watch with
                  hits := (⟨x, a, .read, (s.translateRead ((a + n) % 0x1000000)).region, some 0⟩ :: s.watch.hits).take 8
                  drops := if s.watch.hits.length < 8 then s.watch.drops else satInc 0xFFFF s.watch.drops
                  hitsSince := satInc 0xFFFFFFFF s.watch.hitsSince } ∧
              t.time = { s.time with lastStamp := some x }) ∧
  (∀ (row : LinkStep → Instr) (cmd : LinkCmd) (next : DecoderState) (a : Nat) (s : State),
    (row, cmd, next) ∈ [(Instr.read, LinkCmd.read, DecoderState.dataOut), (.fastRead, .fastRead, .dummy),
      (.quadOutputFastRead, .quadRead, .dummy)] → s.running = true → s.link.decoder.cmd = some cmd →
      (∀ (pre : List Byte) (last : Byte), a < 0x1000000 → addressBytes a = pre ++ [last] →
        s.link.decoder.state = .address → s.link.decoder.addrBytes = pre →
          ∃ t, exec (row (.clock [last])) s = .next t ∧
            t.link = { s.link with
              decoder := { s.link.decoder with
                addrBytes := addressBytes a, addr := a, start := a, state := next
                ahead := some (s.readByte (s.translateRead a), (s.translateRead a).region) } } ∧
            { t with link := s.link, storage := s.storage, alert := s.alert } = s) ∧
      ∀ (value slot : Byte) (region : Option Nat), s.link.decoder.state = .dataOut →
        s.link.decoder.ahead = some (value, region) →
          exec (row (.clock [slot])) s =
            .next { s with
              link := { s.link with
                decoder := { s.link.decoder with
                  addr := (s.link.decoder.addr + 1) % 0x1000000
                  ahead := none
                  count := s.link.decoder.count + 1
                  returned := s.link.decoder.returned ++ [(s.link.decoder.addr, region)]
                  out := s.link.decoder.out ++ [value] } } }) ∧
  ∀ (s : State) (l : Nat),
    (∀ (c : Ctx) (off : Nat), off < 0x1000 →
      (l = (match c with | .c0 => 0xFFC000 | .c1 => 0xFFE000) + off → s.readByte (s.translateRead l) = 0xFF) ∧
      (l = (match c with | .c0 => 0xFFD000 | .c1 => 0xFFF000) + off →
        ((s.ctx c).response = .none →
          s.readByte (s.translateRead l) = ([0x6A, 0x00, 0, 0, 0, 0, 0, 0] : List Byte).getD off 0xFF) ∧
        (∀ tag code, (s.ctx c).response = .pending tag code →
          s.readByte (s.translateRead l) =
            ([0x6A, 0x01] ++ le 2 tag ++ [0, 0, BitVec.ofNat 8 code, 0] : List Byte).getD off 0xFF) ∧
        ∀ tag code st detail body, (s.ctx c).response = .ready tag code st detail body →
          s.readByte (s.translateRead l) =
            ([0x6A, st.code] ++ le 2 tag ++ le 2 body.length ++ [BitVec.ofNat 8 code, BitVec.ofNat 8 detail] ++
              body).getD off 0xFF)) ∧
    ([Status.none, .pending, .ok, .framing, .timeout, .unknownRequest, .badLength, .badParameter, .wrongLifecycle, .trustTooLow,
        .bootWindowClosed, .notOwner, .sessionState, .trialActive, .reservationLost, .lockedOut, .mismatch, .expired,
        .timeUnknown, .emptySlot, .wrongClass, .presenceRequired, .noIdentity, .exhausted, .confirmDenied].map Status.code =
      [0, 1, 2, 3, 4, 5, 6, 7, 8, 9, 10, 11, 12, 13, 15, 16, 17, 18, 19, 20, 21, 22, 23, 24, 26]) ∧
    (l < 0xFFC000 → s.xlat.inForce = .none → s.readByte (s.translateRead l) = 0xFF) ∧
    (l < 0xFFC000 → s.xlat.inForce = .identity →
      s.readByte (s.translateRead l) = if s.storage.forward.isSome then 0xFF else Memory.read s.flash.mem l) ∧
    (∀ (m : Slot) (u : Table), l < 0xFFC000 → s.xlat.inForce = .table m u →
      (∀ d ∈ u.descriptors, d.covers (l / 0x1000) = false) → s.readByte (s.translateRead l) = 0xFF) ∧
    ∀ (m : Slot) (u : Table) (d : Descriptor) (k : Kind) (p : Nat), l < 0xFFC000 → s.xlat.inForce = .table m u →
      u.descriptors.find? (fun d => d.covers (l / 0x1000)) = some d → d.kind? = some k →
      physical u s.store.working.selector s.intake.session.bank d k (l - d.base * 0x1000) = p → p < 0x2000000 →
        s.readByte (s.translateRead l) =
          if k = .hidden ∨ d.windowOnly = true ∧ s.restart.bootWindow = false ∨ s.storage.forward.isSome = true then 0xFF
          else Memory.read s.flash.mem p

/-- A page program, sector erase or block erase that the policy refuses, with or without bytes behind an erase's address, and every
chip erase (R18, R24, R27, R34, R35, R78). The policy (R13, R92) of an address under the map in force: the aperture; uncovered space,
IMAGE, LOCKED and HIDDEN refuse; DATA goes to its place in the fixed area from its minimum trust level on; STAGING goes into the
inactive slot area in a RECEIVING session alone, a program not into a STALE sector; the identity map forwards everything. -/
def Obligations.RefusedProgramsAndErases : Prop :=
  (∀ (s : State) (program : Bool) (l : Nat) (r : Record), s.translateWrite program l = r →
    (0xFFC000 ≤ l → r.verdict = .aperture ((l - 0xFFC000) / 0x1000) (l % 0x1000)) ∧
    (l < 0xFFC000 →
      (s.xlat.inForce = .none → r.verdict = .refuse ∧ r.region = none) ∧
      (s.xlat.inForce = .identity → r.verdict = .forward l ∧ r.region = none) ∧
      ∀ (m : Slot) (u : Table), s.xlat.inForce = .table m u →
        ((∀ d ∈ u.descriptors, d.covers (l / 0x1000) = false) → r.verdict = .refuse ∧ r.region = none) ∧
        ∀ (d : Descriptor) (k : Kind) (o : Nat), u.descriptors.find? (fun d => d.covers (l / 0x1000)) = some d →
          d.kind? = some k → o = l - d.base * 0x1000 →
            (k = .image ∨ k = .locked ∨ k = .hidden → r.verdict = .refuse ∧ r.region = some d.index ∧ r.kind = some k) ∧
            (k = .data → d.offset + o < 0x2000000 →
              r.region = some d.index ∧ r.kind = some .data ∧
                r.verdict = if d.writeMin ≤ s.watch.trust.level then .forward (d.offset + o) else .refuse) ∧
            ∀ (at_ p : Nat), k = .staging → at_ = s.intake.session.bank + o →
              p = (match s.store.working.selector with | .a => u.baseB | .b => u.baseA) + at_ → p < 0x2000000 →
                r.region = some d.index ∧ r.kind = some .staging ∧ r.stagingAt = at_ ∧
                  r.verdict =
                    if s.intake.session.state ≠ .receiving ∨
                        program = true ∧ s.intake.tracker.getD (at_ / 0x1000) .stale = .stale then .refuse
                    else .forward p)) ∧
  ∀ (a : Nat) (s : State) (x : Stamp) (more : List Byte), WriteReady s → StampFree s x → a < 0x1000000 →
    (∀ (data : List Byte) (r : Record), data ≠ [] → s.translateWrite true (a - a % 0x100) = r → r.verdict = .refuse →
      ∃ t, exec (.pageProgram (.transaction (addressBytes a ++ data) 0)) s = .next t ∧ Refuses s t x a .program r.region ∧
        t.intake.session.refusedPrograms =
          (if r.kind = some .staging then satInc 0xFFFF s.intake.session.refusedPrograms
          else s.intake.session.refusedPrograms)) ∧
    (∀ r : Record, s.translateWrite false (a / 0x1000 * 0x1000) = r → r.verdict = .refuse →
      ∃ t, exec (.sectorErase (.transaction (addressBytes a ++ more) 0)) s = .next t ∧
        Refuses s t x (a / 0x1000 * 0x1000) .erase r.region ∧ t.intake = s.intake) ∧
    (∀ g r, (s.blockRecords (a / 0x10000)).find? (fun y => y.2.phys?.isNone) = some (g, r) →
      ∃ t, exec (.blockErase (.transaction (addressBytes a ++ more) 0)) s = .next t ∧
        Refuses s t x (a / 0x10000 * 0x10000) .erase r.region ∧ t.intake = s.intake) ∧
    ∃ t, exec (.chipErase (.transaction [] 0)) s = .next t ∧ Refuses s t x 0 .erase none ∧ t.intake = s.intake

/-- A forwarded page program (R15, R26, R34, R40): WEL clears, BUSY is held by the forward, the last 256 bytes clocked go to their
places in the page, wrapping there, and no byte of the real flash has changed yet. A forwarded sector erase or block erase, also
with bytes behind its address (R17 to R19, R23, R35, R40): one physical sector erase, one physical block erase where the 16 addresses
are aligned and consecutive, or 16 sector erases. The forward keeps what its completion reports: the start, the granules with their
regions, and of STAGING the runs or the sectors; it renews the inactivity deadline if it is STAGING (R92, R96), and suspends a
background job that runs (R44). -/
def Obligations.ForwardsStart : Prop :=
  (∀ (a : Nat) (data kept : List Byte) (off : Nat) (s : State) (p : Nat) (r : Record) (f : HostForward), WriteReady s →
     a < 0x1000000 → data ≠ [] → kept = data.drop (data.length - 256) →
     off = (if data.length ≤ 256 then a % 0x100 else (a + data.length) % 0x100) →
     s.translateWrite true (a - a % 0x100) = r → r.verdict = .forward p →
     f =
       ⟨.program, a, [.program ((List.range kept.length).zipWith (fun i b => (p + (off + i) % 0x100, b)) kept)], 0,
         [(a / 0x1000, r.region)],
         if r.kind = some .staging then
           some (.program
             (if off + kept.length ≤ 0x100 then [(r.stagingAt + off, kept)]
             else [(r.stagingAt + off, kept.take (0x100 - off)), (r.stagingAt, kept.drop (0x100 - off))]))
         else none, true⟩ →
       ∃ t, exec (.pageProgram (.transaction (addressBytes a ++ data) 0)) s = .next t ∧
         StartsForward s t f (r.kind = some .staging)) ∧
  ∀ (a : Nat) (s : State) (more : List Byte), WriteReady s → a < 0x1000000 →
    (∀ (p : Nat) (r : Record), s.translateWrite false (a / 0x1000 * 0x1000) = r → r.verdict = .forward p →
      ∃ t, exec (.sectorErase (.transaction (addressBytes a ++ more) 0)) s = .next t ∧
        StartsForward s t
          ⟨.erase, a / 0x1000 * 0x1000, [.eraseSector p], 0, [(a / 0x1000, r.region)],
            if r.kind = some .staging then some (.erase [r.stagingAt / 0x1000]) else none, true⟩
          (r.kind = some .staging)) ∧
    ∀ (ps : List Nat) (rs : List (Nat × Record)) (sectors : List Nat),
      rs = (List.range 16).map (fun i =>
        (16 * (a / 0x10000) + i, s.translateWrite false ((16 * (a / 0x10000) + i) * 0x1000))) →
      rs.map (fun y => y.2.verdict) = ps.map .forward →
      sectors = rs.filterMap (fun y => if y.2.kind = some .staging then some (y.2.stagingAt / 0x1000) else none) →
        ∃ t, exec (.blockErase (.transaction (addressBytes a ++ more) 0)) s = .next t ∧
          StartsForward s t
            ⟨.erase, a / 0x10000 * 0x10000,
              if ps.headD 0 % 0x10000 = 0 ∧ ps = (List.range 16).map (fun i => ps.headD 0 + i * 0x1000) then
                [.eraseBlock (ps.headD 0)]
              else ps.map .eraseSector,
              0, rs.map (fun y => (y.1, y.2.region)), if sectors = [] then none else some (.erase sectors), true⟩
            (sectors ≠ [])

/-- A program into a request page whose bytes all lie in one run: at offset 0 it begins a frame, at the fill offset it goes on with
it, and at any other offset it is answered FRAMING 01h. Eight bytes make a header, whose first failed check is answered FRAMING; a
whole frame is taken, EXECUTING, PENDING and request-busy with a cap of 50 ticks, or, of an unlisted code, answered
UNKNOWN_REQUEST; else the assembly deadline is armed afresh. An EXECUTING context and a response page refuse the delivery with one
report. The second run of a program that wraps in the first page, after a first run that takes a frame, is refused, also after a
frame of an unlisted code; but one that is itself a reset frame is taken, with the first run's frame discarded: the model's choice,
by the table of R173 and by R178, against the prose of R173 (log entry 48). A sector erase of an aperture page discards a partial
frame or clears a READY response, and is no refusal (R16, R20, R34, R172 to R178, R180). -/
def Obligations.FramesAreTakenAndPagesErased : Prop :=
  (∀ (c : Ctx) (base off : Nat) (data : List Byte) (s : State), WriteReady s →
     base = (match c with | .c0 => 0xFFC000 | .c1 => 0xFFE000) → off < 0x1000 → data ≠ [] → data.length ≤ 256 →
     (off % 0x100 + data.length ≤ 0x100 →
       (∀ buffer, buffer = (if off = 0 then data else (s.ctx c).buffer ++ data) →
         (off = 0 ∧ (s.ctx c).state ≠ .executing ∨ 0 < off ∧ (s.ctx c).state = .assembling ∧ off = (s.ctx c).buffer.length) →
         ∃ t, exec (.pageProgram (.transaction (addressBytes (base + off) ++ data) 0)) s = .next t ∧
           t.link = ⟨Decoder.after [], false, s.link.refused⟩ ∧ t.ctx (otherCtx c) = s.ctx (otherCtx c) ∧
           t.requests.claim = s.requests.claim ∧ t.requests.claimQueue = s.requests.claimQueue ∧
           { t with link := s.link, requests := s.requests, alert := s.alert } = s ∧
           (buffer.length < 8 ∨ headerFailure buffer = none ∧ buffer.length < 8 + headerLength buffer →
             t.ctx c = { s.ctx c with state := .assembling, buffer := buffer, deadline := some (s.time.tick + 1000) } ∧
               t.alert = s.alert) ∧
           (∀ detail, 8 ≤ buffer.length → headerFailure buffer = some detail →
             Answers s t c (byteAt buffer 1) (numAt buffer 2 2) .framing detail [] ∧
               AlertChange s t 0 (responseSource c)) ∧
           (∀ n, n = 8 + headerLength buffer → 8 ≤ buffer.length → headerFailure buffer = none → n ≤ buffer.length →
             (requestCodes.contains (byteAt buffer 1) = true →
               t.ctx c =
                   ⟨.executing, buffer.take n, none, some (s.time.tick + 50),
                     some ⟨byteAt buffer 1, numAt buffer 2 2, (buffer.take n).drop 8, .routed⟩,
                     .pending (numAt buffer 2 2) (byteAt buffer 1), .none⟩ ∧
                 AlertChange s t (responseSource c) 0 ∧ t.busy = true) ∧
             (requestCodes.contains (byteAt buffer 1) = false →
               Answers s t c (byteAt buffer 1) (numAt buffer 2 2) .unknownRequest 0 [] ∧
                 AlertChange s t (responseSource c) (responseSource c)))) ∧
       (0 < off → ((s.ctx c).state = .idle ∨ (s.ctx c).state = .assembling ∧ off ≠ (s.ctx c).buffer.length) →
         ∀ received, received = (if (s.ctx c).state = .idle then [] else (s.ctx c).buffer) →
         ∃ t, exec (.pageProgram (.transaction (addressBytes (base + off) ++ data) 0)) s = .next t ∧
           t.link = ⟨Decoder.after [], false, s.link.refused⟩ ∧
           Answers s t c (if received.length < 2 then 0 else byteAt received 1)
             (if received.length < 4 then 0 else numAt received 2 2) .framing 0x01 [] ∧
           AlertChange s t 0 (responseSource c) ∧ { t with link := s.link, requests := s.requests, alert := s.alert } = s) ∧
       (∀ x, StampFree s x → (s.ctx c).state = .executing → ¬ (off = 0 ∧ isResetFrame data = true) →
         ∃ t, exec (.pageProgram (.transaction (addressBytes (base + off) ++ data) 0)) s = .next t ∧
           Refuses s t x (base + off) .program none ∧ t.intake = s.intake) ∧
       ∀ x, StampFree s x →
         ∃ t, exec (.pageProgram (.transaction (addressBytes (base + 0x1000 + off) ++ data) 0)) s = .next t ∧
           Refuses s t x (base + 0x1000 + off) .program none ∧ t.intake = s.intake) ∧
     ∀ (x : Stamp) (buffer : List Byte), StampFree s x → off < 0x100 → 0x100 < off + data.length →
       (s.ctx c).state = .assembling → off = (s.ctx c).buffer.length →
       buffer = (s.ctx c).buffer ++ data.take (0x100 - off) → 8 ≤ buffer.length → headerFailure buffer = none →
       8 + headerLength buffer ≤ buffer.length → isResetFrame (data.drop (0x100 - off)) = false →
         ∃ t, exec (.pageProgram (.transaction (addressBytes (base + off) ++ data) 0)) s = .next t ∧
           t.link = ⟨Decoder.after [], false, true⟩ ∧ t.ctx (otherCtx c) = s.ctx (otherCtx c) ∧
           t.watch.hits = (⟨x, base + off, .program, none, none⟩ :: s.watch.hits).take 8 ∧
           t.time = { s.time with lastStamp := some x } ∧
           (requestCodes.contains (byteAt buffer 1) = true →
             (t.ctx c).state = .executing ∧ (t.ctx c).response = .pending (numAt buffer 2 2) (byteAt buffer 1) ∧
               AlertChange s t (responseSource c) 0) ∧
           (requestCodes.contains (byteAt buffer 1) = false →
             Answers s t c (byteAt buffer 1) (numAt buffer 2 2) .unknownRequest 0 [] ∧
               AlertChange s t (responseSource c) (responseSource c)) ∧
           { t with link := s.link, requests := s.requests, alert := s.alert, watch := s.watch, time := s.time } = s) ∧
  (∀ (c : Ctx) (base off tag : Nat) (data buffer second : List Byte) (s : State), WriteReady s →
     base = (match c with | .c0 => 0xFFC000 | .c1 => 0xFFE000) → data.length ≤ 256 → off < 0x100 →
     second = data.drop (0x100 - off) → (s.ctx c).state = .assembling → off = (s.ctx c).buffer.length →
     buffer = (s.ctx c).buffer ++ data.take (0x100 - off) → 8 ≤ buffer.length → headerFailure buffer = none →
     8 + headerLength buffer ≤ buffer.length → isResetFrame second = true → tag = numAt second 2 2 →
       ∃ t, exec (.pageProgram (.transaction (addressBytes (base + off) ++ data) 0)) s = .next t ∧
         t.link = ⟨Decoder.after [], false, s.link.refused⟩ ∧
         t.ctx c =
           ⟨.executing, second.take 8, none, some (s.time.tick + 50), some ⟨0x02, tag, [], .routed⟩, .pending tag 0x02, .none⟩ ∧
         t.ctx (otherCtx c) = s.ctx (otherCtx c) ∧ AlertChange s t (responseSource c) 0 ∧
         { t with
           link := s.link, requests := s.requests, alert := s.alert, time := s.time, crypto := s.crypto, store := s.store,
           intake := s.intake } = s) ∧
  ∀ (c : Ctx) (s : State), WriteReady s →
    ((s.ctx c).state = .assembling →
      ∃ t, exec (.sectorErase (.transaction (addressBytes (if c = .c0 then 0xFFC000 else 0xFFE000)) 0)) s = .next t ∧
        t.ctx c = { s.ctx c with state := .idle, buffer := [], deadline := none } ∧
        t.ctx (otherCtx c) = s.ctx (otherCtx c) ∧ t.link = ⟨Decoder.after [], false, s.link.refused⟩ ∧
        t.requests.claim = s.requests.claim ∧ t.requests.claimQueue = s.requests.claimQueue ∧
        { t with link := s.link, requests := s.requests } = s) ∧
    ((s.ctx c).response.isReady = true →
      ∃ t, exec (.sectorErase (.transaction (addressBytes (if c = .c0 then 0xFFD000 else 0xFFF000)) 0)) s = .next t ∧
        t.ctx c = { s.ctx c with response := .none } ∧ t.ctx (otherCtx c) = s.ctx (otherCtx c) ∧
        t.link = ⟨Decoder.after [], false, s.link.refused⟩ ∧ AlertChange s t (responseSource c) 0 ∧
        t.requests.claim = s.requests.claim ∧ t.requests.claimQueue = s.requests.claimQueue ∧
        { t with link := s.link, requests := s.requests, alert := s.alert } = s)

/-- A reset frame delivered to an EXECUTING context discards the executing request without a response, and is taken as a
CONTEXT_RESET: the request's stamp request and queued crypto job go, its running job's result is discarded, its queued write is
withdrawn unless it is one of UPDATE_OPEN, UPDATE_COMMIT, UPDATE_ABORT and BOOT_CONFIRM, its open claim clears, and its provisioning
claim clears unless its write has started, of this discard or of one before it (R122, R140, R168, R173, R174, R178). -/
def Obligations.ResetFramesDiscardTheRequest : Prop :=
  ∀ (c : Ctx) (lo hi : Byte) (more : List Byte) (s : State), WriteReady s → (s.ctx c).state = .executing → more.length ≤ 248 →
    ∃ t, exec (.pageProgram
        (.transaction
          (addressBytes (match c with | .c0 => 0xFFC000 | .c1 => 0xFFE000) ++ ([0x6A, 0x02, lo, hi, 0, 0, 0, 0] ++ more)) 0)) s =
          .next t ∧
      t.link = ⟨Decoder.after [], false, s.link.refused⟩ ∧
      t.ctx c =
        ⟨.executing, [0x6A, 0x02, lo, hi, 0, 0, 0, 0], none, some (s.time.tick + 50),
          some ⟨0x02, lo.toNat + 256 * hi.toNat, [], .routed⟩, .pending (lo.toNat + 256 * hi.toNat) 0x02, .none⟩ ∧
      t.ctx (otherCtx c) = s.ctx (otherCtx c) ∧ AlertChange s t (responseSource c) 0 ∧
      t.requests.claimQueue = s.requests.claimQueue.filter (· ≠ c) ∧
      (∀ started : Bool,
        (started = true ↔ ∃ w, s.store.taken = some w ∧ w.write.owner = .ctx c ∧ w.write.kind.provisioning = true) →
          t.requests.claim = if s.requests.claim = some c ∧ started = false then none else s.requests.claim) ∧
      t.time = { s.time with waiting := s.time.waiting.filter (· ≠ .quote c) } ∧
      t.crypto =
        ⟨s.crypto.running.map fun j => if j.job.requester = .ctx c then { j with discarded := true } else j,
          s.crypto.queue.filter fun j => j.requester ≠ .ctx c, s.crypto.deferred.filter fun j => j.requester ≠ .ctx c⟩ ∧
      t.store =
        { s.store with
          queue := s.store.queue.filterMap fun w =>
            if w.owner = .ctx c ∧ w.live = true then
              match w.kind with
              | .openSession _ => some { w with live := false }
              | .commit _ _ _ => some { w with live := false }
              | .clearPending => some { w with live := false }
              | .confirm => some { w with live := false }
              | _ => none
            else some w
          taken := s.store.taken.map fun w =>
            if w.write.owner = .ctx c ∧ w.write.live = true then { w with write := { w.write with live := false } } else w } ∧
      (∀ n, s.intake.session.claim = some n →
        (⟨.ctx c, .openSession n, true⟩ ∈ (s.store.taken.map (·.write)).toList ++ s.store.queue →
          t.intake = { s.intake with session := { s.intake.session with claim := none } }) ∧
        (⟨.ctx c, .openSession n, true⟩ ∉ (s.store.taken.map (·.write)).toList ++ s.store.queue → t.intake = s.intake)) ∧
      (s.intake.session.claim = none → t.intake = s.intake) ∧
      { t with
        link := s.link, requests := s.requests, alert := s.alert, time := s.time, crypto := s.crypto, store := s.store,
        intake := s.intake } = s

/-- A transaction sent in parts is the same transaction: the select, the command byte, the byte slots in two portions and the
release of HCS_N leave what the whole one leaves, for every command byte (R21, R23). -/
def Obligations.TransactionsAreTheirParts : Prop :=
  ∀ (row : LinkStep → Instr) (code : Byte) (xs ys : List Byte) (stray : Nat) (s : State), LinkIdle s →
    row ∈ [Instr.read, .fastRead, .quadOutputFastRead, .writeEnable, .writeDisable, .readStatus, .readIdentification,
      .pageProgram, .sectorErase, .blockErase, .chipErase, .unknownCommand code] →
    ∃ a b c d, exec (row .select) s = .next a ∧ exec (row .command) a = .next b ∧ exec (row (.clock xs)) b = .next c ∧
      exec (row (.clock ys)) c = .next d ∧ exec (row (.release stray)) d = exec (row (.transaction (xs ++ ys) stray)) s

/-! ## Requests: the length of their bodies (chapters 3 to 11) -/

/-- A request whose body must be empty, or must have between `lo` and `hi` bytes, answers BAD_LENGTH to any other and does nothing
else; each request's own rule gives its length (ALERT_READ R185, OWNER_WIPE R159, QUOTE R161, and the rules cited for the rest). -/
def Obligations.RequestsCheckTheirLength : Prop :=
  (∀ (c : Ctx) (code tag : Nat) (body : List Byte) (i : Instr) (s : State),
     (code, i) ∈ [(0x01, Instr.info c), (0x02, .contextReset c), (0x03, .restart c), (0x04, .alertRead c),
       (0x06, .closeBootWindow c), (0x13, .watchRead c), (0x23, .certRead c), (0x32, .updateFinish c),
       (0x33, .updateStatus c), (0x35, .updateAbort c), (0x36, .bootConfirm c), (0x43, .keyRead c), (0x51, .timeRead c),
       (0x60, .credList c), (0x65, .ownerWipe c)] →
     Routed s c code tag body → body ≠ [] →
       ∃ t, exec i s = .next t ∧ OnlyAnswers s t c code tag .badLength 0 []) ∧
  ∀ (c : Ctx) (code lo hi tag : Nat) (body : List Byte) (i : Instr) (s : State),
    (code, lo, hi, i) ∈ [(0x05, 3, 3, Instr.alertSet c), (0x10, 1, 1, .regionRead c), (0x14, 1, 1, .hitsRead c),
      (0x20, 33, 33, .extend c), (0x21, 1, 1, .measureRead c), (0x22, 1, 65, .quote c), (0x31, 4, 4, .stagingBank c),
      (0x34, 1, 1, .updateCommit c), (0x44, 1, 32, .derive c), (0x50, 8, 8, .timeSet c), (0x61, 1, 1, .credRead c),
      (0x62, 2, 2, .credReserve c), (0x64, 1, 193, .credCompare c)] →
    Routed s c code tag body → body.length < lo ∨ hi < body.length →
      ∃ t, exec i s = .next t ∧ OnlyAnswers s t c code tag .badLength 0 []

/-! ## Reports -/

/-- INFO reports the part's standing in 17 bytes, and nothing else happens (R183). -/
def Obligations.InfoReportsTheStanding : Prop :=
  ∀ (c : Ctx) (tag : Nat) (body : List Byte) (s : State), Routed s c 0x01 tag body →
    ∃ t report, exec (.info c) s = .next t ∧ report.length = 17 ∧
      report =
        [match s.store.working.stage with
          | .manufacture => (0x00 : Byte)
          | .field => if s.store.working.strict then 0x02 else 0x01] ++
        s.restart.outcome.bytes ++
        [BitVec.ofNat 8 s.watch.trust.level, (match s.store.working.selector with | .a => 0x00 | .b => 0x01)] ++
        le 4 s.store.working.bootCount ++ [if s.restart.bootWindow then 0x01 else 0x00, s.intake.session.state.code] ∧
      (body = [] → OnlyAnswers s t c 0x01 tag .ok 0 report) ∧
      (body ≠ [] → OnlyAnswers s t c 0x01 tag .badLength 0 [])

/-- KEY_READ reports the six key slots in 402 bytes, CERT_READ the certificate, and nothing else happens: neither takes the
provisioning claim (R126). -/
def Obligations.KeyAndCertificateReports : Prop :=
  ∀ (c : Ctx) (tag : Nat) (body : List Byte) (s : State),
    (Routed s c 0x43 tag body →
      ∃ t report, exec (.keyRead c) s = .next t ∧ report.length = 402 ∧
        slice report 0 67 =
          (match s.store.working.identity with
          | some k => [0x01, 0x01, 0x01] ++ wideBytes k.pub
          | none => [0x01, 0x00, 0x00] ++ zeros 64) ∧
        slice report 67 67 =
          (if s.store.working.derivation.isSome then [0x02, 0x01, 0x01] ++ zeros 64 else [0x02, 0x00, 0x00] ++ zeros 64) ∧
        (∀ i : Fin 4, slice report (134 + 67 * i.val) 67 =
          [0x03, s.store.working.updateKeys[i].state.code, s.store.working.updateKeys[i].origin.code] ++
            if s.store.working.updateKeys[i].state = .empty then zeros 64 else wideBytes s.store.working.updateKeys[i].pub) ∧
        (body = [] → OnlyAnswers s t c 0x43 tag .ok 0 report) ∧
        (body ≠ [] → OnlyAnswers s t c 0x43 tag .badLength 0 [])) ∧
    (Routed s c 0x23 tag body →
      ∃ t, exec (.certRead c) s = .next t ∧
        (body = [] → OnlyAnswers s t c 0x23 tag .ok 0 (s.store.working.certificate.getD [])) ∧
        (body ≠ [] → OnlyAnswers s t c 0x23 tag .badLength 0 []))

/-- WATCH_READ gives the entry count, the entries as stored with RECORD among their actions, and the 16 altered flags, and
nothing else happens (R75). -/
def Obligations.WatchReadReportsTheTable : Prop :=
  ∀ (c : Ctx) (tag : Nat) (body : List Byte) (s : State), Routed s c 0x13 tag body →
    ∃ t, exec (.watchRead c) s = .next t ∧
      (body = [] →
        OnlyAnswers s t c 0x13 tag .ok 0
          ([BitVec.ofNat 8 s.watch.table.length] ++
            s.watch.table.flatMap (fun w =>
              le 2 w.base ++ le 2 w.length ++
                [(if w.onRead then 1 else 0) + (if w.onProgram then 2 else 0) + (if w.onErase then 4 else 0),
                  1 + (if w.alert then 2 else 0) + (if w.degrade then 4 else 0), 0, 0]) ++
            [s.watch.altered.extractLsb' 0 8, s.watch.altered.extractLsb' 8 8])) ∧
      (body ≠ [] → OnlyAnswers s t c 0x13 tag .badLength 0 [])

/-- MEASURE_READ gives the mask and the selected registers in ascending order; a mask of 0 answers BAD_PARAMETER 01h; nothing
else happens (R70). -/
def Obligations.MeasureReadReturnsRegisters : Prop :=
  ∀ (c : Ctx) (tag : Nat) (body : List Byte) (s : State), Routed s c 0x21 tag body →
    ∃ t, exec (.measureRead c) s = .next t ∧
      (body.length ≠ 1 → OnlyAnswers s t c 0x21 tag .badLength 0 []) ∧
      ∀ mask : Byte, body = [mask] →
        (mask = 0 → OnlyAnswers s t c 0x21 tag .badParameter 0x01 []) ∧
        (mask ≠ 0 →
          OnlyAnswers s t c 0x21 tag .ok 0
            ([mask] ++ ((List.finRange 8).filter (fun n => mask.getLsbD n.val)).flatMap
              (fun n => digestBytes s.watch.registers[n]))) ∧
        (mask = 0xFF → ∃ report, report.length = 257 ∧ OnlyAnswers s t c 0x21 tag .ok 0 report)

/-- TIME_READ gives tick, wall time, stamp status and last stamp in 28 bytes, and nothing else happens (R135). -/
def Obligations.TimeReadReportsTheTimeBase : Prop :=
  ∀ (c : Ctx) (tag : Nat) (body : List Byte) (s : State), Routed s c 0x51 tag body →
    ∃ t report, exec (.timeRead c) s = .next t ∧ report.length = 28 ∧
      slice report 0 6 = le 6 s.time.tick ∧
      slice report 6 9 =
        (match s.time.wall with
        | none => zeros 9
        | some (w, at_) => 0x01 :: le 8 (w + (s.time.tick - at_) / 1000)) ∧
      slice report 15 1 =
        [if s.store.working.bootCount = 0xFFFFFFFF ∨
            s.time.tick = 0xFFFFFFFFFFFF ∧ ∃ x ∈ s.time.lastStamp, x.tick = 0xFFFFFFFFFFFF ∧ x.seq = 65535 then 0x02
          else if s.time.lastStamp = none then 0x00
          else 0x01] ∧
      slice report 16 12 =
        (match s.time.lastStamp with
        | none => zeros 12
        | some x => le 4 x.boot ++ le 6 x.tick ++ le 2 x.seq) ∧
      (body = [] → OnlyAnswers s t c 0x51 tag .ok 0 report) ∧
      (body ≠ [] → OnlyAnswers s t c 0x51 tag .badLength 0 [])

/-- CRED_LIST gives the epoch, the number of SET slots, the presence grant and 32 entries without values, and nothing else
happens (R145). -/
def Obligations.CredListReportsEverySlot : Prop :=
  ∀ (c : Ctx) (tag : Nat) (body : List Byte) (s : State), Routed s c 0x60 tag body →
    ∃ t report, exec (.credList c) s = .next t ∧ report.length = 1513 ∧
      slice report 0 9 =
        le 4 s.store.working.ownerEpoch.toNat ++
          [BitVec.ofNat 8 ((List.finRange 32).countP fun k => s.store.working.creds[k].content.isSome)] ++
          le 4 (match s.creds.grant with | some d => d - s.time.tick | none => 0) ∧
      (∀ k : Fin 32, slice report (9 + 47 * k.val) 47 =
        (match s.store.working.creds[k].content with
          | none => zeros 38
          | some x =>
            [0x01, (match x.value with | .verifier _ _ => 0x01 | .secret _ => 0x00), BitVec.ofNat 8 x.minTrust,
              (if x.windowOnly then 1 else 0) + (if x.notAfter.isSome then 2 else 0), BitVec.ofNat 8 x.label.length] ++
            (x.label ++ zeros 24).take 24 ++ le 8 (x.notAfter.getD 0) ++
            [match x.value with | .verifier _ _ => 0x00 | .secret bs => BitVec.ofNat 8 bs.length]) ++
        le 4 s.store.working.creds[k].version ++ [BitVec.ofNat 8 s.store.working.failCounts[k]] ++
        le 4 (match s.creds.lockouts[k] with | some d => d - s.time.tick | none => 0)) ∧
      (body = [] → OnlyAnswers s t c 0x60 tag .ok 0 report) ∧
      (body ≠ [] → OnlyAnswers s t c 0x60 tag .badLength 0 [])

/-- REGION_READ gives the binding byte and the table: the one in force, or the one bound to a slot; with no table the count is
0 and nothing follows the header (R9). The binding byte of a slot without a table is left open here (log entry 31). HITS_READ gives
the counts and the records newest first; with byte 01h it empties the list, zeroes the drop count and clears WATCH in the same
step (R82). -/
def Obligations.RegionAndHitsReports : Prop :=
  (∀ (c : Ctx) (tag : Nat) (sel : Byte) (s : State), Routed s c 0x10 tag [sel] →
     ∃ t, exec (.regionRead c) s = .next t ∧
       (2 < sel.toNat → OnlyAnswers s t c 0x10 tag .badParameter 0x01 []) ∧
       (sel = 0 →
         OnlyAnswers s t c 0x10 tag .ok 0
           (match s.xlat.inForce with
           | .table .a u => 0x01 :: u.bytes
           | .table .b u => 0x02 :: u.bytes
           | .identity => zeros 17
           | .none => zeros 17)) ∧
       (∀ k : Slot, sel = (match k with | .a => 1 | .b => 2) →
         (∀ u, s.store.working.tables.get k = some u → OnlyAnswers s t c 0x10 tag .ok 0 (sel :: u.bytes)) ∧
         (s.store.working.tables.get k = none → ∃ b, OnlyAnswers s t c 0x10 tag .ok 0 (b :: zeros 16)))) ∧
  ∀ (c : Ctx) (tag : Nat) (sel : Byte) (s : State) (report : List Byte), Routed s c 0x14 tag [sel] →
    report =
      le 2 s.watch.drops ++ le 4 s.watch.hitsSince ++ [BitVec.ofNat 8 s.watch.hits.length] ++
        s.watch.hits.flatMap (fun h =>
          le 4 h.stamp.boot ++ le 6 h.stamp.tick ++ le 2 h.stamp.seq ++ le 3 h.start ++
            [match h.kind with | .read => (0x01 : Byte) | .program => 0x02 | .erase => 0x03] ++
            [BitVec.ofNat 8 (h.region.getD 0xFF), BitVec.ofNat 8 (h.entry.getD 0xFF)]) →
    ∃ t, exec (.hitsRead c) s = .next t ∧
      (1 < sel.toNat → OnlyAnswers s t c 0x14 tag .badParameter 0x01 []) ∧
      (sel = 0 → OnlyAnswers s t c 0x14 tag .ok 0 report) ∧
      (sel = 1 →
        Answers s t c 0x14 tag .ok 0 report ∧ t.watch = { s.watch with hits := [], drops := 0 } ∧
          AlertChange s t sourceWatch (responseSource c) ∧
          { t with requests := s.requests, watch := s.watch, alert := s.alert } = s)

/-! ## Requests that set volatile state -/

/-- TIME_SET, at trust TRIAL or VERIFIED, sets the pair to the value and the tick and changes wall time alone (R133).
CLOSE_BOOT_WINDOW closes the window and nothing else. WATCH_LOAD needs it open, answers BAD_PARAMETER 02h to 04h for the first of
its three entry checks that some entry fails, and replaces the whole table by the entries of its body (R72, R74). -/
def Obligations.TimeAndWindowRequests : Prop :=
  (∀ (c : Ctx) (tag : Nat) (body : List Byte) (s : State), Routed s c 0x50 tag body → body.length = 8 →
     ∃ t, exec (.timeSet c) s = .next t ∧
       (s.watch.trust = .unverified ∨ s.watch.trust = .degraded → OnlyAnswers s t c 0x50 tag .trustTooLow 0 []) ∧
       (s.watch.trust = .trial ∨ s.watch.trust = .verified →
         (2 ^ 40 ≤ ofLe body → OnlyAnswers s t c 0x50 tag .badParameter 0x01 []) ∧
         (ofLe body < 2 ^ 40 →
           Answers s t c 0x50 tag .ok 0 [] ∧ t.time = { s.time with wall := some (ofLe body, s.time.tick) } ∧
             AlertChange s t 0 (responseSource c) ∧
             { t with requests := s.requests, time := s.time, alert := s.alert } = s))) ∧
  ∀ (c : Ctx) (tag : Nat) (s : State),
    (Routed s c 0x06 tag [] →
      ∃ t, exec (.closeBootWindow c) s = .next t ∧ Answers s t c 0x06 tag .ok 0 [] ∧
        t.restart = { s.restart with bootWindow := false } ∧ AlertChange s t 0 (responseSource c) ∧
        { t with requests := s.requests, restart := s.restart, alert := s.alert } = s) ∧
    (∀ body, Routed s c 0x12 tag body → s.restart.bootWindow = false →
      ∃ t, exec (.watchLoad c) s = .next t ∧ OnlyAnswers s t c 0x12 tag .bootWindowClosed 0 []) ∧
    (∀ body, Routed s c 0x12 tag body → s.restart.bootWindow = true →
      ∃ t, exec (.watchLoad c) s = .next t ∧
        (body = [] → OnlyAnswers s t c 0x12 tag .badLength 0 []) ∧
        (8 < byteAt body 0 → OnlyAnswers s t c 0x12 tag .badParameter 0x01 []) ∧
        (body ≠ [] → byteAt body 0 ≤ 8 → body.length ≠ 1 + 8 * byteAt body 0 →
          OnlyAnswers s t c 0x12 tag .badLength 0 []) ∧
        ∀ range kinds actions : Bool, body.length = 1 + 8 * byteAt body 0 → byteAt body 0 ≤ 8 →
          (range = true ↔ ∃ i, i < byteAt body 0 ∧
            (numAt body (3 + 8 * i) 2 = 0 ∨ 0xFFC < numAt body (1 + 8 * i) 2 + numAt body (3 + 8 * i) 2)) →
          (kinds = true ↔ ∃ i, i < byteAt body 0 ∧ (byteAt body (5 + 8 * i) = 0 ∨ 7 < byteAt body (5 + 8 * i))) →
          (actions = true ↔ ∃ i, i < byteAt body 0 ∧
            (byteAt body (6 + 8 * i) = 0 ∨ 7 < byteAt body (6 + 8 * i) ∨ byteAt body (7 + 8 * i) ≠ 0 ∨
              byteAt body (8 + 8 * i) ≠ 0)) →
            (range = true → OnlyAnswers s t c 0x12 tag .badParameter 0x02 []) ∧
            (range = false → kinds = true → OnlyAnswers s t c 0x12 tag .badParameter 0x03 []) ∧
            (range = false → kinds = false → actions = true → OnlyAnswers s t c 0x12 tag .badParameter 0x04 []) ∧
            (range = false → kinds = false → actions = false →
              Answers s t c 0x12 tag .ok 0 [] ∧ AlertChange s t 0 (responseSource c) ∧
                t.watch = { s.watch with
                  table := (List.range (byteAt body 0)).map fun i =>
                    ⟨numAt body (1 + 8 * i) 2, numAt body (3 + 8 * i) 2, (byteAt body (5 + 8 * i)).testBit 0,
                      (byteAt body (5 + 8 * i)).testBit 1, (byteAt body (5 + 8 * i)).testBit 2,
                      (byteAt body (6 + 8 * i)).testBit 1, (byteAt body (6 + 8 * i)).testBit 2⟩ } ∧
                { t with requests := s.requests, watch := s.watch, alert := s.alert } = s)) ∧
    ∀ table : List WatchEntry,
      Routed s c 0x12 tag ([BitVec.ofNat 8 table.length] ++ table.flatMap WatchEntry.bytes) → s.restart.bootWindow = true →
      table.length ≤ 8 →
      (∀ w ∈ table, 1 ≤ w.length ∧ w.base + w.length ≤ 0xFFC ∧ (w.onRead || w.onProgram || w.onErase) = true) →
        ∃ t, exec (.watchLoad c) s = .next t ∧ Answers s t c 0x12 tag .ok 0 [] ∧
          t.watch = { s.watch with table := table } ∧ AlertChange s t 0 (responseSource c) ∧
          { t with requests := s.requests, watch := s.watch, alert := s.alert } = s

/-- ALERT_SET stores mask and interval, the interval brought to 0 or to 100 to 60,000, has the line judged and arms an asserted
line's timer afresh. ALERT_READ reports them, clears LOCKOUT and TRUST_DROP and arms an asserted line's timer afresh; a pulse it does not end: the line
stays PULSE, whatever is still pending, until the tick after the pulse began (R184 to R186; the reading of the two rules together
is log entry 39). -/
def Obligations.AlertRequests : Prop :=
  (∀ (c : Ctx) (tag : Nat) (mask lo hi : Byte) (s : State) (n k : Nat), Routed s c 0x05 tag [mask, lo, hi] →
    n = lo.toNat + 256 * hi.toNat → k = (if n = 0 then 0 else max 100 (min n 60000)) →
      ∃ t, exec (.alertSet c) s = .next t ∧ Answers s t c 0x05 tag .ok 0 ([mask] ++ le 2 k) ∧
        t.alert.pending = s.alert.pending ||| responseSource c ∧ t.alert.mask = mask ∧ t.alert.interval = k ∧
        (∃ a b, LineJudged s.time.tick { s.alert with mask := mask, interval := k } a ∧
          b = (if a.line = .asserted then { a with timer := if k = 0 then none else some (s.time.tick + k) } else a) ∧
          AlertStep s.time.tick 0 (responseSource c) b t.alert) ∧
        { t with requests := s.requests, alert := s.alert } = s) ∧
  ∀ (c : Ctx) (tag : Nat) (s : State), Routed s c 0x04 tag [] →
    ∃ t, exec (.alertRead c) s = .next t ∧
      Answers s t c 0x04 tag .ok 0 ([s.alert.pending, s.alert.mask] ++ le 2 s.alert.interval) ∧
      t.alert.pending = (s.alert.pending &&& ~~~(sourceLockout ||| sourceTrustDrop)) ||| responseSource c ∧
      t.alert.mask = s.alert.mask ∧ t.alert.interval = s.alert.interval ∧
      (s.alert.line = .pulse → t.alert = { s.alert with pending := t.alert.pending }) ∧
      (s.alert.line ≠ .pulse →
        ∃ a b, AlertStep s.time.tick (sourceLockout ||| sourceTrustDrop) 0 s.alert a ∧
          b = (if a.line = .asserted ∧ a.interval ≠ 0 then { a with timer := some (s.time.tick + a.interval) } else a) ∧
          AlertStep s.time.tick 0 (responseSource c) b t.alert) ∧
      (t.alert.line = .asserted → s.alert.interval ≠ 0 → t.alert.timer = some (s.time.tick + s.alert.interval)) ∧
      { t with requests := s.requests, alert := s.alert } = s

/-! ## Credentials (chapter 8) -/

/-- CRED_READ releases a SECRET, and CRED_RESERVE reserves one slot or a pair, under the release checks (R144, R146, R150,
R151). -/
def Obligations.CredReadAndReserve : Prop :=
  (∀ (c : Ctx) (tag : Nat) (n : Byte) (s : State), Routed s c 0x61 tag [n] →
    ∃ t, exec (.credRead c) s = .next t ∧
      (32 ≤ n.toNat → OnlyAnswers s t c 0x61 tag .badParameter 0x20 []) ∧
      ∀ k : Fin 32, k.val = n.toNat →
        (s.store.working.creds[k].content = none → OnlyAnswers s t c 0x61 tag .emptySlot k.val []) ∧
        ∀ x, s.store.working.creds[k].content = some x →
          (∀ st, s.releaseAnswer (some false) x = some st → OnlyAnswers s t c 0x61 tag st k.val []) ∧
          (s.releaseAnswer (some false) x = none →
            ∃ bs, x.value = .secret bs ∧
              OnlyAnswers s t c 0x61 tag .ok 0
                (le 4 s.store.working.creds[k].version ++ [BitVec.ofNat 8 bs.length] ++ bs))) ∧
  ∀ (c : Ctx) (tag : Nat) (n count : Byte) (s : State), Routed s c 0x62 tag [n, count] →
    ∃ t, exec (.credReserve c) s = .next t ∧
      (32 ≤ n.toNat → OnlyAnswers s t c 0x62 tag .badParameter 0x20 []) ∧
      (n.toNat < 32 → ¬ (count = 1 ∨ count = 2 ∧ n.toNat % 2 = 0) →
        OnlyAnswers s t c 0x62 tag .badParameter 0x21 []) ∧
      ∀ ks : List (Fin 32),
        (ks.map (·.val) = [n.toNat] ∧ count = 1 ∨ ks.map (·.val) = [n.toNat, n.toNat + 1] ∧ count = 2 ∧ n.toNat % 2 = 0) →
        (∀ (pre post : List (Fin 32)) (k : Fin 32) (x : CredContent) (st : Status), ks = pre ++ k :: post →
          (∀ j ∈ pre, ∀ y ∈ s.store.working.creds[j].content, s.releaseAnswer none y = none) →
          s.store.working.creds[k].content = some x → s.releaseAnswer none x = some st →
            OnlyAnswers s t c 0x62 tag st k.val []) ∧
        ((∀ j ∈ ks, ∀ y ∈ s.store.working.creds[j].content, s.releaseAnswer none y = none) →
          Answers s t c 0x62 tag .ok 0
            (ks.flatMap fun k =>
              [BitVec.ofNat 8 k.val] ++ (if s.store.working.creds[k].content = none then [0x00] else [0x01]) ++
                le 4 s.store.working.creds[k].version ++
                [BitVec.ofNat 8 s.store.working.creds[k].secretBytes.length] ++ s.store.working.creds[k].secretBytes) ∧
          t.creds =
            { s.creds with
              reservations := s.creds.reservations.set c (.valid (ks.map fun k => (k, s.store.working.creds[k].version))) } ∧
          AlertChange s t 0 (responseSource c) ∧
          { t with requests := s.requests, creds := s.creds, alert := s.alert } = s)

/-- CRED_COMPARE: the release checks for a VERIFIER, then the lockout, then one compare job with the version recorded (R144,
R147). -/
def Obligations.CredCompareStarts : Prop :=
  ∀ (c : Ctx) (tag : Nat) (n : Byte) (cand : List Byte) (s : State), Routed s c 0x64 tag (n :: cand) → cand.length ≤ 192 →
    ∃ t, exec (.credCompare c) s = .next t ∧
      (32 ≤ n.toNat → OnlyAnswers s t c 0x64 tag .badParameter 0x20 []) ∧
      ∀ k : Fin 32, k.val = n.toNat → s.EngineFed →
        (s.store.working.creds[k].content = none → OnlyAnswers s t c 0x64 tag .emptySlot k.val []) ∧
        ∀ x, s.store.working.creds[k].content = some x →
          (∀ st, s.releaseAnswer (some true) x = some st → OnlyAnswers s t c 0x64 tag st k.val []) ∧
          (s.releaseAnswer (some true) x = none →
            (∀ d, s.creds.lockouts[k] = some d →
              OnlyAnswers s t c 0x64 tag .lockedOut 0 (le 4 (d - s.time.tick))) ∧
            (s.creds.lockouts[k] = none →
              GoesOn s t c 0x64 tag (n :: cand) (.comparing k s.store.working.creds[k].version) ∧
                QueuesJob s t (.ctx c) (.compare k cand) ∧
                { t with requests := s.requests, crypto := s.crypto, draws := s.draws } = s))

/-- CRED_WRITE_COND: the checks of its form, in their order, and what its records say; then the judgement against the reservation and
the slots in the order of R154. One that passes and writes no VERIFIER queues one record group. The first VERIFIER's record, behind
SECRET and EMPTY ones or none, runs a digest job over a salt that is drawn then, the counter State.draws advancing (R153, R154; draws
are free values, log entry 6). That the detail is the lower slot number where both targets of a pair fail step 4, or step 5, is the
model's choice (log entry 44). -/
def Obligations.CredWriteCondIsJudged : Prop :=
  (∀ (body : List Byte) (count : Nat), count = byteAt body 0 →
    (body.length < 16 ∨
        (∀ raw : List (List Byte), raw.length = count → (∀ r ∈ raw, CredRecordCut r) → body.drop 1 ≠ raw.flatten) →
      credWriteForm body = .error (.badLength, 0)) ∧
    ∀ raw : List (List Byte), 16 ≤ body.length → raw.length = count → (∀ r ∈ raw, CredRecordCut r) →
      body.drop 1 = raw.flatten →
        (count ≠ 1 → count ≠ 2 → credWriteForm body = .error (.badParameter, 0x01)) ∧
        (count = 1 ∨ count = 2 →
          ((∃ r ∈ raw, ¬ CredRecordFormed r) → credWriteForm body = .error (.badParameter, 0x02)) ∧
          (∀ r q, raw = [r, q] → byteAt q 0 ≠ byteAt r 0 + 1 → credWriteForm body = .error (.badParameter, 0x02)) ∧
          ((∀ r ∈ raw, CredRecordFormed r) → (∀ r q, raw = [r, q] → byteAt q 0 = byteAt r 0 + 1) →
            credWriteForm body = .ok (raw.map credRecordRead)))) ∧
  ∀ (c : Ctx) (tag : Nat) (body : List Byte) (s : State), Routed s c 0x63 tag body → s.EngineFed →
    ∃ t, exec (.credWriteCond c) s = .next t ∧
      (∀ st detail, credWriteForm body = .error (st, detail) → OnlyAnswers s t c 0x63 tag st detail []) ∧
      ∀ rs, credWriteForm body = .ok rs →
        (s.reservation c = .none → OnlyAnswers s t c 0x63 tag .reservationLost 0 []) ∧
        (s.reservation c ≠ .none → rs.map (·.slot) ≠ (s.reservation c).targets.map (·.1) →
          OnlyAnswers s t c 0x63 tag .badParameter 0x03 []) ∧
        (s.reservation c ≠ .none → rs.map (·.slot) = (s.reservation c).targets.map (·.1) →
          ((∃ n ∈ rs, s.store.working.creds[n.slot].version = 0xFFFFFFFF) →
            OnlyAnswers s t c 0x63 tag .badParameter 0x04 []) ∧
          ((∀ n ∈ rs, s.store.working.creds[n.slot].version ≠ 0xFFFFFFFF) →
            (∀ pre n post, rs = pre ++ n :: post → (∀ m ∈ pre, s.trustFails m.slot m.minTrustOf = false) →
              s.trustFails n.slot n.minTrustOf = true → OnlyAnswers s t c 0x63 tag .trustTooLow n.slot.val []) ∧
            ((∀ m ∈ rs, s.trustFails m.slot m.minTrustOf = false) →
              (∀ pre n post, rs = pre ++ n :: post → (∀ m ∈ pre, s.windowFails m.slot m.windowOnlyOf = false) →
                s.windowFails n.slot n.windowOnlyOf = true → OnlyAnswers s t c 0x63 tag .bootWindowClosed n.slot.val []) ∧
              ((∀ m ∈ rs, s.windowFails m.slot m.windowOnlyOf = false) →
                (∀ ts, s.reservation c = .lost ts →
                  Answers s t c 0x63 tag .reservationLost 0 [] ∧
                    t.creds = { s.creds with reservations := s.creds.reservations.set c .none } ∧
                    AlertChange s t 0 (responseSource c) ∧
                    { t with requests := s.requests, creds := s.creds, alert := s.alert } = s) ∧
                (∀ ts, s.reservation c = .valid ts →
                  ((∀ n ∈ rs, (n.set && n.verifier) = false) →
                    GoesOn s t c 0x63 tag body .awaitWrite ∧
                      QueuesWrite s t c
                        (.credGroup (rs.map fun n =>
                          (n.slot, if n.set then some ⟨n.label, .secret n.value, n.minTrust, n.windowOnly, n.notAfter⟩
                            else none))) ∧
                      { t with requests := s.requests, store := s.store } = s) ∧
                  (∀ pre n rest, rs = pre ++ n :: rest → (∀ m ∈ pre, (m.set && m.verifier) = false) →
                    (n.set && n.verifier) = true →
                    GoesOn s t c 0x63 tag body
                        (.preparing
                          (pre.map fun m =>
                            (m.slot, if m.set then some ⟨m.label, .secret m.value, m.minTrust, m.windowOnly, m.notAfter⟩
                              else none))
                          n (Config.random16 s.draws) rest) ∧
                      QueuesJob s t (.ctx c) (.digest [] (be 16 (Config.random16 s.draws).toNat ++ n.value) true) ∧
                      s.draws < t.draws ∧
                      { t with requests := s.requests, crypto := s.crypto, draws := s.draws } = s))))))

/-- BOOT_CONFIRM and OWNER_WIPE check and then queue one write each; the wipe takes the presence grant and loses both contexts'
reservations at once (R110, R152, R158, R159). -/
def Obligations.ConfirmAndWipeQueueOneWrite : Prop :=
  ∀ (c : Ctx) (tag : Nat) (s : State),
    (Routed s c 0x36 tag [] →
      ∃ t, exec (.bootConfirm c) s = .next t ∧
        ((s.store.working.records.get s.store.working.selector).state ≠ .trial →
          OnlyAnswers s t c 0x36 tag .sessionState 0 []) ∧
        ((s.store.working.records.get s.store.working.selector).state = .trial →
          (s.watch.trust = .unverified ∨ s.watch.trust = .degraded → OnlyAnswers s t c 0x36 tag .confirmDenied 0 []) ∧
          (s.watch.trust = .trial ∨ s.watch.trust = .verified →
            GoesOn s t c 0x36 tag [] .awaitWrite ∧ QueuesWrite s t c .confirm ∧
              { t with requests := s.requests, store := s.store } = s))) ∧
    (Routed s c 0x65 tag [] →
      ∃ t, exec (.ownerWipe c) s = .next t ∧
        (s.creds.grant = none → OnlyAnswers s t c 0x65 tag .presenceRequired 0 []) ∧
        (s.creds.grant ≠ none →
          GoesOn s t c 0x65 tag [] .awaitWrite ∧ QueuesWrite s t c .wipe ∧
            t.creds =
              { s.creds with
                grant := none
                reservations := ⟨s.creds.reservations.c0.lose, s.creds.reservations.c1.lose⟩ } ∧
            AlertChange s t sourcePresence 0 ∧
            { t with requests := s.requests, store := s.store, creds := s.creds, alert := s.alert } = s))

/-! ## Crypto jobs and quotes (chapters 4, 6, 9) -/

/-- EXTEND and DERIVE check, run one job each, and check again when it ends: the boot window for registers 3 and 4, the trust
level for DERIVE. The extension writes the register, the derivation writes nothing (R68, R69, R116 to R118, R120). -/
def Obligations.ExtendAndDeriveRunAJob : Prop :=
  ∀ (c : Ctx) (tag : Nat) (s : State),
    (∀ (n : Byte) (x : List Byte), Routed s c 0x20 tag (n :: x) → x.length = 32 →
      ∃ t, exec (.extend c) s = .next t ∧
        (8 ≤ n.toNat → OnlyAnswers s t c 0x20 tag .badParameter 0x01 []) ∧
        (n.toNat ≤ 2 → OnlyAnswers s t c 0x20 tag .badParameter 0x02 []) ∧
        ∀ k : Fin 8, k.val = n.toNat → 3 ≤ k.val →
          (k.val ≤ 4 → s.restart.bootWindow = false → OnlyAnswers s t c 0x20 tag .bootWindowClosed 0 []) ∧
          (5 ≤ k.val ∨ s.restart.bootWindow = true →
            GoesOn s t c 0x20 tag (n :: x) (.extending k) ∧ QueuesJob s t (.ctx c) (.extend k (digestOf x)) ∧
              (s.crypto = ⟨none, [], []⟩ →
                t.crypto.running =
                  some ⟨⟨.ctx c, .extend k (digestOf x)⟩,
                    .digest (Config.sha256 (digestBytes s.watch.registers[k] ++ digestBytes (digestOf x))), false⟩) ∧
              { t with requests := s.requests, crypto := s.crypto, draws := s.draws } = s)) ∧
    (∀ label : List Byte, Routed s c 0x44 tag label → label ≠ [] → label.length ≤ 32 →
      ∃ t, exec (.derive c) s = .next t ∧
        (s.watch.trust = .unverified ∨ s.watch.trust = .degraded → OnlyAnswers s t c 0x44 tag .trustTooLow 0 []) ∧
        (s.watch.trust = .trial ∨ s.watch.trust = .verified →
          GoesOn s t c 0x44 tag label .deriving_ ∧ QueuesJob s t (.ctx c) (.derivation label) ∧
            (∀ secret, s.crypto = ⟨none, [], []⟩ → s.store.working.derivation = some secret →
              t.crypto.running =
                some ⟨⟨.ctx c, .derivation label⟩,
                  .digest (Config.hmac secret
                    ([BitVec.ofNat 8 label.length] ++ label ++ digestBytes s.watch.registers[0] ++
                      le 4 s.store.working.ownerEpoch.toNat)), false⟩) ∧
            { t with requests := s.requests, crypto := s.crypto, draws := s.draws } = s)) ∧
    (∀ (body : List Byte) (k : Fin 8) (x d : Digest), Executing s c 0x20 tag body (.extending k) →
      s.crypto.running = some ⟨⟨.ctx c, .extend k x⟩, .digest d, false⟩ → s.crypto.deferred = [] →
        ∃ t, exec .cryptoJobEnd s = .next t ∧ t.crypto.fifo = s.crypto.queue ∧ AlertChange s t 0 (responseSource c) ∧
          ((k = 3 ∨ k = 4) ∧ s.restart.bootWindow = false →
            Answers s t c 0x20 tag .bootWindowClosed 0 [] ∧ t.watch = s.watch) ∧
          (¬ ((k = 3 ∨ k = 4) ∧ s.restart.bootWindow = false) →
            Answers s t c 0x20 tag .ok 0 ([BitVec.ofNat 8 k.val] ++ digestBytes d) ∧
              t.watch = { s.watch with registers := s.watch.registers.set k d }) ∧
          { t with requests := s.requests, alert := s.alert, watch := s.watch, crypto := s.crypto, draws := s.draws } = s) ∧
    ∀ (body label : List Byte) (d : Digest), Executing s c 0x44 tag body .deriving_ →
      s.crypto.running = some ⟨⟨.ctx c, .derivation label⟩, .digest d, false⟩ → s.crypto.deferred = [] →
        ∃ t, exec .cryptoJobEnd s = .next t ∧ t.crypto.fifo = s.crypto.queue ∧ AlertChange s t 0 (responseSource c) ∧
          (s.watch.trust = .unverified ∨ s.watch.trust = .degraded → Answers s t c 0x44 tag .trustTooLow 0 []) ∧
          (s.watch.trust = .trial ∨ s.watch.trust = .verified → Answers s t c 0x44 tag .ok 0 (digestBytes d)) ∧
          { t with requests := s.requests, alert := s.alert, crypto := s.crypto, draws := s.draws } = s

/-- The end of a compare job: the release checks and the lockout again; over a slot written meanwhile a new job with the new
version; else the result stands, and a match is answered or first clears the fail count by a write, and a mismatch queues its
write (R147, R148). The end of a VERIFIER's digest: the next VERIFIER's digest, or, with every record prepared, steps 4 to 6 of
R154 again and one group queued (R154, R155); that their detail is the lower number where both targets of a pair fail is the model's
choice (log entry 44). -/
def Obligations.CredentialJobsEnd : Prop :=
  (∀ (c : Ctx) (tag : Nat) (n : Byte) (cand : List Byte) (k : Fin 32) (v : Nat) (job : JobKind) (ok : Bool) (s : State),
    Executing s c 0x64 tag (n :: cand) (.comparing k v) → JobEnding s (.ctx c) job (.matched ok) →
      ∃ t, exec .cryptoJobEnd s = .next t ∧
        (s.store.working.creds[k].content = none → JobAnswers s t c 0x64 tag .emptySlot k.val []) ∧
        ∀ x, s.store.working.creds[k].content = some x →
          (∀ st, s.releaseAnswer (some true) x = some st → JobAnswers s t c 0x64 tag st k.val []) ∧
          (s.releaseAnswer (some true) x = none →
            (∀ d, s.creds.lockouts[k] = some d → JobAnswers s t c 0x64 tag .lockedOut 0 (le 4 (d - s.time.tick))) ∧
            (s.creds.lockouts[k] = none →
              (s.store.working.creds[k].version ≠ v →
                JobGoesOn s t c 0x64 tag (n :: cand) (.comparing k s.store.working.creds[k].version) [.compare k cand] ∧
                  { t with requests := s.requests, crypto := s.crypto, draws := s.draws } = s) ∧
              (s.store.working.creds[k].version = v →
                (ok = true → s.store.working.failCounts[k] = 0 → JobAnswers s t c 0x64 tag .ok 0 []) ∧
                (ok = false ∨ s.store.working.failCounts[k] ≠ 0 →
                  JobGoesOn s t c 0x64 tag (n :: cand) .awaitWrite [] ∧
                    QueuesWrite s t c (if ok then .resetFails k else .mismatch k v) ∧
                    { t with requests := s.requests, crypto := s.crypto, store := s.store, draws := s.draws } = s))))) ∧
  ∀ (c : Ctx) (tag : Nat) (body : List Byte) (done : List (Fin 32 × Option CredContent)) (n : NewCred) (salt : Salt)
    (rest : List NewCred) (d : Digest) (job : JobKind) (s : State) (now : List (Fin 32 × Option CredContent)),
    Executing s c 0x63 tag body (.preparing done n salt rest) → JobEnding s (.ctx c) job (.digest d) →
    now = done ++
      [(n.slot, if n.set then some ⟨n.label, .verifier salt d, n.minTrust, n.windowOnly, n.notAfter⟩ else none)] →
      ∃ t, exec .cryptoJobEnd s = .next t ∧
        (∀ m more, rest = m :: more → (m.set && m.verifier) = true →
          JobGoesOn s t c 0x63 tag body (.preparing now m (Config.random16 s.draws) more)
              [.digest [] (be 16 (Config.random16 s.draws).toNat ++ m.value) true] ∧ s.draws < t.draws ∧
            { t with requests := s.requests, crypto := s.crypto, draws := s.draws } = s) ∧
        ∀ (all : List (Fin 32 × Option CredContent)) (least : Option CredContent → Nat)
          (window : Option CredContent → Bool), (∀ m ∈ rest, (m.set && m.verifier) = false) →
          all = now ++ rest.map (fun m =>
            (m.slot, if m.set then some ⟨m.label, .secret m.value, m.minTrust, m.windowOnly, m.notAfter⟩ else none)) →
          (∀ x, least x = match x with | some y => y.minTrust | none => 0) →
          (∀ x, window x = match x with | some y => y.windowOnly | none => false) →
            (∀ pre r post, all = pre ++ r :: post → (∀ q ∈ pre, s.trustFails q.1 (least q.2) = false) →
              s.trustFails r.1 (least r.2) = true → JobAnswers s t c 0x63 tag .trustTooLow r.1.val []) ∧
            ((∀ q ∈ all, s.trustFails q.1 (least q.2) = false) →
              (∀ pre r post, all = pre ++ r :: post → (∀ q ∈ pre, s.windowFails q.1 (window q.2) = false) →
                s.windowFails r.1 (window r.2) = true → JobAnswers s t c 0x63 tag .bootWindowClosed r.1.val []) ∧
              ((∀ q ∈ all, s.windowFails q.1 (window q.2) = false) →
                ((∀ ts, s.reservation c ≠ .valid ts) →
                  Answers s t c 0x63 tag .reservationLost 0 [] ∧
                    t.creds = { s.creds with reservations := s.creds.reservations.set c .none } ∧
                    AlertChange s t 0 (responseSource c) ∧ t.crypto.fifo = s.crypto.queue ∧
                    { t with
                      requests := s.requests, creds := s.creds, alert := s.alert, crypto := s.crypto,
                      draws := s.draws } = s) ∧
                (∀ ts, s.reservation c = .valid ts →
                  JobGoesOn s t c 0x63 tag body .awaitWrite [] ∧ QueuesWrite s t c (.credGroup all) ∧
                    { t with requests := s.requests, crypto := s.crypto, store := s.store, draws := s.draws } = s)))

/-- QUOTE needs an identity and a stamp; with its stamp, at once or at a STAMP_WAIT_SERVE, its record is assembled and its SIGNING
job queued in one step, and without one it waits in the stamp wait list or is answered EXHAUSTED (R137 to R139, R161 to R164). The
record holds the fields of R163 in their order, each as it stands at that step, 80 bytes with the registers selected and the nonce.
The model's choices: the 16 bytes of the part serial stand most significant first (log entry 37), and an exhausted boot count answers
at once also before this restart's boot count write has completed (log entry 43). -/
def Obligations.QuotesTakeTheirStamp : Prop :=
  ∀ (c : Ctx) (tag : Nat) (mask : Byte) (nonce : List Byte) (s : State) (record : Stamp → List Byte), s.EngineFed →
    (∀ x, record x =
      [(0x01 : Byte)] ++ be 16 s.store.working.serial.toNat ++
        [match s.store.working.stage with
          | .manufacture => (0x00 : Byte)
          | .field => if s.store.working.strict then 0x02 else 0x01] ++
        (le 4 x.boot ++ le 6 x.tick ++ le 2 x.seq) ++
        [if s.time.wall.isSome then (0x01 : Byte) else 0x00] ++
        le 8 (match s.time.wall with | some (w, at_) => w + (x.tick - at_) / 1000 | none => 0) ++
        ([s.restart.outcome.cause.code, (match s.restart.outcome.selected with | .a => 0x00 | .b => 0x01),
            s.restart.outcome.results.a.code, s.restart.outcome.results.b.code,
            (if s.restart.outcome.commitApplied then 1 else 0) + (if s.restart.outcome.reverted then 2 else 0) +
              (if s.restart.outcome.fallback then 4 else 0),
            BitVec.ofNat 8 s.restart.outcome.attemptsLeft, BitVec.ofNat 8 s.restart.outcome.trust.level,
            s.restart.outcome.halt.code] : List Byte) ++
        [match s.store.working.selector with | .a => (0x00 : Byte) | .b => 0x01] ++
        (s.store.working.records.a.state.code :: le 4 s.store.working.records.a.version) ++
        (s.store.working.records.b.state.code :: le 4 s.store.working.records.b.version) ++ le 4 s.store.working.floor ++
        [BitVec.ofNat 8 s.watch.trust.level, if s.restart.bootWindow then 0x01 else 0x00, mask] ++
        ((List.finRange 8).filter fun n => mask.getLsbD n.val).flatMap (fun n => digestBytes s.watch.registers[n]) ++
        le 2 s.watch.altered.toNat ++ le 4 s.watch.hitsSince ++ le 2 s.watch.drops ++
        [BitVec.ofNat 8 ((List.finRange 32).countP fun k => s.store.working.creds[k].content.isSome)] ++
        le 4 s.store.working.ownerEpoch.toNat ++ [s.intake.session.state.code, BitVec.ofNat 8 nonce.length] ++ nonce) →
    (∀ x, (record x).length = 80 + 32 * ((List.finRange 8).countP fun n => mask.getLsbD n.val) + nonce.length) ∧
    (Routed s c 0x22 tag (mask :: nonce) → nonce.length ≤ 64 →
      ∃ t, exec (.quote c) s = .next t ∧
        (s.store.working.identity = none → OnlyAnswers s t c 0x22 tag .noIdentity 0 []) ∧
        (s.store.working.identity ≠ none → s.stampsExhausted = true → OnlyAnswers s t c 0x22 tag .exhausted 0 []) ∧
        (s.store.working.identity ≠ none → s.stampsExhausted = false →
          (∀ x, s.time.waiting = [] → s.nextStamp = some x →
            Assembles s t c tag (mask :: nonce) (record x) ∧ t.time = { s.time with lastStamp := some x } ∧
              { t with requests := s.requests, crypto := s.crypto, draws := s.draws, time := s.time } = s) ∧
          (s.time.waiting ≠ [] ∨ s.nextStamp = none →
            t.ctx c = { s.ctx c with request := some ⟨0x22, tag, mask :: nonce, .quoting⟩, quote := .waitingStamp } ∧
              t.ctx (otherCtx c) = s.ctx (otherCtx c) ∧
              t.time = { s.time with waiting := s.time.waiting ++ [.quote c] } ∧
              { t with requests := s.requests, time := s.time } = s))) ∧
    (s.running = true → s.time.waiting = [] ∨ s.stampsExhausted = false ∧ s.nextStamp = none →
      exec .stampWaitServe s = .next s) ∧
    (Executing s c 0x22 tag (mask :: nonce) .quoting → s.time.waiting = [.quote c] →
      ∃ t, exec .stampWaitServe s = .next t ∧
        (s.stampsExhausted = true →
          Answers s t c 0x22 tag .exhausted 0 [] ∧ AlertChange s t 0 (responseSource c) ∧
            t.time = { s.time with waiting := [] } ∧
            { t with requests := s.requests, alert := s.alert, time := s.time } = s) ∧
        ∀ x, s.stampsExhausted = false → s.nextStamp = some x →
          Assembles s t c tag (mask :: nonce) (record x) ∧ t.time = { s.time with lastStamp := some x, waiting := [] } ∧
            { t with requests := s.requests, crypto := s.crypto, draws := s.draws, time := s.time } = s)

/-- The end of a SIGNING job: the response is the record with the signature behind it, or NO_IDENTITY where slot 0 was empty when
the job started (R119, R164, R165). The job takes slot 0 as it stands when it starts and signs the digest of the record with
the draw that the part makes then, the counter State.draws advancing with it; what it makes verifies with the public part (R116).
That two signatures of one digest differ is said of different draws below 2^128: the bounded freshness law is the model's (log
entry 7). A job that waited for its context's discarded one enters the FIFO when that ends, a quote's ahead of those of later
stamps, so that quotes are signed in the order of their stamps (R118, R119, R166, R178; that other jobs enter at the end is log
entry 38). -/
def Obligations.QuotesAreSigned : Prop :=
  (∀ (c : Ctx) (tag : Nat) (body record : List Byte) (k : JobKind) (s : State), Executing s c 0x22 tag body .quoting →
    (s.ctx c).quote = .signing record →
      (∀ sig, JobEnding s (.ctx c) k (.signature sig) →
        ∃ t, exec .cryptoJobEnd s = .next t ∧ JobAnswers s t c 0x22 tag .ok 0 (record ++ wideBytes sig)) ∧
      (JobEnding s (.ctx c) k .noKey →
        ∃ t, exec .cryptoJobEnd s = .next t ∧ JobAnswers s t c 0x22 tag .noIdentity 0 [])) ∧
  (∀ (s : State) (j : RunningJob) (c : Ctx) (record : List Byte) (rest : List Job) (key : IdentityKey), s.running = true →
    s.crypto = ⟨some j, ⟨.ctx c, .signing record⟩ :: rest, []⟩ → j.discarded = true → s.store.working.identity = some key →
      ∃ t, exec .cryptoJobEnd s = .next t ∧ (j.job.requester ≠ .intake → t.crypto.queue = rest) ∧
        t.crypto.running =
          some ⟨⟨.ctx c, .signing record⟩, .signature (Config.ecdsaSign key.priv (Config.sha256 record) s.draws), false⟩ ∧
        t.draws = s.draws + 1) ∧
  (∀ (key : Secret) (msg : List Byte) (m n : Nat),
    signatureValid (Config.publicOf key) msg (Config.ecdsaSign key (Config.sha256 msg) n) = true ∧
      (m < n → n < 2 ^ 128 →
        Config.ecdsaSign key (Config.sha256 msg) m ≠ Config.ecdsaSign key (Config.sha256 msg) n)) ∧
  ∀ (s : State) (j : RunningJob) (x : JobKind) (c : Ctx) (later : Job → Job → Prop), s.running = true →
    s.crypto.running = some j → j.discarded = true → j.job.requester = .ctx c → s.crypto.deferred = [⟨.ctx c, x⟩] →
    (∀ a b, later a b ↔ ∃ r q, a.kind = .signing r ∧ b.kind = .signing q ∧
      numAt q 22 6 * 0x10000 + numAt q 28 2 < numAt r 22 6 * 0x10000 + numAt r 28 2) →
      ∃ t, exec .cryptoJobEnd s = .next t ∧ t.crypto.deferred = [] ∧
        ((∀ r, x ≠ .signing r) → t.crypto.fifo = s.crypto.queue ++ [⟨.ctx c, x⟩]) ∧
        (∀ pre post, s.crypto.queue = pre ++ post → (∀ a ∈ pre, ¬ later a ⟨.ctx c, x⟩) →
          (∀ a, post.head? = some a → later a ⟨.ctx c, x⟩) → t.crypto.fifo = pre ++ ⟨.ctx c, x⟩ :: post) ∧
        { t with crypto := s.crypto, draws := s.draws } = s

/-! ## The update session (chapter 5) -/

/-- UPDATE_OPEN sets the claim and queues the emptying of the inactive slot's record; STAGING_BANK moves the bank and renews the
inactivity deadline (R89, R90). -/
def Obligations.UpdateOpenAndStagingBank : Prop :=
  (∀ (c : Ctx) (tag : Nat) (body : List Byte) (s : State), Routed s c 0x30 tag body →
    ∃ t, exec (.updateOpen c) s = .next t ∧
      (s.store.working.stage = .manufacture → OnlyAnswers s t c 0x30 tag .wrongLifecycle 0 []) ∧
      (s.store.working.stage = .field →
        (body ≠ [] → OnlyAnswers s t c 0x30 tag .badLength 0 []) ∧
        (body = [] →
          ((s.store.working.records.get s.store.working.selector).state = .trial →
            OnlyAnswers s t c 0x30 tag .trialActive 0 []) ∧
          ((s.store.working.records.get s.store.working.selector).state ≠ .trial →
            ((s.intake.session.state ≠ .idle ∧ s.intake.session.state ≠ .failed) ∨ s.intake.session.claim ≠ none →
              OnlyAnswers s t c 0x30 tag .sessionState 0 []) ∧
            ((s.intake.session.state = .idle ∨ s.intake.session.state = .failed) → s.intake.session.claim = none →
              ∃ n, GoesOn s t c 0x30 tag [] .awaitWrite ∧ QueuesWrite s t c (.openSession n) ∧
                t.intake.session = { s.intake.session with claim := some n } ∧
                { t with requests := s.requests, store := s.store, intake := s.intake } = s))))) ∧
  ∀ (c : Ctx) (tag : Nat) (body : List Byte) (s : State), Routed s c 0x31 tag body → body.length = 4 →
    ∃ t, exec (.stagingBank c) s = .next t ∧
      (s.intake.session.state ≠ .receiving → OnlyAnswers s t c 0x31 tag .sessionState 0 []) ∧
      (s.intake.session.state = .receiving →
        (s.intake.session.owner ≠ some c → OnlyAnswers s t c 0x31 tag .notOwner 0 []) ∧
        (s.intake.session.owner = some c →
          (ofLe body % 0x10000 ≠ 0 → OnlyAnswers s t c 0x31 tag .badParameter 0x01 []) ∧
          ∀ (k : Slot) (u : Table), s.xlat.inForce = .table k u → ofLe body % 0x10000 = 0 →
            (s.slotSize < ofLe body + u.stagingLength → OnlyAnswers s t c 0x31 tag .badParameter 0x02 []) ∧
            (ofLe body + u.stagingLength ≤ s.slotSize →
              Answers s t c 0x31 tag .ok 0 [] ∧ AlertChange s t 0 (responseSource c) ∧
                t.intake =
                  { s.intake with
                    session := { s.intake.session with bank := ofLe body, deadline := some (s.time.tick + 60000) } } ∧
                { t with requests := s.requests, alert := s.alert, intake := s.intake } = s)))

/-- UPDATE_FINISH moves the owner's session to VERIFYING and asks for the staged manifest sector (R98, R99). With a STAGING forward
on the real flash it waits, so that none is there when the session leaves RECEIVING (R92); how a routed request can meet one, and
that it waits then, is the model's choice (log entry 35). UPDATE_STATUS gives the session record in 39 bytes and clears UPDATE
(R104). Two more choices of the model: the read of the manifest sector is submitted in the step of UPDATE_FINISH also while stream
work is left from RECEIVING, where R98 lets that go on first (log entry 36), and the job is WAITING at first, where R42 starts it on
an idle link (log entry 15). -/
def Obligations.UpdateFinishAndStatus : Prop :=
  ∀ (c : Ctx) (tag : Nat) (s : State),
    (Routed s c 0x32 tag [] →
      ∃ t, exec (.updateFinish c) s = .next t ∧
        (s.intake.session.state ≠ .receiving → OnlyAnswers s t c 0x32 tag .sessionState 0 []) ∧
        (s.intake.session.state = .receiving → s.intake.session.owner ≠ some c →
          OnlyAnswers s t c 0x32 tag .notOwner 0 []) ∧
        (∀ f, s.intake.session.state = .receiving → s.intake.session.owner = some c → s.storage.forward = some f →
          f.staging ≠ none → t = s) ∧
        (s.intake.session.state = .receiving → s.intake.session.owner = some c →
          (∀ f, s.storage.forward = some f → f.staging = none) →
          Answers s t c 0x32 tag .ok 0 [] ∧ AlertChange s t 0 (responseSource c) ∧
            t.intake =
              { s.intake with
                session := { s.intake.session with state := .verifying, deadline := none }
                work := .readManifest } ∧
            t.storage = { s.storage with job := some ⟨.update, s.stagedBase, 0x1000, s.stagedBase, [], false⟩ } ∧
            { t with requests := s.requests, alert := s.alert, intake := s.intake, storage := s.storage } = s)) ∧
    (∀ u : Table, Routed s c 0x33 tag [] → s.store.working.header = some u →
      (∀ d, s.intake.session.deadline = some d → d ≤ 0xFFFFFFFFFFFF) →
      ∃ t report, exec (.updateStatus c) s = .next t ∧ report.length = 39 ∧
        report =
          [s.intake.session.state.code,
            (match s.intake.session.owner with | some .c0 => 0x00 | some .c1 => 0x01 | none => 0xFF),
            if s.intake.session.claim.isSome then 0x01 else 0x00] ++
          le 4 s.intake.session.bank ++ le 4 s.intake.session.expected ++
          [if s.intake.session.broken then 0x01 else 0x00] ++ le 4 (s.intake.session.firstBreak.getD 0xFFFFFFFF) ++
          le 2 s.intake.session.breaks ++ le 2 s.intake.session.refusedPrograms ++
          (le 2 (u.slotSize / 0x1000 - s.intake.tracker.count .erased - s.intake.tracker.count .written) ++
            le 2 (s.intake.tracker.count .erased) ++ le 2 (s.intake.tracker.count .written)) ++
          [s.intake.session.path.code, s.intake.session.reason.code, BitVec.ofNat 8 s.intake.session.detail] ++
          le 4 s.intake.session.progress ++ le 6 (s.intake.session.deadline.getD 0) ∧
        Answers s t c 0x33 tag .ok 0 report ∧ AlertChange s t sourceUpdate (responseSource c) ∧
        { t with requests := s.requests, alert := s.alert } = s)

/-- The verification of the staged slot up to its image (R94, R98 to R101): the manifest sector read, its digest job waits until
no stream work is left, and a stream job that ends is followed by the next while bytes have gathered. Then checks 1 to 8 in their
order, the first that fails failing the session with its reason and detail, and the path of check 9: the running digest of the
stream is completed, or the image is read back. The model's choices: completing the stream's digest takes one job with an empty
block (log entry 19), and a background job asked for is WAITING at first (log entry 15). -/
def Obligations.StagedManifestIsChecked : Prop :=
  (∀ (s : State) (block : List Byte), ReadEnding s .update block → s.intake.work = .readManifest →
    ∃ t, exec .backgroundReadComplete s = .next t ∧ t.storage = { s.storage with link := .idle, job := none } ∧
      (s.intake.buffer = [] → s.intake.streamJob = false →
        t.intake = { s.intake with work := .manifestDigest block } ∧ QueuesJob s t .intake (.digest [] block true)) ∧
      (s.intake.buffer ≠ [] ∨ s.intake.streamJob = true →
        t.intake = { s.intake with work := .flush block } ∧ t.crypto.fifo = s.crypto.fifo) ∧
      { t with storage := s.storage, intake := s.intake, crypto := s.crypto, draws := s.draws } = s) ∧
  (∀ (s : State) (k : JobKind) (bytes : List Byte), JobEnding s .intake k (.absorbed bytes) → s.intake.streamJob = true →
    s.intake.session.broken = false →
      ∃ t, exec .cryptoJobEnd s = .next t ∧
        (s.intake.buffer ≠ [] →
          t.intake = { s.intake with absorbed := bytes, buffer := [] } ∧
            t.crypto.fifo = s.crypto.queue ++ [⟨.intake, .digest bytes s.intake.buffer false⟩]) ∧
        (∀ block, s.intake.buffer = [] → s.intake.work = .flush block →
          t.intake = { s.intake with absorbed := bytes, streamJob := false, work := .manifestDigest block } ∧
            t.crypto.fifo = s.crypto.queue ++ [⟨.intake, .digest [] block true⟩]) ∧
        (s.intake.buffer = [] → s.intake.work = .none →
          t.intake = { s.intake with absorbed := bytes, streamJob := false } ∧ t.crypto.fifo = s.crypto.queue) ∧
        { t with intake := s.intake, crypto := s.crypto, draws := s.draws } = s) ∧
  (∀ (s : State) (block : List Byte) (md : Digest) (k : JobKind), JobEnding s .intake k (.digest md) →
    s.intake.streamJob = false → s.intake.work = .manifestDigest block →
      ∃ t, exec .cryptoJobEnd s = .next t ∧
        (Manifest.parse block = none → FailsSession s t s.intake.session .manifestFormat 0) ∧
        ∀ m, Manifest.parse block = some m →
          (s.store.working.updateKeys[m.signer].state ≠ .active → FailsSession s t s.intake.session .keyUnusable 0) ∧
          (s.store.working.updateKeys[m.signer].state = .active →
            t.intake = { s.intake with work := .signature m md } ∧
              t.crypto.fifo = s.crypto.queue ++
                [⟨.intake, .signatureCheck s.store.working.updateKeys[m.signer].pub m.body m.signature⟩] ∧
              { t with intake := s.intake, crypto := s.crypto, draws := s.draws } = s)) ∧
  ∀ (s : State) (m : Manifest) (md : Digest) (k : JobKind) (ok : Bool), JobEnding s .intake k (.valid ok) →
    s.intake.streamJob = false → s.intake.buffer = [] → s.intake.work = .signature m md →
      ∃ t, exec .cryptoJobEnd s = .next t ∧ (ok = false → FailsSession s t s.intake.session .signature 0) ∧
        (ok = true → ¬ LengthInRange s m → FailsSession s t s.intake.session .length 0) ∧
        (ok = true → LengthInRange s m →
          (∀ u detail, m.table = some u → u.firstFailure = some detail →
            FailsSession s t s.intake.session .tableInvalid detail) ∧
          (∀ u, m.table = some u → u.firstFailure = none →
            (∀ slot w, s.xlat.inForce = .table slot w → (u.baseA, u.baseB, u.slotSize) ≠ (w.baseA, w.baseB, w.slotSize)) →
              FailsSession s t s.intake.session .geometry 0) ∧
          ((∀ u, m.table = some u → u.firstFailure = none ∧
              ∃ slot w, s.xlat.inForce = .table slot w ∧ (u.baseA, u.baseB, u.slotSize) = (w.baseA, w.baseB, w.slotSize)) →
            (m.signer ∈ m.changes.revocations → FailsSession s t s.intake.session .revokeSigner 0) ∧
            ∀ usable : Bool,
              (usable = true ↔
                (∀ a ∈ m.changes.additions, s.store.working.updateKeys[a.1].state ≠ .active ∧
                  ∀ j : Fin 4, s.store.working.updateKeys[j].state ≠ .empty → s.store.working.updateKeys[j].pub ≠ a.2) ∧
                (m.changes.additions.map (·.2)).Nodup) → m.signer ∉ m.changes.revocations →
              (usable = false → FailsSession s t s.intake.session .keyUnusable 0) ∧
              (usable = true →
                ((∃ i, i * 0x1000 < 0x1000 + m.length ∧ s.intake.tracker.getD i .stale = .stale) →
                  FailsSession s t s.intake.session .staleSectors 0) ∧
                ((∀ i, i * 0x1000 < 0x1000 + m.length → s.intake.tracker.getD i .stale ≠ .stale) →
                  (s.intake.session.broken = false → s.intake.session.expected = 0x1000 + m.length →
                    t.intake =
                        { s.intake with session := { s.intake.session with path := .stream }, work := .finishStream m md } ∧
                      t.crypto.fifo = s.crypto.queue ++ [⟨.intake, .digest s.intake.absorbed [] true⟩] ∧
                      { t with intake := s.intake, crypto := s.crypto, draws := s.draws } = s) ∧
                  (s.intake.session.broken = true ∨ s.intake.session.expected ≠ 0x1000 + m.length →
                    t.intake =
                        { s.intake with
                          session := { s.intake.session with path := .readBack }
                          work :=
                            .readBack m md ⟨0x1000 + min 4096 m.length, 0x1000 + m.length, none, [], false⟩ } ∧
                      t.storage =
                        { s.storage with
                          job := some ⟨.update, s.stagedBase + 0x1000, min 4096 m.length, s.stagedBase + 0x1000, [], false⟩ } ∧
                      t.crypto.fifo = s.crypto.queue ∧
                      { t with intake := s.intake, crypto := s.crypto, storage := s.storage, draws := s.draws } = s)))))

/-- The end of the verification of the staged slot (R101 to R103): on the READ_BACK path each block is taken by one digest job
as soon as the job ahead of it has ended, the next block is asked for then, and the progress counts the bytes whose job has
ended. The image digest of either path fails with DIGEST, then the floor fails with ROLLBACK, or the session is VERIFIED and
keeps its manifest; UPDATE is raised, and nothing is written to the retained store. That a background job asked for is WAITING
at first is the model's choice (log entry 15). -/
def Obligations.StagedImageIsChecked : Prop :=
  (∀ (s : State) (m : Manifest) (md : Digest) (p : Pipe) (block : List Byte), ReadEnding s .update block →
    s.intake.work = .readBack m md p →
      (p.jobOut = true →
        ∃ t, exec .backgroundReadComplete s = .next t ∧
          t.intake = { s.intake with work := .readBack m md { p with waiting := some block } } ∧
          t.storage = { s.storage with link := .idle, job := none } ∧ t.crypto.fifo = s.crypto.fifo ∧
          { t with intake := s.intake, storage := s.storage, crypto := s.crypto, draws := s.draws } = s) ∧
      (p.jobOut = false →
        ∃ t q job, exec .backgroundReadComplete s = .next t ∧ t.intake = { s.intake with work := .readBack m md q } ∧
          QueuesJob s t .intake job ∧ TakesBlock t .update s.stagedBase p q block job none ∧
          { t with intake := s.intake, crypto := s.crypto, storage := s.storage, draws := s.draws } = s)) ∧
  (∀ (s : State) (m : Manifest) (md : Digest) (p : Pipe) (k : JobKind) (bytes : List Byte),
    JobEnding s .intake k (.absorbed bytes) → s.intake.streamJob = false → s.intake.buffer = [] →
    s.intake.work = .readBack m md p →
      ∃ t q, exec .cryptoJobEnd s = .next t ∧
        t.intake =
          { s.intake with session := { s.intake.session with progress := bytes.length }, work := .readBack m md q } ∧
        (p.waiting = none →
          q = { p with absorbed := bytes, jobOut := false } ∧ t.crypto.fifo = s.crypto.queue ∧ t.storage = s.storage) ∧
        (∀ block, p.waiting = some block →
          ∃ job, t.crypto.fifo = s.crypto.queue ++ [⟨.intake, job⟩] ∧
            TakesBlock t .update s.stagedBase { p with absorbed := bytes, jobOut := false } q block job s.storage.job) ∧
        { t with intake := s.intake, crypto := s.crypto, storage := s.storage, draws := s.draws } = s) ∧
  ∀ (s : State) (m : Manifest) (md d : Digest) (k : JobKind) (x : Session), JobEnding s .intake k (.digest d) →
    s.intake.streamJob = false → s.intake.buffer = [] →
    (s.intake.work = .finishStream m md ∧ x = s.intake.session ∨
      (∃ p, s.intake.work = .readBack m md p) ∧ x = { s.intake.session with progress := m.length }) →
      ∃ t, exec .cryptoJobEnd s = .next t ∧ (d ≠ m.digest → FailsSession s t x .digest 0) ∧
        (d = m.digest → m.version < s.store.working.floor → FailsSession s t x .rollback 0) ∧
        (d = m.digest → s.store.working.floor ≤ m.version →
          t.intake =
              { s.intake with
                session :=
                  { x with state := .verified, manifest := some ⟨m.version, md, m.floorRaise, m.changes, m.table⟩ }
                work := .none } ∧
            t.crypto.fifo = s.crypto.queue ∧ AlertChange s t 0 sourceUpdate ∧
            { t with intake := s.intake, crypto := s.crypto, alert := s.alert, draws := s.draws } = s)

/-- UPDATE_COMMIT hands the verified slot over by one record group; UPDATE_ABORT ends the session with its background read, crypto
jobs, checks and stream bytes, from COMMIT_PENDING by a write that clears the pending flag (R45, R105, R107, R119). -/
def Obligations.UpdateCommitAndAbort : Prop :=
  (∀ (c : Ctx) (tag : Nat) (flag : Byte) (s : State), Routed s c 0x34 tag [flag] →
    ∃ t, exec (.updateCommit c) s = .next t ∧
      (1 < flag.toNat → OnlyAnswers s t c 0x34 tag .badParameter 0x01 []) ∧
      (flag.toNat ≤ 1 →
        (s.intake.session.state ≠ .verified → OnlyAnswers s t c 0x34 tag .sessionState 0 []) ∧
        ∀ m, s.intake.session.state = .verified → s.intake.session.manifest = some m →
          (s.intake.session.owner ≠ some c → OnlyAnswers s t c 0x34 tag .notOwner 0 []) ∧
          (s.intake.session.owner = some c →
            GoesOn s t c 0x34 tag [flag] .awaitWrite ∧
              QueuesWrite s t c
                (.commit m (match s.xlat.inForce with | .table _ u => some u | _ => none) (flag == 1)) ∧
              t.intake = { s.intake with session := { s.intake.session with state := .commitPending } } ∧
              { t with requests := s.requests, store := s.store, intake := s.intake } = s))) ∧
  ∀ (c : Ctx) (tag : Nat) (s : State), Routed s c 0x35 tag [] →
    ∃ t, exec (.updateAbort c) s = .next t ∧
      (s.intake.session.state = .idle → OnlyAnswers s t c 0x35 tag .sessionState 0 []) ∧
      (s.intake.session.state ≠ .idle →
        t.intake.session = Session.resting ∧ DropsIntakeWork s t ∧
          { t with
            requests := s.requests, alert := s.alert, intake := s.intake, crypto := s.crypto, storage := s.storage,
            store := s.store } = s ∧
          (s.intake.session.state = .commitPending →
            GoesOn s t c 0x35 tag [] .awaitWrite ∧ QueuesWrite s t c .clearPending ∧ t.alert = s.alert) ∧
          (s.intake.session.state ≠ .commitPending →
            Answers s t c 0x35 tag .ok 0 [] ∧ AlertChange s t 0 (responseSource c) ∧ t.store = s.store))

/-- CONTEXT_RESET clears its context's reservation and fails its own session while it is RECEIVING or VERIFYING, with the session's
background read, crypto jobs, checks and stream bytes dropped as at an abort, and the tracker kept; its response waits for a write
of the request it discarded (R45, R107, R108, R119, R150, R182), and, by the model's choice, for one of a request that was discarded
before (log entry 49). -/
def Obligations.ContextResetCleansItsContext : Prop :=
  ∀ (c : Ctx) (tag : Nat) (s : State), Routed s c 0x02 tag [] →
    ∃ t, exec (.contextReset c) s = .next t ∧
      t.creds = { s.creds with reservations := s.creds.reservations.set c .none } ∧
      (∀ own : Bool,
        own = decide (s.intake.session.owner = some c ∧
          (s.intake.session.state = .receiving ∨ s.intake.session.state = .verifying)) →
        (own = true →
          t.intake.session =
              { s.intake.session with state := .failed, reason := .aborted, detail := 0, deadline := none } ∧
            DropsIntakeWork s t) ∧
        (own = false → t.intake = s.intake ∧ t.crypto = s.crypto ∧ t.storage = s.storage) ∧
        (s.discardedWrite c = false →
          Answers s t c 0x02 tag .ok 0 [] ∧
            AlertSteps s.time.tick [(0, if own then sourceUpdate else 0), (0, responseSource c)] s.alert t.alert) ∧
        (s.discardedWrite c = true →
          GoesOn s t c 0x02 tag [] .awaitDiscarded ∧
            AlertStep s.time.tick 0 (if own then sourceUpdate else 0) s.alert t.alert)) ∧
      { t with
        requests := s.requests, alert := s.alert, intake := s.intake, crypto := s.crypto, storage := s.storage,
        creds := s.creds } = s

/-! ## Provisioning (chapter 6) -/

/-- A provisioning request takes the clear claim and is checked, in FIELD answering WRONG_LIFECYCLE; behind a claim it waits, and
the grant of the claim runs its checks as if it were routed then (R8, R122 to R125, R127). That it also waits behind a clear claim
for which another request waits, and that the grant is a step of its own, is the model's choice (log entry 21). -/
def Obligations.ProvisioningTakesTheClaim : Prop :=
  ∀ (c : Ctx) (code tag : Nat) (body : List Byte) (i : Instr) (s : State),
    (code, i) ∈ [(0x11, Instr.regionLoad c), (0x40, .identityGenerate c), (0x41, .certStore c), (0x42, .keyInject c),
      (0x45, .lifecycleAdvance c)] →
    (Routed s c code tag body →
      ∃ t, exec i s = .next t ∧
        (s.requests.claim = none → s.requests.claimQueue = [] → s.store.working.stage = .field →
          OnlyAnswers s t c code tag .wrongLifecycle 0 []) ∧
        (s.requests.claim ≠ none ∨ s.requests.claimQueue ≠ [] →
          GoesOn s t c code tag body .awaitClaim ∧ t.requests.claim = s.requests.claim ∧
            t.requests.claimQueue = s.requests.claimQueue ++ [c] ∧ { t with requests := s.requests } = s)) ∧
    (Executing s c code tag body .awaitClaim → s.requests.claim = none → s.requests.claimQueue = [c] →
      ∃ t, exec .provisioningClaimGrant s = .next t ∧
        exec i { s with
          requests :=
            { s.requests with
              ctx := s.requests.ctx.set c { s.ctx c with request := some ⟨code, tag, body, .routed⟩ }
              claimQueue := [] } } = .next t)

/-- In MANUFACTURE with the claim clear: the checks of REGION_LOAD, IDENTITY_GENERATE, CERT_STORE, KEY_INJECT and
LIFECYCLE_ADVANCE in their order, and the one write of each that passes; the drawn identity key is written with the public part
of its private key (R8, R122 to R125, R127). -/
def Obligations.ProvisioningChecks : Prop :=
  ∀ (c : Ctx) (tag : Nat) (body : List Byte) (s : State), s.store.working.stage = .manufacture →
    (s.requests.claim = none → s.requests.claimQueue = [] →
      (Routed s c 0x11 tag body →
        ∃ t, exec (.regionLoad c) s = .next t ∧
          (body.length < 16 → OnlyAnswers s t c 0x11 tag .badLength 0 []) ∧
          (16 ≤ body.length →
            (byteAt body 12 < 1 ∨ 16 < byteAt body 12 → OnlyAnswers s t c 0x11 tag .badParameter 0x01 []) ∧
            (1 ≤ byteAt body 12 → byteAt body 12 ≤ 16 →
              (body.length ≠ 16 + 12 * byteAt body 12 → OnlyAnswers s t c 0x11 tag .badLength 0 []) ∧
              (body.length = 16 + 12 * byteAt body 12 →
                (∀ detail, (Table.ofBytes body).firstFailure = some detail →
                  OnlyAnswers s t c 0x11 tag .badParameter detail []) ∧
                ((Table.ofBytes body).valid = true →
                  Provisions s t c 0x11 tag body (.loadTable (Table.ofBytes body))))))) ∧
      (Routed s c 0x40 tag body →
        ∃ t, exec (.identityGenerate c) s = .next t ∧
          (body ≠ [] → OnlyAnswers s t c 0x40 tag .badLength 0 []) ∧
          (body = [] →
            GoesOn s t c 0x40 tag [] .drawing ∧ t.requests.claim = some c ∧ { t with requests := s.requests } = s)) ∧
      (Routed s c 0x41 tag body →
        ∃ t, exec (.certStore c) s = .next t ∧
          (body = [] ∨ 2048 < body.length → OnlyAnswers s t c 0x41 tag .badLength 0 []) ∧
          (body ≠ [] → body.length ≤ 2048 →
            (s.store.working.identity = none → OnlyAnswers s t c 0x41 tag .noIdentity 0 []) ∧
            (s.store.working.identity ≠ none → Provisions s t c 0x41 tag body (.certificate body)))) ∧
      (Routed s c 0x42 tag body →
        ∃ t, exec (.keyInject c) s = .next t ∧
          (body.length ≠ 65 → OnlyAnswers s t c 0x42 tag .badLength 0 []) ∧
          ∀ pub, body.length = 65 → pub = wide (body.drop 1) →
            (byteAt body 0 < 2 ∨ 5 < byteAt body 0 → OnlyAnswers s t c 0x42 tag .badParameter 0x01 []) ∧
            ∀ k : Fin 4, byteAt body 0 = k.val + 2 →
              (Config.isPoint pub = false → OnlyAnswers s t c 0x42 tag .badParameter 0x02 []) ∧
              (Config.isPoint pub = true →
                ((∃ j : Fin 4, j ≠ k ∧ s.store.working.updateKeys[j].state ≠ .empty ∧
                    s.store.working.updateKeys[j].pub = pub) →
                  OnlyAnswers s t c 0x42 tag .badParameter 0x03 []) ∧
                ((∀ j : Fin 4, j ≠ k → s.store.working.updateKeys[j].state = .empty ∨
                    s.store.working.updateKeys[j].pub ≠ pub) →
                  Provisions s t c 0x42 tag body (.injectKey k pub)))) ∧
      (Routed s c 0x45 tag body →
        ∃ t, exec (.lifecycleAdvance c) s = .next t ∧
          (body.length ≠ 1 → OnlyAnswers s t c 0x45 tag .badLength 0 []) ∧
          ∀ flag : Byte, body = [flag] →
            (1 < flag.toNat → OnlyAnswers s t c 0x45 tag .badParameter 0x01 []) ∧
            (flag.toNat ≤ 1 →
              (s.store.working.identity = none ∨ s.store.working.derivation = none →
                OnlyAnswers s t c 0x45 tag .badParameter 0x02 []) ∧
              (s.store.working.identity ≠ none → s.store.working.derivation ≠ none →
                (s.store.working.certificate = none → OnlyAnswers s t c 0x45 tag .badParameter 0x03 []) ∧
                (s.store.working.certificate ≠ none →
                  ((∀ j : Fin 4, s.store.working.updateKeys[j].state ≠ .active) →
                    OnlyAnswers s t c 0x45 tag .badParameter 0x04 []) ∧
                  ((∃ j : Fin 4, s.store.working.updateKeys[j].state = .active) →
                    (s.store.working.tables = ⟨none, none⟩ → OnlyAnswers s t c 0x45 tag .badParameter 0x05 []) ∧
                    (s.store.working.tables ≠ ⟨none, none⟩ →
                      Provisions s t c 0x45 tag body (.advance (flag == 1))))))))) ∧
    (Executing s c 0x40 tag [] .drawing → s.requests.claim = some c →
      ∃ t priv secret, exec .identityDrawDone s = .next t ∧ GoesOn s t c 0x40 tag [] .awaitWrite ∧
        QueuesWrite s t c (.identity ⟨priv, Config.publicOf priv⟩ secret) ∧ t.requests.claim = some c ∧
        { t with requests := s.requests, store := s.store, draws := s.draws } = s)

/-! ## The storage link (chapter 2) -/

/-- The capacity handover, which ends an operation that RESET_N left on the real flash and halts a power-on class restart below 32 MiB,
and the run and the end of a background read (R2, R38, R41, R42, R54). The model's choices: whether the real flash took that
operation comes with the command (log entry 25), and what a program leaves on a cell that is not erased is free (log entry 4); a WAITING
job starts by a step of its own, where R42 starts it on an idle link at once (log entry
15), and a job that leaves the real flash stops the model; no valid table gives one (log entry 11). -/
def Obligations.CapacityAndBackgroundReads : Prop :=
  (∀ (id : Byte) (took : Bool) (s : State), s.running = true →
    (s.storage.capacity ≠ none → exec (.capacityHandover id took) s = .next s) ∧
    (s.storage.capacity = none →
      ∃ t, exec (.capacityHandover id took) s = .next t ∧
        t.storage = { s.storage with capacity := some (if 0x19 ≤ id.toNat ∧ id.toNat ≤ 0x1F then 2 ^ id.toNat else 0) } ∧
        (s.flash.busy = none → t.flash = s.flash) ∧
        (∀ op, s.flash.busy = some op →
          t.flash = ⟨if took then op.apply s.flash.mem else s.flash.mem, none⟩ ∧
            (s.FlashCanonical → OperationLeaves took op s.flash.mem t.flash.mem)) ∧
        { t with storage := s.storage, flash := s.flash, restart := s.restart } = s ∧
        (0x19 ≤ id.toNat → id.toNat ≤ 0x1F → t.restart = s.restart) ∧
        (id.toNat < 0x19 ∨ 0x1F < id.toNat → s.restart.work = .held true → s.time.bootCounted = true →
          t.restart.phase = .halted .flashSize ∧ t.restart.outcome.halt = .flashSize ∧
            t.restart.outcome.trust = .unverified ∧ t.restart.outcome.cause = s.restart.outcome.cause ∧
            t.restart.work = .none))) ∧
  (∀ (count : Nat) (s : State) (j : BackgroundJob), s.storage.job = some j →
    (s.running = false ∨ (j.running = false ∧ s.storage.link ≠ .idle) ∨ s.storage.capacity = none →
      exec (.backgroundJobRun count) s = .next s) ∧
    (s.running = true → j.running = true ∨ s.storage.link = .idle → s.storage.capacity ≠ none →
      (0x2000000 < j.start + j.length → exec (.backgroundJobRun count) s = .fault .outsideFlash) ∧
      ∀ n, j.start + j.length ≤ 0x2000000 → n = min count (j.start + j.length - j.next - 1) →
        exec (.backgroundJobRun count) s =
          .next { s with
            storage :=
              { s.storage with
                link := .background
                job :=
                  some { j with
                    running := true
                    next := j.next + n
                    bytes := j.bytes ++ (List.range n).map fun k => Memory.read s.flash.mem (j.next + k) } } })) ∧
  ∀ (s : State) (j : BackgroundJob), s.running = true → s.storage.job = some j →
    (j.running = false → exec .backgroundReadComplete s = .next s) ∧
    ∀ (v : Verify) (block : List Byte), j.running = true → j.user = .restart → s.restart.work = .readManifest v →
      block = j.bytes ++ (List.range (j.start + j.length - j.next)).map (fun k => Memory.read s.flash.mem (j.next + k)) →
        ∃ t, exec .backgroundReadComplete s = .next t ∧ t.storage = { s.storage with link := .idle, job := none } ∧
          t.restart = { s.restart with work := .manifestDigest v block } ∧
          QueuesJob s t .restart (.digest [] block true) ∧
          { t with storage := s.storage, restart := s.restart, crypto := s.crypto, draws := s.draws } = s

/-- The steps of a host forward: a substituted block erase issues its next sector erase; the last busy period's end changes the
real flash, frees the link, clears the forward's part of BUSY and sets the altered flags of the regions covered; a watch entry
of the kind whose range the forward touches gives one hit, stamped and recorded (R19, R36, R40, R77, R79, R81, R83, R137). At each
of these ends, and at the end of every other forward too, an erase leaves FFh at each of the 4 KiB or 64 KiB addresses it covers, a
program its byte at each of its cells that was erased, and every other address reads as before; an ignored operation leaves them all
so (R15, R17 to R19, R37, R40). The model's choices: whether the real flash took the operation comes with the command (R37; log entry
25), a program over a cell that is not erased leaves a free value (log entry 4), and a background job that waits for the link starts by
a step of its own (log entry 15). -/
def Obligations.HostForwardSteps : Prop :=
  (∀ (took : Bool) (s : State) (f : HostForward) (op next : FlashOp), s.running = true → s.storage.forward = some f →
    s.flash.busy = some op → f.ops[f.completed + 1]? = some next →
      exec (.hostForwardComplete took) s = .next s ∧
      ∃ t, exec (.substituteEraseNext took) s = .next t ∧
        t =
          { s with
            storage := { s.storage with forward := some { f with completed := f.completed + 1 } }
            flash := ⟨if took then op.apply s.flash.mem else s.flash.mem, some next⟩ } ∧
        (s.FlashCanonical → OperationLeaves took op s.flash.mem t.flash.mem)) ∧
  (∀ (took : Bool) (s : State) (f : HostForward) (op : FlashOp), s.running = true → s.FlashCanonical →
    s.storage.forward = some f → s.flash.busy = some op → f.ops.length ≤ f.completed + 1 →
      ∃ t, exec (.hostForwardComplete took) s = .next t ∧ t.flash.busy = none ∧
        OperationLeaves took op s.flash.mem t.flash.mem) ∧
  ∀ (took : Bool) (s : State) (f : HostForward) (op : FlashOp), s.running = true → s.EngineFed →
    s.storage.forward = some f → s.flash.busy = some op → f.ops.length ≤ f.completed + 1 → f.staging = none →
    s.xlat.loadWaits = false → f.reported = true →
      exec (.substituteEraseNext took) s = .next s ∧
      ∃ t, exec (.hostForwardComplete took) s = .next t ∧
        t.storage = { s.storage with forward := none, link := .idle } ∧
        t.flash = ⟨if took then op.apply s.flash.mem else s.flash.mem, none⟩ ∧
        (∀ i : Fin 16, t.watch.altered.getLsbD i.val =
          (s.watch.altered.getLsbD i.val || f.granules.any fun g => decide (g.2 = some i.val))) ∧
        { t with storage := s.storage, flash := s.flash, watch := s.watch, time := s.time, alert := s.alert,
                 creds := s.creds } = s ∧
        (s.watch.table = [] → s.watch.waiting = [] →
          { t.watch with altered := s.watch.altered } = s.watch ∧ t.time = s.time ∧ t.alert = s.alert ∧
            t.creds = s.creds) ∧
        ∀ (w : WatchEntry) (x : Stamp) (g : Nat × Option Nat) (rest : List (Nat × Option Nat)),
          s.watch.table = [w] → StampFree s x → f.granules = g :: rest → w.watches f.kind = true →
          w.base ≤ g.1 → g.1 < w.base + w.length → w.alert = false → w.degrade = false →
            t.watch.hits = (⟨x, f.start, f.kind, g.2, some 0⟩ :: s.watch.hits).take 8 ∧
              t.watch.trust = s.watch.trust ∧ t.alert = s.alert ∧ t.creds = s.creds ∧
              t.time = { s.time with lastStamp := some x }

/-- What else the end of a host forward can bring (R8, R36, R41, R79, R85, R86, R152): an ALERT hit raises WATCH; a DEGRADE hit
lowers a trust level above DEGRADED to it, raises TRUST_DROP, and loses each VALID reservation that covers a slot of a higher
minimum; in RELEASED a table loaded meanwhile enters force, the altered flags clear, and its REGION_LOAD is answered; a forward that an entry
into HELD overtook is reported to nobody. The model's choices: that the real flash took the operation comes with the command (log
entry 25), and a background job that waits for the link, also behind an overtaken forward, is left WAITING on the idle link and
starts by a step of its own (log entry 15). -/
def Obligations.ForwardHitsAct : Prop :=
  ∀ (took : Bool) (s : State) (f : HostForward) (op : FlashOp), s.running = true → s.EngineFed →
    s.storage.forward = some f → s.flash.busy = some op → f.ops.length ≤ f.completed + 1 →
      ∃ t, exec (.hostForwardComplete took) s = .next t ∧ t.storage = { s.storage with forward := none, link := .idle } ∧
        t.flash = ⟨if took then op.apply s.flash.mem else s.flash.mem, none⟩ ∧
        (f.reported = false → s.xlat.loadWaits = false → { t with storage := s.storage, flash := s.flash } = s) ∧
        (∀ (w : WatchEntry) (x : Stamp) (g : Nat × Option Nat) (rest : List (Nat × Option Nat)) (falls : Bool),
          f.reported = true → f.staging = none → s.xlat.loadWaits = false → s.watch.table = [w] → StampFree s x →
          f.granules = g :: rest → w.watches f.kind = true → w.inRange g.1 = true →
          (falls = true ↔ w.degrade = true ∧ (s.watch.trust = .trial ∨ s.watch.trust = .verified)) →
            t.watch.hits = (⟨x, f.start, f.kind, g.2, some 0⟩ :: s.watch.hits).take 8 ∧
              t.time = { s.time with lastStamp := some x } ∧
              t.watch.trust = (if falls then .degraded else s.watch.trust) ∧
              AlertSteps s.time.tick [(0, if w.alert then sourceWatch else 0), (0, if falls then sourceTrustDrop else 0)]
                s.alert t.alert ∧
              t.creds = { s.creds with reservations := t.creds.reservations } ∧
              (∀ c : Ctx,
                (∀ ts, s.reservation c = .valid ts →
                  t.reservation c =
                    if falls ∧ ∃ k ∈ ts, 1 < s.store.working.creds[k.1].minTrust then .lost ts else .valid ts) ∧
                ((∀ ts, s.reservation c ≠ .valid ts) → t.reservation c = s.reservation c)) ∧
              { t with
                storage := s.storage, flash := s.flash, watch := s.watch, time := s.time, alert := s.alert,
                creds := s.creds } = s) ∧
        ∀ (c : Ctx) (tag : Nat) (body : List Byte), f.staging = none → s.watch.table = [] → s.watch.waiting = [] →
          s.xlat.loadWaits = true → s.restart.phase = .released → Executing s c 0x11 tag body .awaitForce →
          s.requests.claim = some c →
          (∀ q, (s.ctx (otherCtx c)).request = some q → q.work ≠ .awaitForce) →
            t.xlat =
                ⟨match s.store.working.tables.get s.store.working.selector with
                  | some u => .table s.store.working.selector u
                  | none => if s.store.working.stage = .field then .none else .identity, false⟩ ∧
              t.watch = { s.watch with altered := 0 } ∧
              t.ctx c = ⟨.idle, [], none, none, none, .ready tag 0x11 .ok 0 [], .none⟩ ∧
              t.ctx (otherCtx c) = s.ctx (otherCtx c) ∧ t.requests.claim = none ∧ AlertChange s t 0 (responseSource c) ∧
              { t with
                storage := s.storage, flash := s.flash, xlat := s.xlat, watch := s.watch, requests := s.requests,
                alert := s.alert } = s

/-- A completed forward of the STAGING region reaches a RECEIVING session and no other (R36, R91, R93 to R95). A program marks its
sector WRITTEN and is accounted to the stream: the next expected bytes are absorbed and a digest job queued, or they wait in the
buffer while the intake has a job out, and a run at another place breaks the stream; after a break only the discontinuities are
counted; the manifest sector is no part of it. A program that wraps in its page gives two runs, and its second one breaks the
stream. An erase marks its sectors ERASED, and breaks the stream where a sector holds stream bytes, at the lowest such sector. A
background job is left WAITING on the idle link (the model's choice, log entry 15). -/
def Obligations.StagingForwardsAreAccounted : Prop :=
  ∀ (s : State) (f : HostForward) (op : FlashOp) (r : StagingReport), s.running = true → s.EngineFed →
    s.storage.forward = some f → s.flash.busy = some op → f.ops.length ≤ f.completed + 1 → f.reported = true →
    f.staging = some r → s.xlat.loadWaits = false → s.watch.table = [] → s.watch.waiting = [] →
      ∃ t, exec (.hostForwardComplete true) s = .next t ∧ t.flash = ⟨op.apply s.flash.mem, none⟩ ∧
        t.storage = { s.storage with forward := none, link := .idle } ∧
        (s.intake.session.state ≠ .receiving → t.intake = s.intake ∧ t.crypto = s.crypto) ∧
        (∀ (off : Nat) (bytes : List Byte), s.intake.session.state = .receiving → r = .program [(off, bytes)] →
          t.intake.tracker = s.intake.tracker.set (off / 0x1000) .written ∧
          (off < 0x1000 → t.intake.session = s.intake.session ∧ t.intake.buffer = s.intake.buffer ∧ t.crypto = s.crypto) ∧
          (0x1000 ≤ off → s.intake.session.broken = false → off = s.intake.session.expected →
            s.intake.buffer.length + bytes.length ≤ 4096 → bytes ≠ [] →
              t.intake.session = { s.intake.session with expected := off + bytes.length } ∧
              (NoJob s .intake →
                t.intake.buffer = [] ∧ t.intake.streamJob = true ∧
                  QueuesJob s t .intake (.digest s.intake.absorbed (s.intake.buffer ++ bytes) false)) ∧
              (¬ NoJob s .intake → t.intake.buffer = s.intake.buffer ++ bytes ∧ t.crypto = s.crypto)) ∧
          (0x1000 ≤ off → s.intake.session.broken = false →
            off ≠ s.intake.session.expected ∨ 4096 < s.intake.buffer.length + bytes.length →
              t.intake.session =
                  { s.intake.session with
                    broken := true
                    firstBreak := some off
                    breaks := satInc 0xFFFF s.intake.session.breaks
                    expected := off + bytes.length } ∧
                t.intake.buffer = [] ∧ t.intake.streamJob = false ∧
                t.crypto.queue = s.crypto.queue.filter (fun j => j.requester ≠ .intake)) ∧
          (0x1000 ≤ off → s.intake.session.broken = true →
            t.intake.session =
                { s.intake.session with
                  breaks := if off = s.intake.session.expected then s.intake.session.breaks
                    else satInc 0xFFFF s.intake.session.breaks
                  expected := off + bytes.length } ∧
              t.intake.buffer = s.intake.buffer ∧ t.crypto = s.crypto)) ∧
        (∀ (off low : Nat) (bytes wrapped : List Byte), s.intake.session.state = .receiving →
          r = .program [(off, bytes), (low, wrapped)] → low / 0x1000 = off / 0x1000 → 0x1000 ≤ low → low < off →
          s.intake.session.broken = false → off = s.intake.session.expected →
          s.intake.buffer.length + bytes.length ≤ 4096 →
            t.intake.tracker = s.intake.tracker.set (off / 0x1000) .written ∧
              t.intake.session =
                { s.intake.session with
                  broken := true
                  firstBreak := some low
                  breaks := satInc 0xFFFF s.intake.session.breaks
                  expected := low + wrapped.length } ∧
              t.intake.buffer = [] ∧ t.intake.streamJob = false ∧
              t.crypto.queue = s.crypto.queue.filter (fun j => j.requester ≠ .intake)) ∧
        (∀ (ks : List Nat) (holds : Nat → Bool), s.intake.session.state = .receiving → r = .erase ks →
          (∀ k, holds k = true ↔
            s.intake.tracker[k]? = some .written ∧ 1 ≤ k ∧ k * 0x1000 < s.intake.session.expected) →
            (∀ i : Nat, t.intake.tracker[i]? =
              if i ∈ ks then s.intake.tracker[i]?.map fun _ => .erased else s.intake.tracker[i]?) ∧
              ((∀ k ∈ ks, holds k = false) →
                t.intake.session = s.intake.session ∧ t.intake.buffer = s.intake.buffer ∧ t.crypto = s.crypto) ∧
              ∀ (pre post : List Nat) (k : Nat), ks = pre ++ k :: post → (∀ j ∈ pre, holds j = false) → holds k = true →
                t.intake.session =
                    { s.intake.session with
                      broken := true
                      firstBreak := if s.intake.session.broken then s.intake.session.firstBreak else some (k * 0x1000)
                      breaks := satInc 0xFFFF s.intake.session.breaks } ∧
                  (s.intake.session.broken = true → t.intake.buffer = s.intake.buffer ∧ t.crypto = s.crypto) ∧
                  (s.intake.session.broken = false →
                    t.intake.buffer = [] ∧ t.intake.streamJob = false ∧
                      t.crypto.queue = s.crypto.queue.filter (fun j => j.requester ≠ .intake))) ∧
        { t with
          storage := s.storage, flash := s.flash, intake := s.intake, crypto := s.crypto, watch := s.watch,
          draws := s.draws } = s

/-! ## The retained store (chapter 11) -/

/-- The store takes the oldest queued write when none is in progress, and fixes its values then, from the working copy as it then
stands (R188). A mismatch whose slot was written since leaves the queue unwritten, and its live request takes the release checks and
the lockout again, then a new compare job; a conditional group whose reservation fails leaves the queue unwritten too (R147, R148,
R155). The values of every write, with all it leaves alone: R8, R54, R57, R58, R60, R61, R89, R105, R107, R111, R112, R114, R123 to
R125, R127, R142, R143, R148, R155, R159. The model's choices: a fallback's selector stands in the group of its record, and a rejected
slot keeps its version (log entry 18); a mismatch behind a wipe that kept its slot's version FFFFFFFFh counts on the now EMPTY slot, by
R148 and against R142 (log entry 45). -/
def Obligations.RetainedWritesAreTakenInOrder : Prop :=
  (∀ (s : State) (w : Write) (rest : List Write), s.running = true → s.EngineFed → s.store.queue = w :: rest →
    (s.store.taken ≠ none → exec .retainedWriteTake s = .next s) ∧
    (s.store.taken = none →
      ((∀ k v, w.kind ≠ .mismatch k v) → (∀ rs, w.kind ≠ .credGroup rs) →
        exec .retainedWriteTake s =
          .next { s with store := { s.store with queue := rest, taken := some ⟨w, w.kind.values s.store.working⟩ } }) ∧
      (∀ c k v, w.owner = .ctx c → w.kind = .mismatch k v →
        (s.store.working.creds[k].version = v →
          exec .retainedWriteTake s =
            .next { s with store := { s.store with queue := rest, taken := some ⟨w, w.kind.values s.store.working⟩ } }) ∧
        (s.store.working.creds[k].version ≠ v → w.live = false →
          exec .retainedWriteTake s = .next { s with store := { s.store with queue := rest } }) ∧
        ∀ tag n cand, s.store.working.creds[k].version ≠ v → w.live = true →
          Executing s c 0x64 tag (n :: cand) .awaitWrite →
            ∃ t, exec .retainedWriteTake s = .next t ∧ t.store = { s.store with queue := rest } ∧
              (∀ st detail body,
                (s.store.working.creds[k].content = none ∧ st = .emptySlot ∧ detail = k.val ∧ body = [] ∨
                  ∃ x, s.store.working.creds[k].content = some x ∧
                    (s.releaseAnswer (some true) x = some st ∧ detail = k.val ∧ body = [] ∨
                      s.releaseAnswer (some true) x = none ∧ st = .lockedOut ∧ detail = 0 ∧
                        ∃ d, s.creds.lockouts[k] = some d ∧ body = le 4 (d - s.time.tick))) →
                  Answers s t c 0x64 tag st detail body ∧ AlertChange s t 0 (responseSource c) ∧
                    { t with requests := s.requests, alert := s.alert, store := s.store } = s) ∧
              ∀ x, s.store.working.creds[k].content = some x → s.releaseAnswer (some true) x = none →
                s.creds.lockouts[k] = none →
                  GoesOn s t c 0x64 tag (n :: cand) (.comparing k s.store.working.creds[k].version) ∧
                    QueuesJob s t (.ctx c) (.compare k cand) ∧
                    { t with requests := s.requests, crypto := s.crypto, store := s.store, draws := s.draws } = s) ∧
      (∀ c rs, w.owner = .ctx c → w.kind = .credGroup rs →
        (s.reservationHolds c = true ↔
          ∃ ts, s.reservation c = .valid ts ∧ ∀ y ∈ ts, s.store.working.creds[y.1].version = y.2) ∧
        (s.reservationHolds c = true →
          exec .retainedWriteTake s =
            .next { s with store := { s.store with queue := rest, taken := some ⟨w, w.kind.values s.store.working⟩ } }) ∧
        (s.reservationHolds c = false → w.live = false →
          exec .retainedWriteTake s =
            .next { s with
              store := { s.store with queue := rest }
              creds := { s.creds with reservations := s.creds.reservations.set c .none } }) ∧
        (s.reservationHolds c = false → w.live = true →
          ∀ code tag, (s.ctx c).response = .pending tag code →
            ∃ t, exec .retainedWriteTake s = .next t ∧ Answers s t c code tag .reservationLost 0 [] ∧
              t.creds = { s.creds with reservations := s.creds.reservations.set c .none } ∧
              t.store = { s.store with queue := rest })))) ∧
  (∀ (r : Retained) (i : Slot) (k : Fin 32) (m : VerifiedManifest) (md : Digest) (u : Table) (v : Nat) (flag : Bool),
    WriteKind.bootCount.values r =
      { r with bootCount := if r.bootCount < 0xFFFFFFFF then r.bootCount + 1 else r.bootCount } ∧
    WriteKind.applyCommit.values r =
      { r with
        selector := r.pendingSlot, pendingCommit := false, attempts := 3
        records := r.records.set r.pendingSlot { r.records.get r.pendingSlot with state := .trial } } ∧
    WriteKind.countAttempt.values r = { r with attempts := r.attempts - 1 } ∧
    WriteKind.revert.values r =
      { r with
        selector := r.selector.other, attempts := 0
        records := r.records.set r.selector { r.records.get r.selector with state := .rejected } } ∧
    (WriteKind.slotPass i v md flag).values r =
      { r with
        selector := if flag then i else r.selector
        records := r.records.set i
          { r.records.get i with
            state := if (r.records.get i).state = .trial then .trial else .good, version := v, digest := md } } ∧
    (WriteKind.slotReject i md).values r =
      { r with records := r.records.set i { r.records.get i with state := .rejected, digest := md } } ∧
    (WriteKind.openSession v).values r =
      { r with records := r.records.set r.selector.other ⟨.empty, 0, 0, false, ⟨[], []⟩⟩ } ∧
    (∀ inForce : Option Table, (WriteKind.commit m inForce flag).values r =
      { r with
        pendingCommit := true, pendingSlot := r.selector.other
        tables := r.tables.set r.selector.other (if m.table = none then inForce else m.table)
        records := r.records.set r.selector.other
          ⟨(r.records.get r.selector.other).state, m.version, m.digest, m.floorRaise, m.changes⟩ }) ∧
    WriteKind.clearPending.values r = { r with pendingCommit := false } ∧
    (WriteKind.loadTable u).values r = { r with tables := ⟨some u, some u⟩ } ∧
    (∀ key secret, (WriteKind.identity key secret).values r =
      { r with identity := some key, derivation := some secret, certificate := none }) ∧
    (∀ bytes, (WriteKind.certificate bytes).values r = { r with certificate := some bytes }) ∧
    (∀ (j : Fin 4) (pub : PubKey), (WriteKind.injectKey j pub).values r =
      { r with updateKeys := r.updateKeys.set j ⟨.active, .injected, pub⟩ }) ∧
    (WriteKind.advance flag).values r = { r with stage := .field, strict := flag } ∧
    (WriteKind.resetFails k).values r = { r with failCounts := r.failCounts.set k 0 } ∧
    (WriteKind.mismatch k v).values r =
      { r with failCounts := r.failCounts.set k (if r.failCounts[k] < 255 then r.failCounts[k] + 1 else r.failCounts[k]) } ∧
    (∀ j : Fin 32,
      (WriteKind.wipe.values r).creds[j] =
        ⟨none, if r.creds[j].version < 0xFFFFFFFF then r.creds[j].version + 1 else r.creds[j].version⟩ ∧
      (WriteKind.wipe.values r).failCounts[j] = 0) ∧
    { WriteKind.wipe.values r with creds := r.creds, failCounts := r.failCounts } =
      { r with ownerEpoch := r.ownerEpoch + 1 }) ∧
  (∀ r : Retained, ∃ keys : Vector UpdateKey 4,
    WriteKind.confirm.values r =
      { r with
        attempts := 0
        floor :=
          if (r.records.get r.selector).floorRaise then max r.floor (r.records.get r.selector).version else r.floor
        updateKeys := keys
        records := r.records.set r.selector { r.records.get r.selector with state := .good, changes := ⟨[], []⟩ } } ∧
    ∀ (i : Fin 4) (ch : KeyChanges), ch = (r.records.get r.selector).changes →
      (∀ pub pre post, ch.additions = pre ++ (i, pub) :: post → i ∉ post.map (·.1) → keys[i] = ⟨.active, .manifest, pub⟩) ∧
      (i ∉ ch.additions.map (·.1) →
        keys[i] =
          if i ∈ ch.revocations ∧ r.updateKeys[i].state = .active then { r.updateKeys[i] with state := .revoked }
          else r.updateKeys[i])) ∧
  ∀ (r : Retained) (rs : List (Fin 32 × Option CredContent)), (rs.map (·.1)).Nodup →
    { (WriteKind.credGroup rs).values r with creds := r.creds, failCounts := r.failCounts } = r ∧
      ∀ k : Fin 32,
        (∀ x, (k, x) ∈ rs →
          ((WriteKind.credGroup rs).values r).creds[k] =
            ⟨x, if r.creds[k].version < 0xFFFFFFFF then r.creds[k].version + 1 else r.creds[k].version⟩ ∧
          ((WriteKind.credGroup rs).values r).failCounts[k] = 0) ∧
        (k ∉ rs.map (·.1) →
          ((WriteKind.credGroup rs).values r).creds[k] = r.creds[k] ∧
            ((WriteKind.credGroup rs).values r).failCounts[k] = r.failCounts[k])

/-- A completed write stands in the working copy and the non-volatile contents whole, and the block that queued it is told in the
same step (R8, R86, R89, R105, R107, R111, R122 to R125, R127, R148, R149, R152, R155, R159, R187): its request is answered, the
provisioning claim clears with it, a loaded table enters force or waits for a host forward, a group disarms its targets' lockouts
and settles both reservations, and a commit with its flag and an advance to FIELD trigger a restart in RELEASED. The write of a
request that has been discarded has the same effects and no response of its own; a CONTEXT_RESET of its context that waits for it is
answered OK with the last such write (R178, R182), be it of an older request (log entry 49). The model's choices: outside RELEASED a loaded table is answered without a binding
in force (log entry 40) and waits for a forward (log entry 47), a commit and an advance are without a restart (log entry 28), and a
mismatch without a lockout (log entry 22); an open takes the read-back progress a FAILED session kept to 0 (log entry 42); a restart
judges the alert line once (log entry 46), and a binding that waits for a forward goes on waiting through it (log entry 47). -/
def Obligations.CompletedWritesTellTheirBlock : Prop :=
  (∀ (s : State) (w : TakenWrite), s.running = true → s.store.taken = some w →
    ∃ t, exec .retainedWriteComplete s = .next t ∧ t.store.working = w.values ∧ t.store.nonvolatile = w.values ∧
      t.store.taken = none ∧ t.flash = s.flash ∧ t.time.tick = s.time.tick ∧ t.time.wall = s.time.wall) ∧
  (∀ (s : State) (w : TakenWrite) (c : Ctx) (code tag : Nat) (body : List Byte), s.EngineFed → s.store.taken = some w →
    w.write.owner = .ctx c → w.write.live = true → Executing s c code tag body .awaitWrite →
    (∀ r, (s.ctx (otherCtx c)).request = some r → r.work ≠ .awaitDiscarded) →
      ∃ t, exec .retainedWriteComplete s = .next t ∧
        (∀ (st : Status) (reply : List Byte),
          (w.write.kind = .clearPending ∨ (∃ k, w.write.kind = .resetFails k) ∨ (∃ m u, w.write.kind = .commit m u false) ∨
                (∃ b, w.write.kind = .certificate b) ∨ (∃ k b, w.write.kind = .injectKey k b) ∨ w.write.kind = .confirm ∨
                (∃ u, w.write.kind = .loadTable u) ∧ (s.restart.phase ≠ .released ∨ s.storage.forward = none)) ∧
              st = .ok ∧ reply = [] ∨
            (∃ key secret, w.write.kind = .identity key secret ∧ st = .ok ∧ reply = be 64 key.pub.toNat) ∨
            (∃ n, w.write.kind = .openSession n ∧ s.intake.session.claim ≠ some n ∧ st = .sessionState ∧ reply = []) ∨
            (∃ rs, w.write.kind = .credGroup rs ∧ st = .ok ∧
              reply = rs.flatMap fun r => le 4 w.values.creds[r.1].version) ∨
            (∃ k v, w.write.kind = .mismatch k v ∧ st = .mismatch ∧ reply = [BitVec.ofNat 8 w.values.failCounts[k]]) ∨
            w.write.kind = .wipe ∧ st = .ok ∧ reply = le 4 w.values.ownerEpoch.toNat →
          t.ctx c = ⟨.idle, [], none, none, none, .ready tag code st 0 reply, .none⟩ ∧
            t.ctx (otherCtx c) = s.ctx (otherCtx c) ∧ ClaimAfter s t w c ∧ WriteActs s t w c [(0, responseSource c)]) ∧
        ((∃ u, w.write.kind = .loadTable u) → s.restart.phase = .released → s.storage.forward ≠ none →
          GoesOn s t c code tag body .awaitForce ∧ t.requests.claim = s.requests.claim ∧
            t.requests.claimQueue = s.requests.claimQueue ∧ WriteActs s t w c []) ∧
        (∀ cause, w.write.kind.restarts cause →
          (s.restart.phase = .released →
            (∃ a, AlertStep s.time.tick 0 (responseSource c) s.alert a ∧
              EntersHeld { s with store := ⟨w.values, w.values, s.store.queue, none⟩, alert := a } t cause) ∧
            t.pins = s.pins) ∧
          (s.restart.phase ≠ .released → OnlyAnswers { s with store := t.store } t c code tag .ok 0 [])) ∧
        ∀ n, w.write.kind = .openSession n → s.intake.session.claim = some n →
          Answers s t c code tag .ok 0 [] ∧ AlertChange s t 0 (responseSource c) ∧
            t.intake.session =
              { Session.resting with
                state := .receiving, owner := some c, deadline := some (s.time.tick + 60000) } ∧
            t.intake.tracker.all (· = .stale) = true ∧ t.intake.buffer = [] ∧
            { t with requests := s.requests, alert := s.alert, store := s.store, intake := s.intake } = s) ∧
  ∀ (s : State) (w : TakenWrite) (c : Ctx) (answered : Bool) (tag : Nat), s.running = true → s.EngineFed →
    s.store.taken = some w → w.write.owner = .ctx c → w.write.live = false →
    w.write.kind ≠ .bootCount ∧ w.write.kind.selects = false ∧ w.write.kind.records = false →
    (∀ r, (s.ctx (otherCtx c)).request = some r → r.work ≠ .awaitDiscarded) →
    (answered = true →
      Executing s c 0x02 tag [] .awaitDiscarded ∧ ∀ x ∈ s.store.queue, x.owner = .ctx c → x.live = true) →
    (answered = false →
      (∀ r, (s.ctx c).request = some r → r.work ≠ .awaitDiscarded) ∨ ∃ x ∈ s.store.queue, x.owner = .ctx c ∧ x.live = false) →
      ∃ t, exec .retainedWriteComplete s = .next t ∧
        ((∀ cause, ¬ w.write.kind.restarts cause) → (∀ n, w.write.kind = .openSession n → s.intake.session.claim ≠ some n) →
          t.ctx c =
              (if answered then ⟨.idle, [], none, none, none, .ready tag 0x02 .ok 0 [], .none⟩ else s.ctx c) ∧
            t.ctx (otherCtx c) = s.ctx (otherCtx c) ∧ ClaimAfter s t w c ∧
            WriteActs s t w c (if answered then [(0, responseSource c)] else [])) ∧
        ∀ cause, w.write.kind.restarts cause →
          (s.restart.phase = .released →
            EntersHeld { s with store := ⟨w.values, w.values, s.store.queue, none⟩ } t cause ∧ t.pins = s.pins) ∧
          (s.restart.phase ≠ .released →
            t.ctx c =
                (if answered then ⟨.idle, [], none, none, none, .ready tag 0x02 .ok 0 [], .none⟩ else s.ctx c) ∧
              t.ctx (otherCtx c) = s.ctx (otherCtx c) ∧ ClaimAfter s t w c ∧
              AlertSteps s.time.tick (if answered then [(0, responseSource c)] else []) s.alert t.alert ∧
              { t with requests := s.requests, alert := s.alert, store := s.store } = s)

/-- The completed writes of the restart controller (R54, R57 to R59, R64, R88, R136 to R138): the boot count lets stamps be issued
with the new count, serves the stamps that waited for it, and settles the halt of a part below 32 MiB; an applied commit raises its
flag in the outcome and rests the session; a counted attempt changes nothing else; a revert raises its flag and gives the slot left
the result TRIAL_EXHAUSTED; and after each of these three the slot now active is verified, its manifest sector asked for. The
model's choices: the background job is WAITING at first (log entry 15), and the halt comes when the boot count and the capacity are
both there (log entry 29). -/
def Obligations.RestartWritesTellTheirBlock : Prop :=
  ∀ (s : State) (w : TakenWrite), s.running = true → s.EngineFed → s.store.taken = some w →
    (∀ c r, (s.ctx c).request = some r → r.work ≠ .awaitDiscarded) →
      ∃ t, exec .retainedWriteComplete s = .next t ∧
        (w.write.kind = .bootCount ∨ w.write.kind = .applyCommit ∨ w.write.kind = .countAttempt ∨ w.write.kind = .revert →
          t.store = ⟨w.values, w.values, s.store.queue, none⟩) ∧
        (w.write.kind = .bootCount → s.time.waiting = [] →
          t.time = { s.time with bootCounted := true } ∧
            { t with time := s.time, store := s.store, restart := s.restart } = s ∧
            (∀ n, s.restart.work = .held true → s.storage.capacity = some n → n < 0x2000000 →
              t.restart.phase = .halted .flashSize ∧ t.restart.outcome.halt = .flashSize ∧
                t.restart.outcome.trust = .unverified ∧ t.restart.work = .none) ∧
            (s.restart.work ≠ .held true ∨ s.storage.capacity = none ∨ (∃ n, s.storage.capacity = some n ∧ 0x2000000 ≤ n) →
              t.restart = s.restart)) ∧
        (∀ h : PendingHit, w.write.kind = .bootCount → s.time.waiting = [.hit] → s.watch.waiting = [h] →
          s.time.lastStamp = none → s.time.tick ≠ 0xFFFFFFFFFFFF → w.values.bootCount ≠ 0xFFFFFFFF →
          h.alert = false → h.degrade = false → h.endsHold = false →
            t.watch.hits = (⟨⟨w.values.bootCount, s.time.tick, 0⟩, h.start, h.kind, h.region, h.entry⟩ :: s.watch.hits).take 8 ∧
              t.watch.waiting = [] ∧
              t.time =
                { s.time with
                  bootCounted := true, waiting := [], lastStamp := some ⟨w.values.bootCount, s.time.tick, 0⟩ }) ∧
        (∀ k : Slot, w.write.kind = .applyCommit ∨ w.write.kind = .countAttempt ∨ w.write.kind = .revert →
          k = w.values.selector →
            t.storage = { s.storage with job := some ⟨.restart, t.slotBase k, 0x1000, t.slotBase k, [], false⟩ } ∧
              t.restart =
                { s.restart with
                  work := .readManifest ⟨k, false⟩
                  outcome :=
                    match w.write.kind with
                    | .applyCommit => { s.restart.outcome with commitApplied := true }
                    | .revert =>
                      { s.restart.outcome with
                        reverted := true
                        results := s.restart.outcome.results.set k.other .trialExhausted }
                    | _ => s.restart.outcome } ∧
              t.intake =
                { s.intake with
                  session := if w.write.kind = .applyCommit then Session.resting else s.intake.session } ∧
              { t with storage := s.storage, restart := s.restart, intake := s.intake, store := s.store } = s)

/-! ## Laws of the whole part -/

/-- The invariants hold right after reset. -/
def Obligations.InvariantsHoldAtReset : Prop :=
  State.reset.FlashCanonical ∧ State.reset.TablesValid ∧ State.reset.FloorSound ∧ State.reset.StampSound ∧
    State.reset.EngineFed ∧ State.reset.RestartSound

/-- The real flash keeps its canonical form, and only the ends of its own busy periods and the supply change it: no command of
the host link and no request does so by itself (R36, R40). -/
def Obligations.FlashChangesOnlyByItsOperations : Prop :=
  (∀ s t : State, s.FlashCanonical → step s = .next t → t.FlashCanonical) ∧
  ∀ (i : Instr) (s t : State), exec i s = .next t → t.flash.mem ≠ s.flash.mem →
    s.flash.busy ≠ none ∧
      (i = .powerLoss ∨ (∃ a b, i = .powerOn a b) ∨ (∃ b, i = .substituteEraseNext b) ∨
        (∃ b, i = .hostForwardComplete b) ∨ ∃ id b, i = .capacityHandover id b)

/-- Every region table that the part holds stays valid: retained, in the write queue, in a verified manifest, or in force (the
law of R5). -/
def Obligations.TablesStayValid : Prop := ∀ s t : State, s.TablesValid → step s = .next t → t.TablesValid

/-- The rollback floor never decreases, and changes only when the group of a BOOT_CONFIRM completes (the law of R111). -/
def Obligations.FloorNeverFalls : Prop :=
  ∀ s t : State, s.FloorSound → step s = .next t →
    t.FloorSound ∧ s.store.working.floor ≤ t.store.working.floor ∧
      (t.store.working.floor ≠ s.store.working.floor →
        ∃ rest w, s.pending = .retainedWriteComplete :: rest ∧ s.store.taken = some w ∧ w.write.kind = .confirm)

/-- Trust rises only at the release that ends a restart and by BOOT_CONFIRM from TRIAL to VERIFIED, and the boot window opens only
at that release: no request opens it (the laws of R72 and R84). The release comes with the last digest job of its sequence, or with
the end of the host forward that a loaded table waits for (the model's choice, log entry 47). -/
def Obligations.TrustRisesAndWindowOpensOnlyAtRelease : Prop :=
  ∀ (i : Instr) (s t : State), exec i s = .next t →
    (s.watch.trust.level < t.watch.trust.level →
      (i = .cryptoJobEnd ∧ s.restart.work = .release .extend2 t.watch.trust) ∨
        ((∃ took, i = .hostForwardComplete took) ∧ s.restart.work = .release .force t.watch.trust) ∨
        (i = .retainedWriteComplete ∧ s.watch.trust = .trial ∧ t.watch.trust = .verified ∧
          ∃ w, s.store.taken = some w ∧ w.write.kind = .confirm)) ∧
    (s.restart.bootWindow = false → t.restart.bootWindow = true →
      t.restart.phase = .released ∧
        (i = .cryptoJobEnd ∧ s.restart.work = .release .extend2 t.watch.trust ∨
          (∃ took, i = .hostForwardComplete took) ∧ s.restart.work = .release .force t.watch.trust))

/-- Every stamp is greater than every stamp before it in the power cycle, and each power cycle counts its boot before it issues
one; the boot count never falls (the law of R136). -/
def Obligations.StampsAscend : Prop :=
  ∀ s t : State, s.StampSound → step s = .next t →
    t.StampSound ∧ s.store.working.bootCount ≤ t.store.working.bootCount ∧
      (s.time.bootCounted = false → t.time.bootCounted = true →
        t.store.working.bootCount = satInc 0xFFFFFFFF s.store.working.bootCount) ∧
      ∀ x y, s.time.lastStamp = some x → t.time.lastStamp = some y → x = y ∨ x.before y

/-- The crypto engine never idles while a job is queued (R118). -/
def Obligations.EngineRunsWhileJobsWait : Prop := ∀ s t : State, s.EngineFed → step s = .next t → t.EngineFed

/-- In CHECKING, and only there, the restart controller verifies a slot or waits for a write, and it waits for one write of its own
exactly while its work says so: of R57 or R58 while it selects, of R60 or R61 while it records (R46, R57 to R63). -/
def Obligations.RestartWorkFitsItsWrites : Prop := ∀ s t : State, s.RestartSound → step s = .next t → t.RestartSound

/-- A valid table has 1 to 16 descriptors, no two of them share a logical granule, none reaches the aperture, and every byte it
maps lies below physical 2000000h (R5). No program or erase reaches the active slot area under a valid table whose STAGING bank
fits its slot (the law of R13). -/
def Obligations.ValidTablesSpareTheActiveSlot : Prop :=
  (∀ u : Table, u.valid = true →
     1 ≤ u.descriptors.length ∧ u.descriptors.length ≤ 16 ∧
     (∀ (i j : Nat) (d e : Descriptor) (g : Nat), u.descriptors[i]? = some d → u.descriptors[j]? = some e → i ≠ j →
       d.covers g = true → e.covers g = false) ∧
     (∀ d ∈ u.descriptors, ∀ g, d.covers g = true → g < 0xFFC) ∧
     ∀ d ∈ u.descriptors, ∃ k, d.kind? = some k ∧
       ∀ (active : Slot) (bank o : Nat), o < d.length * 0x1000 → bank + u.stagingLength ≤ u.slotSize →
         physical u active bank d k o < 0x2000000) ∧
  ∀ (s : State) (k : Slot) (u : Table) (program : Bool) (l p : Nat), s.xlat.inForce = .table k u → u.valid = true →
    s.intake.session.bank + u.stagingLength ≤ u.slotSize → (s.translateWrite program l).verdict = .forward p →
      p < u.slotBase s.store.working.selector ∨ u.slotBase s.store.working.selector + u.slotSize ≤ p
end

