-- ==== Sys2Proof/Laws/State.lean ====
section
/-! SUPPORT. For each update of the state, one lemma for each field it leaves alone, so that no proof unfolds an update to read
another field (`@[simp]`, each true by computation). -/

namespace Sys2Proof.Machine

open Sys2Proof

variable (s : State)

@[simp] theorem State.setCtx_pending (c : Ctx) (x : Context) : (s.setCtx c x).pending = s.pending := rfl
@[simp] theorem State.setCtx_pins (c : Ctx) (x : Context) : (s.setCtx c x).pins = s.pins := rfl
@[simp] theorem State.setCtx_link (c : Ctx) (x : Context) : (s.setCtx c x).link = s.link := rfl
@[simp] theorem State.setCtx_xlat (c : Ctx) (x : Context) : (s.setCtx c x).xlat = s.xlat := rfl
@[simp] theorem State.setCtx_storage (c : Ctx) (x : Context) : (s.setCtx c x).storage = s.storage := rfl
@[simp] theorem State.setCtx_flash (c : Ctx) (x : Context) : (s.setCtx c x).flash = s.flash := rfl
@[simp] theorem State.setCtx_restart (c : Ctx) (x : Context) : (s.setCtx c x).restart = s.restart := rfl
@[simp] theorem State.setCtx_watch (c : Ctx) (x : Context) : (s.setCtx c x).watch = s.watch := rfl
@[simp] theorem State.setCtx_intake (c : Ctx) (x : Context) : (s.setCtx c x).intake = s.intake := rfl
@[simp] theorem State.setCtx_crypto (c : Ctx) (x : Context) : (s.setCtx c x).crypto = s.crypto := rfl
@[simp] theorem State.setCtx_time (c : Ctx) (x : Context) : (s.setCtx c x).time = s.time := rfl
@[simp] theorem State.setCtx_creds (c : Ctx) (x : Context) : (s.setCtx c x).creds = s.creds := rfl
@[simp] theorem State.setCtx_alert (c : Ctx) (x : Context) : (s.setCtx c x).alert = s.alert := rfl
@[simp] theorem State.setCtx_store (c : Ctx) (x : Context) : (s.setCtx c x).store = s.store := rfl
@[simp] theorem State.setCtx_draws (c : Ctx) (x : Context) : (s.setCtx c x).draws = s.draws := rfl

@[simp] theorem State.setWork_pending (c : Ctx) (w : ExecWork) : (s.setWork c w).pending = s.pending := rfl
@[simp] theorem State.setWork_pins (c : Ctx) (w : ExecWork) : (s.setWork c w).pins = s.pins := rfl
@[simp] theorem State.setWork_link (c : Ctx) (w : ExecWork) : (s.setWork c w).link = s.link := rfl
@[simp] theorem State.setWork_xlat (c : Ctx) (w : ExecWork) : (s.setWork c w).xlat = s.xlat := rfl
@[simp] theorem State.setWork_storage (c : Ctx) (w : ExecWork) : (s.setWork c w).storage = s.storage := rfl
@[simp] theorem State.setWork_flash (c : Ctx) (w : ExecWork) : (s.setWork c w).flash = s.flash := rfl
@[simp] theorem State.setWork_restart (c : Ctx) (w : ExecWork) : (s.setWork c w).restart = s.restart := rfl
@[simp] theorem State.setWork_watch (c : Ctx) (w : ExecWork) : (s.setWork c w).watch = s.watch := rfl
@[simp] theorem State.setWork_intake (c : Ctx) (w : ExecWork) : (s.setWork c w).intake = s.intake := rfl
@[simp] theorem State.setWork_crypto (c : Ctx) (w : ExecWork) : (s.setWork c w).crypto = s.crypto := rfl
@[simp] theorem State.setWork_time (c : Ctx) (w : ExecWork) : (s.setWork c w).time = s.time := rfl
@[simp] theorem State.setWork_creds (c : Ctx) (w : ExecWork) : (s.setWork c w).creds = s.creds := rfl
@[simp] theorem State.setWork_alert (c : Ctx) (w : ExecWork) : (s.setWork c w).alert = s.alert := rfl
@[simp] theorem State.setWork_store (c : Ctx) (w : ExecWork) : (s.setWork c w).store = s.store := rfl
@[simp] theorem State.setWork_draws (c : Ctx) (w : ExecWork) : (s.setWork c w).draws = s.draws := rfl

@[simp] theorem State.setQuote_pending (c : Ctx) (q : QuoteState) : (s.setQuote c q).pending = s.pending := rfl
@[simp] theorem State.setQuote_pins (c : Ctx) (q : QuoteState) : (s.setQuote c q).pins = s.pins := rfl
@[simp] theorem State.setQuote_link (c : Ctx) (q : QuoteState) : (s.setQuote c q).link = s.link := rfl
@[simp] theorem State.setQuote_xlat (c : Ctx) (q : QuoteState) : (s.setQuote c q).xlat = s.xlat := rfl
@[simp] theorem State.setQuote_storage (c : Ctx) (q : QuoteState) : (s.setQuote c q).storage = s.storage := rfl
@[simp] theorem State.setQuote_flash (c : Ctx) (q : QuoteState) : (s.setQuote c q).flash = s.flash := rfl
@[simp] theorem State.setQuote_restart (c : Ctx) (q : QuoteState) : (s.setQuote c q).restart = s.restart := rfl
@[simp] theorem State.setQuote_watch (c : Ctx) (q : QuoteState) : (s.setQuote c q).watch = s.watch := rfl
@[simp] theorem State.setQuote_intake (c : Ctx) (q : QuoteState) : (s.setQuote c q).intake = s.intake := rfl
@[simp] theorem State.setQuote_crypto (c : Ctx) (q : QuoteState) : (s.setQuote c q).crypto = s.crypto := rfl
@[simp] theorem State.setQuote_time (c : Ctx) (q : QuoteState) : (s.setQuote c q).time = s.time := rfl
@[simp] theorem State.setQuote_creds (c : Ctx) (q : QuoteState) : (s.setQuote c q).creds = s.creds := rfl
@[simp] theorem State.setQuote_alert (c : Ctx) (q : QuoteState) : (s.setQuote c q).alert = s.alert := rfl
@[simp] theorem State.setQuote_store (c : Ctx) (q : QuoteState) : (s.setQuote c q).store = s.store := rfl
@[simp] theorem State.setQuote_draws (c : Ctx) (q : QuoteState) : (s.setQuote c q).draws = s.draws := rfl

@[simp] theorem State.judged_pending (a : Alert) : (s.judged a).pending = s.pending := rfl
@[simp] theorem State.judged_pins (a : Alert) : (s.judged a).pins = s.pins := rfl
@[simp] theorem State.judged_link (a : Alert) : (s.judged a).link = s.link := rfl
@[simp] theorem State.judged_xlat (a : Alert) : (s.judged a).xlat = s.xlat := rfl
@[simp] theorem State.judged_storage (a : Alert) : (s.judged a).storage = s.storage := rfl
@[simp] theorem State.judged_flash (a : Alert) : (s.judged a).flash = s.flash := rfl
@[simp] theorem State.judged_restart (a : Alert) : (s.judged a).restart = s.restart := rfl
@[simp] theorem State.judged_watch (a : Alert) : (s.judged a).watch = s.watch := rfl
@[simp] theorem State.judged_intake (a : Alert) : (s.judged a).intake = s.intake := rfl
@[simp] theorem State.judged_crypto (a : Alert) : (s.judged a).crypto = s.crypto := rfl
@[simp] theorem State.judged_time (a : Alert) : (s.judged a).time = s.time := rfl
@[simp] theorem State.judged_creds (a : Alert) : (s.judged a).creds = s.creds := rfl
@[simp] theorem State.judged_requests (a : Alert) : (s.judged a).requests = s.requests := rfl
@[simp] theorem State.judged_store (a : Alert) : (s.judged a).store = s.store := rfl
@[simp] theorem State.judged_draws (a : Alert) : (s.judged a).draws = s.draws := rfl

@[simp] theorem State.raise_pending (b : BitVec 8) : (s.raise b).pending = s.pending := rfl
@[simp] theorem State.raise_pins (b : BitVec 8) : (s.raise b).pins = s.pins := rfl
@[simp] theorem State.raise_link (b : BitVec 8) : (s.raise b).link = s.link := rfl
@[simp] theorem State.raise_xlat (b : BitVec 8) : (s.raise b).xlat = s.xlat := rfl
@[simp] theorem State.raise_storage (b : BitVec 8) : (s.raise b).storage = s.storage := rfl
@[simp] theorem State.raise_flash (b : BitVec 8) : (s.raise b).flash = s.flash := rfl
@[simp] theorem State.raise_restart (b : BitVec 8) : (s.raise b).restart = s.restart := rfl
@[simp] theorem State.raise_watch (b : BitVec 8) : (s.raise b).watch = s.watch := rfl
@[simp] theorem State.raise_intake (b : BitVec 8) : (s.raise b).intake = s.intake := rfl
@[simp] theorem State.raise_crypto (b : BitVec 8) : (s.raise b).crypto = s.crypto := rfl
@[simp] theorem State.raise_time (b : BitVec 8) : (s.raise b).time = s.time := rfl
@[simp] theorem State.raise_creds (b : BitVec 8) : (s.raise b).creds = s.creds := rfl
@[simp] theorem State.raise_requests (b : BitVec 8) : (s.raise b).requests = s.requests := rfl
@[simp] theorem State.raise_store (b : BitVec 8) : (s.raise b).store = s.store := rfl
@[simp] theorem State.raise_draws (b : BitVec 8) : (s.raise b).draws = s.draws := rfl

@[simp] theorem State.clearSource_pending (b : BitVec 8) : (s.clearSource b).pending = s.pending := rfl
@[simp] theorem State.clearSource_pins (b : BitVec 8) : (s.clearSource b).pins = s.pins := rfl
@[simp] theorem State.clearSource_link (b : BitVec 8) : (s.clearSource b).link = s.link := rfl
@[simp] theorem State.clearSource_xlat (b : BitVec 8) : (s.clearSource b).xlat = s.xlat := rfl
@[simp] theorem State.clearSource_storage (b : BitVec 8) : (s.clearSource b).storage = s.storage := rfl
@[simp] theorem State.clearSource_flash (b : BitVec 8) : (s.clearSource b).flash = s.flash := rfl
@[simp] theorem State.clearSource_restart (b : BitVec 8) : (s.clearSource b).restart = s.restart := rfl
@[simp] theorem State.clearSource_watch (b : BitVec 8) : (s.clearSource b).watch = s.watch := rfl
@[simp] theorem State.clearSource_intake (b : BitVec 8) : (s.clearSource b).intake = s.intake := rfl
@[simp] theorem State.clearSource_crypto (b : BitVec 8) : (s.clearSource b).crypto = s.crypto := rfl
@[simp] theorem State.clearSource_time (b : BitVec 8) : (s.clearSource b).time = s.time := rfl
@[simp] theorem State.clearSource_creds (b : BitVec 8) : (s.clearSource b).creds = s.creds := rfl
@[simp] theorem State.clearSource_requests (b : BitVec 8) : (s.clearSource b).requests = s.requests := rfl
@[simp] theorem State.clearSource_store (b : BitVec 8) : (s.clearSource b).store = s.store := rfl
@[simp] theorem State.clearSource_draws (b : BitVec 8) : (s.clearSource b).draws = s.draws := rfl

@[simp] theorem State.ready_pending (c : Ctx) (tag code : Nat) (st : Status) (detail : Nat) (body : List Byte) : (s.ready c tag code st detail body).pending = s.pending := rfl
@[simp] theorem State.ready_pins (c : Ctx) (tag code : Nat) (st : Status) (detail : Nat) (body : List Byte) : (s.ready c tag code st detail body).pins = s.pins := rfl
@[simp] theorem State.ready_link (c : Ctx) (tag code : Nat) (st : Status) (detail : Nat) (body : List Byte) : (s.ready c tag code st detail body).link = s.link := rfl
@[simp] theorem State.ready_xlat (c : Ctx) (tag code : Nat) (st : Status) (detail : Nat) (body : List Byte) : (s.ready c tag code st detail body).xlat = s.xlat := rfl
@[simp] theorem State.ready_storage (c : Ctx) (tag code : Nat) (st : Status) (detail : Nat) (body : List Byte) : (s.ready c tag code st detail body).storage = s.storage := rfl
@[simp] theorem State.ready_flash (c : Ctx) (tag code : Nat) (st : Status) (detail : Nat) (body : List Byte) : (s.ready c tag code st detail body).flash = s.flash := rfl
@[simp] theorem State.ready_restart (c : Ctx) (tag code : Nat) (st : Status) (detail : Nat) (body : List Byte) : (s.ready c tag code st detail body).restart = s.restart := rfl
@[simp] theorem State.ready_watch (c : Ctx) (tag code : Nat) (st : Status) (detail : Nat) (body : List Byte) : (s.ready c tag code st detail body).watch = s.watch := rfl
@[simp] theorem State.ready_intake (c : Ctx) (tag code : Nat) (st : Status) (detail : Nat) (body : List Byte) : (s.ready c tag code st detail body).intake = s.intake := rfl
@[simp] theorem State.ready_crypto (c : Ctx) (tag code : Nat) (st : Status) (detail : Nat) (body : List Byte) : (s.ready c tag code st detail body).crypto = s.crypto := rfl
@[simp] theorem State.ready_time (c : Ctx) (tag code : Nat) (st : Status) (detail : Nat) (body : List Byte) : (s.ready c tag code st detail body).time = s.time := rfl
@[simp] theorem State.ready_creds (c : Ctx) (tag code : Nat) (st : Status) (detail : Nat) (body : List Byte) : (s.ready c tag code st detail body).creds = s.creds := rfl
@[simp] theorem State.ready_store (c : Ctx) (tag code : Nat) (st : Status) (detail : Nat) (body : List Byte) : (s.ready c tag code st detail body).store = s.store := rfl
@[simp] theorem State.ready_draws (c : Ctx) (tag code : Nat) (st : Status) (detail : Nat) (body : List Byte) : (s.ready c tag code st detail body).draws = s.draws := rfl

@[simp] theorem State.answer_pending (c : Ctx) (st : Status) (detail : Nat) (body : List Byte) : (s.answer c st detail body).pending = s.pending := rfl
@[simp] theorem State.answer_pins (c : Ctx) (st : Status) (detail : Nat) (body : List Byte) : (s.answer c st detail body).pins = s.pins := rfl
@[simp] theorem State.answer_link (c : Ctx) (st : Status) (detail : Nat) (body : List Byte) : (s.answer c st detail body).link = s.link := rfl
@[simp] theorem State.answer_xlat (c : Ctx) (st : Status) (detail : Nat) (body : List Byte) : (s.answer c st detail body).xlat = s.xlat := rfl
@[simp] theorem State.answer_storage (c : Ctx) (st : Status) (detail : Nat) (body : List Byte) : (s.answer c st detail body).storage = s.storage := rfl
@[simp] theorem State.answer_flash (c : Ctx) (st : Status) (detail : Nat) (body : List Byte) : (s.answer c st detail body).flash = s.flash := rfl
@[simp] theorem State.answer_restart (c : Ctx) (st : Status) (detail : Nat) (body : List Byte) : (s.answer c st detail body).restart = s.restart := rfl
@[simp] theorem State.answer_watch (c : Ctx) (st : Status) (detail : Nat) (body : List Byte) : (s.answer c st detail body).watch = s.watch := rfl
@[simp] theorem State.answer_intake (c : Ctx) (st : Status) (detail : Nat) (body : List Byte) : (s.answer c st detail body).intake = s.intake := rfl
@[simp] theorem State.answer_crypto (c : Ctx) (st : Status) (detail : Nat) (body : List Byte) : (s.answer c st detail body).crypto = s.crypto := rfl
@[simp] theorem State.answer_time (c : Ctx) (st : Status) (detail : Nat) (body : List Byte) : (s.answer c st detail body).time = s.time := rfl
@[simp] theorem State.answer_creds (c : Ctx) (st : Status) (detail : Nat) (body : List Byte) : (s.answer c st detail body).creds = s.creds := rfl
@[simp] theorem State.answer_store (c : Ctx) (st : Status) (detail : Nat) (body : List Byte) : (s.answer c st detail body).store = s.store := rfl
@[simp] theorem State.answer_draws (c : Ctx) (st : Status) (detail : Nat) (body : List Byte) : (s.answer c st detail body).draws = s.draws := rfl

@[simp] theorem State.answerOk_pending (c : Ctx) (body : List Byte) : (s.answerOk c body).pending = s.pending := rfl
@[simp] theorem State.answerOk_pins (c : Ctx) (body : List Byte) : (s.answerOk c body).pins = s.pins := rfl
@[simp] theorem State.answerOk_link (c : Ctx) (body : List Byte) : (s.answerOk c body).link = s.link := rfl
@[simp] theorem State.answerOk_xlat (c : Ctx) (body : List Byte) : (s.answerOk c body).xlat = s.xlat := rfl
@[simp] theorem State.answerOk_storage (c : Ctx) (body : List Byte) : (s.answerOk c body).storage = s.storage := rfl
@[simp] theorem State.answerOk_flash (c : Ctx) (body : List Byte) : (s.answerOk c body).flash = s.flash := rfl
@[simp] theorem State.answerOk_restart (c : Ctx) (body : List Byte) : (s.answerOk c body).restart = s.restart := rfl
@[simp] theorem State.answerOk_watch (c : Ctx) (body : List Byte) : (s.answerOk c body).watch = s.watch := rfl
@[simp] theorem State.answerOk_intake (c : Ctx) (body : List Byte) : (s.answerOk c body).intake = s.intake := rfl
@[simp] theorem State.answerOk_crypto (c : Ctx) (body : List Byte) : (s.answerOk c body).crypto = s.crypto := rfl
@[simp] theorem State.answerOk_time (c : Ctx) (body : List Byte) : (s.answerOk c body).time = s.time := rfl
@[simp] theorem State.answerOk_creds (c : Ctx) (body : List Byte) : (s.answerOk c body).creds = s.creds := rfl
@[simp] theorem State.answerOk_store (c : Ctx) (body : List Byte) : (s.answerOk c body).store = s.store := rfl
@[simp] theorem State.answerOk_draws (c : Ctx) (body : List Byte) : (s.answerOk c body).draws = s.draws := rfl

@[simp] theorem State.answerError_pending (c : Ctx) (st : Status) : (s.answerError c st).pending = s.pending := rfl
@[simp] theorem State.answerError_pins (c : Ctx) (st : Status) : (s.answerError c st).pins = s.pins := rfl
@[simp] theorem State.answerError_link (c : Ctx) (st : Status) : (s.answerError c st).link = s.link := rfl
@[simp] theorem State.answerError_xlat (c : Ctx) (st : Status) : (s.answerError c st).xlat = s.xlat := rfl
@[simp] theorem State.answerError_storage (c : Ctx) (st : Status) : (s.answerError c st).storage = s.storage := rfl
@[simp] theorem State.answerError_flash (c : Ctx) (st : Status) : (s.answerError c st).flash = s.flash := rfl
@[simp] theorem State.answerError_restart (c : Ctx) (st : Status) : (s.answerError c st).restart = s.restart := rfl
@[simp] theorem State.answerError_watch (c : Ctx) (st : Status) : (s.answerError c st).watch = s.watch := rfl
@[simp] theorem State.answerError_intake (c : Ctx) (st : Status) : (s.answerError c st).intake = s.intake := rfl
@[simp] theorem State.answerError_crypto (c : Ctx) (st : Status) : (s.answerError c st).crypto = s.crypto := rfl
@[simp] theorem State.answerError_time (c : Ctx) (st : Status) : (s.answerError c st).time = s.time := rfl
@[simp] theorem State.answerError_creds (c : Ctx) (st : Status) : (s.answerError c st).creds = s.creds := rfl
@[simp] theorem State.answerError_store (c : Ctx) (st : Status) : (s.answerError c st).store = s.store := rfl
@[simp] theorem State.answerError_draws (c : Ctx) (st : Status) : (s.answerError c st).draws = s.draws := rfl

@[simp] theorem State.answerParameter_pending (c : Ctx) (detail : Nat) : (s.answerParameter c detail).pending = s.pending := rfl
@[simp] theorem State.answerParameter_pins (c : Ctx) (detail : Nat) : (s.answerParameter c detail).pins = s.pins := rfl
@[simp] theorem State.answerParameter_link (c : Ctx) (detail : Nat) : (s.answerParameter c detail).link = s.link := rfl
@[simp] theorem State.answerParameter_xlat (c : Ctx) (detail : Nat) : (s.answerParameter c detail).xlat = s.xlat := rfl
@[simp] theorem State.answerParameter_storage (c : Ctx) (detail : Nat) : (s.answerParameter c detail).storage = s.storage := rfl
@[simp] theorem State.answerParameter_flash (c : Ctx) (detail : Nat) : (s.answerParameter c detail).flash = s.flash := rfl
@[simp] theorem State.answerParameter_restart (c : Ctx) (detail : Nat) : (s.answerParameter c detail).restart = s.restart := rfl
@[simp] theorem State.answerParameter_watch (c : Ctx) (detail : Nat) : (s.answerParameter c detail).watch = s.watch := rfl
@[simp] theorem State.answerParameter_intake (c : Ctx) (detail : Nat) : (s.answerParameter c detail).intake = s.intake := rfl
@[simp] theorem State.answerParameter_crypto (c : Ctx) (detail : Nat) : (s.answerParameter c detail).crypto = s.crypto := rfl
@[simp] theorem State.answerParameter_time (c : Ctx) (detail : Nat) : (s.answerParameter c detail).time = s.time := rfl
@[simp] theorem State.answerParameter_creds (c : Ctx) (detail : Nat) : (s.answerParameter c detail).creds = s.creds := rfl
@[simp] theorem State.answerParameter_store (c : Ctx) (detail : Nat) : (s.answerParameter c detail).store = s.store := rfl
@[simp] theorem State.answerParameter_draws (c : Ctx) (detail : Nat) : (s.answerParameter c detail).draws = s.draws := rfl

@[simp] theorem State.setDecoder_pending (d : Decoder) : (s.setDecoder d).pending = s.pending := rfl
@[simp] theorem State.setDecoder_pins (d : Decoder) : (s.setDecoder d).pins = s.pins := rfl
@[simp] theorem State.setDecoder_xlat (d : Decoder) : (s.setDecoder d).xlat = s.xlat := rfl
@[simp] theorem State.setDecoder_storage (d : Decoder) : (s.setDecoder d).storage = s.storage := rfl
@[simp] theorem State.setDecoder_flash (d : Decoder) : (s.setDecoder d).flash = s.flash := rfl
@[simp] theorem State.setDecoder_restart (d : Decoder) : (s.setDecoder d).restart = s.restart := rfl
@[simp] theorem State.setDecoder_watch (d : Decoder) : (s.setDecoder d).watch = s.watch := rfl
@[simp] theorem State.setDecoder_intake (d : Decoder) : (s.setDecoder d).intake = s.intake := rfl
@[simp] theorem State.setDecoder_crypto (d : Decoder) : (s.setDecoder d).crypto = s.crypto := rfl
@[simp] theorem State.setDecoder_time (d : Decoder) : (s.setDecoder d).time = s.time := rfl
@[simp] theorem State.setDecoder_creds (d : Decoder) : (s.setDecoder d).creds = s.creds := rfl
@[simp] theorem State.setDecoder_requests (d : Decoder) : (s.setDecoder d).requests = s.requests := rfl
@[simp] theorem State.setDecoder_alert (d : Decoder) : (s.setDecoder d).alert = s.alert := rfl
@[simp] theorem State.setDecoder_store (d : Decoder) : (s.setDecoder d).store = s.store := rfl
@[simp] theorem State.setDecoder_draws (d : Decoder) : (s.setDecoder d).draws = s.draws := rfl

@[simp] theorem State.clearWel_pending : (s.clearWel).pending = s.pending := rfl
@[simp] theorem State.clearWel_pins : (s.clearWel).pins = s.pins := rfl
@[simp] theorem State.clearWel_xlat : (s.clearWel).xlat = s.xlat := rfl
@[simp] theorem State.clearWel_storage : (s.clearWel).storage = s.storage := rfl
@[simp] theorem State.clearWel_flash : (s.clearWel).flash = s.flash := rfl
@[simp] theorem State.clearWel_restart : (s.clearWel).restart = s.restart := rfl
@[simp] theorem State.clearWel_watch : (s.clearWel).watch = s.watch := rfl
@[simp] theorem State.clearWel_intake : (s.clearWel).intake = s.intake := rfl
@[simp] theorem State.clearWel_crypto : (s.clearWel).crypto = s.crypto := rfl
@[simp] theorem State.clearWel_time : (s.clearWel).time = s.time := rfl
@[simp] theorem State.clearWel_creds : (s.clearWel).creds = s.creds := rfl
@[simp] theorem State.clearWel_requests : (s.clearWel).requests = s.requests := rfl
@[simp] theorem State.clearWel_alert : (s.clearWel).alert = s.alert := rfl
@[simp] theorem State.clearWel_store : (s.clearWel).store = s.store := rfl
@[simp] theorem State.clearWel_draws : (s.clearWel).draws = s.draws := rfl

@[simp] theorem State.enqueueWrite_pending (r : Requester) (k : WriteKind) : (s.enqueueWrite r k).pending = s.pending := rfl
@[simp] theorem State.enqueueWrite_pins (r : Requester) (k : WriteKind) : (s.enqueueWrite r k).pins = s.pins := rfl
@[simp] theorem State.enqueueWrite_link (r : Requester) (k : WriteKind) : (s.enqueueWrite r k).link = s.link := rfl
@[simp] theorem State.enqueueWrite_xlat (r : Requester) (k : WriteKind) : (s.enqueueWrite r k).xlat = s.xlat := rfl
@[simp] theorem State.enqueueWrite_storage (r : Requester) (k : WriteKind) : (s.enqueueWrite r k).storage = s.storage := rfl
@[simp] theorem State.enqueueWrite_flash (r : Requester) (k : WriteKind) : (s.enqueueWrite r k).flash = s.flash := rfl
@[simp] theorem State.enqueueWrite_restart (r : Requester) (k : WriteKind) : (s.enqueueWrite r k).restart = s.restart := rfl
@[simp] theorem State.enqueueWrite_watch (r : Requester) (k : WriteKind) : (s.enqueueWrite r k).watch = s.watch := rfl
@[simp] theorem State.enqueueWrite_intake (r : Requester) (k : WriteKind) : (s.enqueueWrite r k).intake = s.intake := rfl
@[simp] theorem State.enqueueWrite_crypto (r : Requester) (k : WriteKind) : (s.enqueueWrite r k).crypto = s.crypto := rfl
@[simp] theorem State.enqueueWrite_time (r : Requester) (k : WriteKind) : (s.enqueueWrite r k).time = s.time := rfl
@[simp] theorem State.enqueueWrite_creds (r : Requester) (k : WriteKind) : (s.enqueueWrite r k).creds = s.creds := rfl
@[simp] theorem State.enqueueWrite_requests (r : Requester) (k : WriteKind) : (s.enqueueWrite r k).requests = s.requests := rfl
@[simp] theorem State.enqueueWrite_alert (r : Requester) (k : WriteKind) : (s.enqueueWrite r k).alert = s.alert := rfl
@[simp] theorem State.enqueueWrite_draws (r : Requester) (k : WriteKind) : (s.enqueueWrite r k).draws = s.draws := rfl

@[simp] theorem State.requestWrite_pending (c : Ctx) (k : WriteKind) : (s.requestWrite c k).pending = s.pending := rfl
@[simp] theorem State.requestWrite_pins (c : Ctx) (k : WriteKind) : (s.requestWrite c k).pins = s.pins := rfl
@[simp] theorem State.requestWrite_link (c : Ctx) (k : WriteKind) : (s.requestWrite c k).link = s.link := rfl
@[simp] theorem State.requestWrite_xlat (c : Ctx) (k : WriteKind) : (s.requestWrite c k).xlat = s.xlat := rfl
@[simp] theorem State.requestWrite_storage (c : Ctx) (k : WriteKind) : (s.requestWrite c k).storage = s.storage := rfl
@[simp] theorem State.requestWrite_flash (c : Ctx) (k : WriteKind) : (s.requestWrite c k).flash = s.flash := rfl
@[simp] theorem State.requestWrite_restart (c : Ctx) (k : WriteKind) : (s.requestWrite c k).restart = s.restart := rfl
@[simp] theorem State.requestWrite_watch (c : Ctx) (k : WriteKind) : (s.requestWrite c k).watch = s.watch := rfl
@[simp] theorem State.requestWrite_intake (c : Ctx) (k : WriteKind) : (s.requestWrite c k).intake = s.intake := rfl
@[simp] theorem State.requestWrite_crypto (c : Ctx) (k : WriteKind) : (s.requestWrite c k).crypto = s.crypto := rfl
@[simp] theorem State.requestWrite_time (c : Ctx) (k : WriteKind) : (s.requestWrite c k).time = s.time := rfl
@[simp] theorem State.requestWrite_creds (c : Ctx) (k : WriteKind) : (s.requestWrite c k).creds = s.creds := rfl
@[simp] theorem State.requestWrite_alert (c : Ctx) (k : WriteKind) : (s.requestWrite c k).alert = s.alert := rfl
@[simp] theorem State.requestWrite_draws (c : Ctx) (k : WriteKind) : (s.requestWrite c k).draws = s.draws := rfl

@[simp] theorem State.removeJobs_pending (r : Requester) : (s.removeJobs r).pending = s.pending := rfl
@[simp] theorem State.removeJobs_pins (r : Requester) : (s.removeJobs r).pins = s.pins := rfl
@[simp] theorem State.removeJobs_link (r : Requester) : (s.removeJobs r).link = s.link := rfl
@[simp] theorem State.removeJobs_xlat (r : Requester) : (s.removeJobs r).xlat = s.xlat := rfl
@[simp] theorem State.removeJobs_storage (r : Requester) : (s.removeJobs r).storage = s.storage := rfl
@[simp] theorem State.removeJobs_flash (r : Requester) : (s.removeJobs r).flash = s.flash := rfl
@[simp] theorem State.removeJobs_restart (r : Requester) : (s.removeJobs r).restart = s.restart := rfl
@[simp] theorem State.removeJobs_watch (r : Requester) : (s.removeJobs r).watch = s.watch := rfl
@[simp] theorem State.removeJobs_intake (r : Requester) : (s.removeJobs r).intake = s.intake := rfl
@[simp] theorem State.removeJobs_time (r : Requester) : (s.removeJobs r).time = s.time := rfl
@[simp] theorem State.removeJobs_creds (r : Requester) : (s.removeJobs r).creds = s.creds := rfl
@[simp] theorem State.removeJobs_requests (r : Requester) : (s.removeJobs r).requests = s.requests := rfl
@[simp] theorem State.removeJobs_alert (r : Requester) : (s.removeJobs r).alert = s.alert := rfl
@[simp] theorem State.removeJobs_store (r : Requester) : (s.removeJobs r).store = s.store := rfl
@[simp] theorem State.removeJobs_draws (r : Requester) : (s.removeJobs r).draws = s.draws := rfl

@[simp] theorem State.enterDeferred_pending (r : Requester) : (s.enterDeferred r).pending = s.pending := rfl
@[simp] theorem State.enterDeferred_pins (r : Requester) : (s.enterDeferred r).pins = s.pins := rfl
@[simp] theorem State.enterDeferred_link (r : Requester) : (s.enterDeferred r).link = s.link := rfl
@[simp] theorem State.enterDeferred_xlat (r : Requester) : (s.enterDeferred r).xlat = s.xlat := rfl
@[simp] theorem State.enterDeferred_storage (r : Requester) : (s.enterDeferred r).storage = s.storage := rfl
@[simp] theorem State.enterDeferred_flash (r : Requester) : (s.enterDeferred r).flash = s.flash := rfl
@[simp] theorem State.enterDeferred_restart (r : Requester) : (s.enterDeferred r).restart = s.restart := rfl
@[simp] theorem State.enterDeferred_watch (r : Requester) : (s.enterDeferred r).watch = s.watch := rfl
@[simp] theorem State.enterDeferred_intake (r : Requester) : (s.enterDeferred r).intake = s.intake := rfl
@[simp] theorem State.enterDeferred_time (r : Requester) : (s.enterDeferred r).time = s.time := rfl
@[simp] theorem State.enterDeferred_creds (r : Requester) : (s.enterDeferred r).creds = s.creds := rfl
@[simp] theorem State.enterDeferred_requests (r : Requester) : (s.enterDeferred r).requests = s.requests := rfl
@[simp] theorem State.enterDeferred_alert (r : Requester) : (s.enterDeferred r).alert = s.alert := rfl
@[simp] theorem State.enterDeferred_store (r : Requester) : (s.enterDeferred r).store = s.store := rfl
@[simp] theorem State.enterDeferred_draws (r : Requester) : (s.enterDeferred r).draws = s.draws := rfl

@[simp] theorem State.submitRead_pending (u : JobUser) (start length : Nat) : (s.submitRead u start length).pending = s.pending := rfl
@[simp] theorem State.submitRead_pins (u : JobUser) (start length : Nat) : (s.submitRead u start length).pins = s.pins := rfl
@[simp] theorem State.submitRead_link (u : JobUser) (start length : Nat) : (s.submitRead u start length).link = s.link := rfl
@[simp] theorem State.submitRead_xlat (u : JobUser) (start length : Nat) : (s.submitRead u start length).xlat = s.xlat := rfl
@[simp] theorem State.submitRead_flash (u : JobUser) (start length : Nat) : (s.submitRead u start length).flash = s.flash := rfl
@[simp] theorem State.submitRead_restart (u : JobUser) (start length : Nat) : (s.submitRead u start length).restart = s.restart := rfl
@[simp] theorem State.submitRead_watch (u : JobUser) (start length : Nat) : (s.submitRead u start length).watch = s.watch := rfl
@[simp] theorem State.submitRead_intake (u : JobUser) (start length : Nat) : (s.submitRead u start length).intake = s.intake := rfl
@[simp] theorem State.submitRead_crypto (u : JobUser) (start length : Nat) : (s.submitRead u start length).crypto = s.crypto := rfl
@[simp] theorem State.submitRead_time (u : JobUser) (start length : Nat) : (s.submitRead u start length).time = s.time := rfl
@[simp] theorem State.submitRead_creds (u : JobUser) (start length : Nat) : (s.submitRead u start length).creds = s.creds := rfl
@[simp] theorem State.submitRead_requests (u : JobUser) (start length : Nat) : (s.submitRead u start length).requests = s.requests := rfl
@[simp] theorem State.submitRead_alert (u : JobUser) (start length : Nat) : (s.submitRead u start length).alert = s.alert := rfl
@[simp] theorem State.submitRead_store (u : JobUser) (start length : Nat) : (s.submitRead u start length).store = s.store := rfl
@[simp] theorem State.submitRead_draws (u : JobUser) (start length : Nat) : (s.submitRead u start length).draws = s.draws := rfl

@[simp] theorem State.issue_pending (x : Stamp) : (s.issue x).pending = s.pending := rfl
@[simp] theorem State.issue_pins (x : Stamp) : (s.issue x).pins = s.pins := rfl
@[simp] theorem State.issue_link (x : Stamp) : (s.issue x).link = s.link := rfl
@[simp] theorem State.issue_xlat (x : Stamp) : (s.issue x).xlat = s.xlat := rfl
@[simp] theorem State.issue_storage (x : Stamp) : (s.issue x).storage = s.storage := rfl
@[simp] theorem State.issue_flash (x : Stamp) : (s.issue x).flash = s.flash := rfl
@[simp] theorem State.issue_restart (x : Stamp) : (s.issue x).restart = s.restart := rfl
@[simp] theorem State.issue_watch (x : Stamp) : (s.issue x).watch = s.watch := rfl
@[simp] theorem State.issue_intake (x : Stamp) : (s.issue x).intake = s.intake := rfl
@[simp] theorem State.issue_crypto (x : Stamp) : (s.issue x).crypto = s.crypto := rfl
@[simp] theorem State.issue_creds (x : Stamp) : (s.issue x).creds = s.creds := rfl
@[simp] theorem State.issue_requests (x : Stamp) : (s.issue x).requests = s.requests := rfl
@[simp] theorem State.issue_alert (x : Stamp) : (s.issue x).alert = s.alert := rfl
@[simp] theorem State.issue_store (x : Stamp) : (s.issue x).store = s.store := rfl
@[simp] theorem State.issue_draws (x : Stamp) : (s.issue x).draws = s.draws := rfl

@[simp] theorem State.waitStamp_pending (r : StampRequest) : (s.waitStamp r).pending = s.pending := rfl
@[simp] theorem State.waitStamp_pins (r : StampRequest) : (s.waitStamp r).pins = s.pins := rfl
@[simp] theorem State.waitStamp_link (r : StampRequest) : (s.waitStamp r).link = s.link := rfl
@[simp] theorem State.waitStamp_xlat (r : StampRequest) : (s.waitStamp r).xlat = s.xlat := rfl
@[simp] theorem State.waitStamp_storage (r : StampRequest) : (s.waitStamp r).storage = s.storage := rfl
@[simp] theorem State.waitStamp_flash (r : StampRequest) : (s.waitStamp r).flash = s.flash := rfl
@[simp] theorem State.waitStamp_restart (r : StampRequest) : (s.waitStamp r).restart = s.restart := rfl
@[simp] theorem State.waitStamp_watch (r : StampRequest) : (s.waitStamp r).watch = s.watch := rfl
@[simp] theorem State.waitStamp_intake (r : StampRequest) : (s.waitStamp r).intake = s.intake := rfl
@[simp] theorem State.waitStamp_crypto (r : StampRequest) : (s.waitStamp r).crypto = s.crypto := rfl
@[simp] theorem State.waitStamp_creds (r : StampRequest) : (s.waitStamp r).creds = s.creds := rfl
@[simp] theorem State.waitStamp_requests (r : StampRequest) : (s.waitStamp r).requests = s.requests := rfl
@[simp] theorem State.waitStamp_alert (r : StampRequest) : (s.waitStamp r).alert = s.alert := rfl
@[simp] theorem State.waitStamp_store (r : StampRequest) : (s.waitStamp r).store = s.store := rfl
@[simp] theorem State.waitStamp_draws (r : StampRequest) : (s.waitStamp r).draws = s.draws := rfl

@[simp] theorem State.unwaitStamp_pending (r : StampRequest) : (s.unwaitStamp r).pending = s.pending := rfl
@[simp] theorem State.unwaitStamp_pins (r : StampRequest) : (s.unwaitStamp r).pins = s.pins := rfl
@[simp] theorem State.unwaitStamp_link (r : StampRequest) : (s.unwaitStamp r).link = s.link := rfl
@[simp] theorem State.unwaitStamp_xlat (r : StampRequest) : (s.unwaitStamp r).xlat = s.xlat := rfl
@[simp] theorem State.unwaitStamp_storage (r : StampRequest) : (s.unwaitStamp r).storage = s.storage := rfl
@[simp] theorem State.unwaitStamp_flash (r : StampRequest) : (s.unwaitStamp r).flash = s.flash := rfl
@[simp] theorem State.unwaitStamp_restart (r : StampRequest) : (s.unwaitStamp r).restart = s.restart := rfl
@[simp] theorem State.unwaitStamp_watch (r : StampRequest) : (s.unwaitStamp r).watch = s.watch := rfl
@[simp] theorem State.unwaitStamp_intake (r : StampRequest) : (s.unwaitStamp r).intake = s.intake := rfl
@[simp] theorem State.unwaitStamp_crypto (r : StampRequest) : (s.unwaitStamp r).crypto = s.crypto := rfl
@[simp] theorem State.unwaitStamp_creds (r : StampRequest) : (s.unwaitStamp r).creds = s.creds := rfl
@[simp] theorem State.unwaitStamp_requests (r : StampRequest) : (s.unwaitStamp r).requests = s.requests := rfl
@[simp] theorem State.unwaitStamp_alert (r : StampRequest) : (s.unwaitStamp r).alert = s.alert := rfl
@[simp] theorem State.unwaitStamp_store (r : StampRequest) : (s.unwaitStamp r).store = s.store := rfl
@[simp] theorem State.unwaitStamp_draws (r : StampRequest) : (s.unwaitStamp r).draws = s.draws := rfl

@[simp] theorem State.addHit_pending (h : PendingHit) (x : Stamp) : (s.addHit h x).pending = s.pending := rfl
@[simp] theorem State.addHit_pins (h : PendingHit) (x : Stamp) : (s.addHit h x).pins = s.pins := rfl
@[simp] theorem State.addHit_link (h : PendingHit) (x : Stamp) : (s.addHit h x).link = s.link := rfl
@[simp] theorem State.addHit_xlat (h : PendingHit) (x : Stamp) : (s.addHit h x).xlat = s.xlat := rfl
@[simp] theorem State.addHit_storage (h : PendingHit) (x : Stamp) : (s.addHit h x).storage = s.storage := rfl
@[simp] theorem State.addHit_flash (h : PendingHit) (x : Stamp) : (s.addHit h x).flash = s.flash := rfl
@[simp] theorem State.addHit_restart (h : PendingHit) (x : Stamp) : (s.addHit h x).restart = s.restart := rfl
@[simp] theorem State.addHit_intake (h : PendingHit) (x : Stamp) : (s.addHit h x).intake = s.intake := rfl
@[simp] theorem State.addHit_crypto (h : PendingHit) (x : Stamp) : (s.addHit h x).crypto = s.crypto := rfl
@[simp] theorem State.addHit_time (h : PendingHit) (x : Stamp) : (s.addHit h x).time = s.time := rfl
@[simp] theorem State.addHit_creds (h : PendingHit) (x : Stamp) : (s.addHit h x).creds = s.creds := rfl
@[simp] theorem State.addHit_requests (h : PendingHit) (x : Stamp) : (s.addHit h x).requests = s.requests := rfl
@[simp] theorem State.addHit_alert (h : PendingHit) (x : Stamp) : (s.addHit h x).alert = s.alert := rfl
@[simp] theorem State.addHit_store (h : PendingHit) (x : Stamp) : (s.addHit h x).store = s.store := rfl
@[simp] theorem State.addHit_draws (h : PendingHit) (x : Stamp) : (s.addHit h x).draws = s.draws := rfl

@[simp] theorem State.holdClear_pending : (s.holdClear).pending = s.pending := rfl
@[simp] theorem State.holdClear_pins : (s.holdClear).pins = s.pins := rfl
@[simp] theorem State.holdClear_link : (s.holdClear).link = s.link := rfl
@[simp] theorem State.holdClear_xlat : (s.holdClear).xlat = s.xlat := rfl
@[simp] theorem State.holdClear_storage : (s.holdClear).storage = s.storage := rfl
@[simp] theorem State.holdClear_flash : (s.holdClear).flash = s.flash := rfl
@[simp] theorem State.holdClear_restart : (s.holdClear).restart = s.restart := rfl
@[simp] theorem State.holdClear_intake : (s.holdClear).intake = s.intake := rfl
@[simp] theorem State.holdClear_crypto : (s.holdClear).crypto = s.crypto := rfl
@[simp] theorem State.holdClear_time : (s.holdClear).time = s.time := rfl
@[simp] theorem State.holdClear_creds : (s.holdClear).creds = s.creds := rfl
@[simp] theorem State.holdClear_requests : (s.holdClear).requests = s.requests := rfl
@[simp] theorem State.holdClear_alert : (s.holdClear).alert = s.alert := rfl
@[simp] theorem State.holdClear_store : (s.holdClear).store = s.store := rfl
@[simp] theorem State.holdClear_draws : (s.holdClear).draws = s.draws := rfl

@[simp] theorem State.setRegister_pending (n : Fin 8) (d : Digest) : (s.setRegister n d).pending = s.pending := rfl
@[simp] theorem State.setRegister_pins (n : Fin 8) (d : Digest) : (s.setRegister n d).pins = s.pins := rfl
@[simp] theorem State.setRegister_link (n : Fin 8) (d : Digest) : (s.setRegister n d).link = s.link := rfl
@[simp] theorem State.setRegister_xlat (n : Fin 8) (d : Digest) : (s.setRegister n d).xlat = s.xlat := rfl
@[simp] theorem State.setRegister_storage (n : Fin 8) (d : Digest) : (s.setRegister n d).storage = s.storage := rfl
@[simp] theorem State.setRegister_flash (n : Fin 8) (d : Digest) : (s.setRegister n d).flash = s.flash := rfl
@[simp] theorem State.setRegister_restart (n : Fin 8) (d : Digest) : (s.setRegister n d).restart = s.restart := rfl
@[simp] theorem State.setRegister_intake (n : Fin 8) (d : Digest) : (s.setRegister n d).intake = s.intake := rfl
@[simp] theorem State.setRegister_crypto (n : Fin 8) (d : Digest) : (s.setRegister n d).crypto = s.crypto := rfl
@[simp] theorem State.setRegister_time (n : Fin 8) (d : Digest) : (s.setRegister n d).time = s.time := rfl
@[simp] theorem State.setRegister_creds (n : Fin 8) (d : Digest) : (s.setRegister n d).creds = s.creds := rfl
@[simp] theorem State.setRegister_requests (n : Fin 8) (d : Digest) : (s.setRegister n d).requests = s.requests := rfl
@[simp] theorem State.setRegister_alert (n : Fin 8) (d : Digest) : (s.setRegister n d).alert = s.alert := rfl
@[simp] theorem State.setRegister_store (n : Fin 8) (d : Digest) : (s.setRegister n d).store = s.store := rfl
@[simp] theorem State.setRegister_draws (n : Fin 8) (d : Digest) : (s.setRegister n d).draws = s.draws := rfl

@[simp] theorem State.setSession_pending (x : Session) : (s.setSession x).pending = s.pending := rfl
@[simp] theorem State.setSession_pins (x : Session) : (s.setSession x).pins = s.pins := rfl
@[simp] theorem State.setSession_link (x : Session) : (s.setSession x).link = s.link := rfl
@[simp] theorem State.setSession_xlat (x : Session) : (s.setSession x).xlat = s.xlat := rfl
@[simp] theorem State.setSession_storage (x : Session) : (s.setSession x).storage = s.storage := rfl
@[simp] theorem State.setSession_flash (x : Session) : (s.setSession x).flash = s.flash := rfl
@[simp] theorem State.setSession_restart (x : Session) : (s.setSession x).restart = s.restart := rfl
@[simp] theorem State.setSession_watch (x : Session) : (s.setSession x).watch = s.watch := rfl
@[simp] theorem State.setSession_crypto (x : Session) : (s.setSession x).crypto = s.crypto := rfl
@[simp] theorem State.setSession_time (x : Session) : (s.setSession x).time = s.time := rfl
@[simp] theorem State.setSession_creds (x : Session) : (s.setSession x).creds = s.creds := rfl
@[simp] theorem State.setSession_requests (x : Session) : (s.setSession x).requests = s.requests := rfl
@[simp] theorem State.setSession_alert (x : Session) : (s.setSession x).alert = s.alert := rfl
@[simp] theorem State.setSession_store (x : Session) : (s.setSession x).store = s.store := rfl
@[simp] theorem State.setSession_draws (x : Session) : (s.setSession x).draws = s.draws := rfl

@[simp] theorem State.setIntakeWork_pending (w : IntakeWork) : (s.setIntakeWork w).pending = s.pending := rfl
@[simp] theorem State.setIntakeWork_pins (w : IntakeWork) : (s.setIntakeWork w).pins = s.pins := rfl
@[simp] theorem State.setIntakeWork_link (w : IntakeWork) : (s.setIntakeWork w).link = s.link := rfl
@[simp] theorem State.setIntakeWork_xlat (w : IntakeWork) : (s.setIntakeWork w).xlat = s.xlat := rfl
@[simp] theorem State.setIntakeWork_storage (w : IntakeWork) : (s.setIntakeWork w).storage = s.storage := rfl
@[simp] theorem State.setIntakeWork_flash (w : IntakeWork) : (s.setIntakeWork w).flash = s.flash := rfl
@[simp] theorem State.setIntakeWork_restart (w : IntakeWork) : (s.setIntakeWork w).restart = s.restart := rfl
@[simp] theorem State.setIntakeWork_watch (w : IntakeWork) : (s.setIntakeWork w).watch = s.watch := rfl
@[simp] theorem State.setIntakeWork_crypto (w : IntakeWork) : (s.setIntakeWork w).crypto = s.crypto := rfl
@[simp] theorem State.setIntakeWork_time (w : IntakeWork) : (s.setIntakeWork w).time = s.time := rfl
@[simp] theorem State.setIntakeWork_creds (w : IntakeWork) : (s.setIntakeWork w).creds = s.creds := rfl
@[simp] theorem State.setIntakeWork_requests (w : IntakeWork) : (s.setIntakeWork w).requests = s.requests := rfl
@[simp] theorem State.setIntakeWork_alert (w : IntakeWork) : (s.setIntakeWork w).alert = s.alert := rfl
@[simp] theorem State.setIntakeWork_store (w : IntakeWork) : (s.setIntakeWork w).store = s.store := rfl
@[simp] theorem State.setIntakeWork_draws (w : IntakeWork) : (s.setIntakeWork w).draws = s.draws := rfl

@[simp] theorem State.setClaim_pending (n : Nat) : (s.setClaim n).pending = s.pending := rfl
@[simp] theorem State.setClaim_pins (n : Nat) : (s.setClaim n).pins = s.pins := rfl
@[simp] theorem State.setClaim_link (n : Nat) : (s.setClaim n).link = s.link := rfl
@[simp] theorem State.setClaim_xlat (n : Nat) : (s.setClaim n).xlat = s.xlat := rfl
@[simp] theorem State.setClaim_storage (n : Nat) : (s.setClaim n).storage = s.storage := rfl
@[simp] theorem State.setClaim_flash (n : Nat) : (s.setClaim n).flash = s.flash := rfl
@[simp] theorem State.setClaim_restart (n : Nat) : (s.setClaim n).restart = s.restart := rfl
@[simp] theorem State.setClaim_watch (n : Nat) : (s.setClaim n).watch = s.watch := rfl
@[simp] theorem State.setClaim_crypto (n : Nat) : (s.setClaim n).crypto = s.crypto := rfl
@[simp] theorem State.setClaim_time (n : Nat) : (s.setClaim n).time = s.time := rfl
@[simp] theorem State.setClaim_creds (n : Nat) : (s.setClaim n).creds = s.creds := rfl
@[simp] theorem State.setClaim_requests (n : Nat) : (s.setClaim n).requests = s.requests := rfl
@[simp] theorem State.setClaim_alert (n : Nat) : (s.setClaim n).alert = s.alert := rfl
@[simp] theorem State.setClaim_store (n : Nat) : (s.setClaim n).store = s.store := rfl
@[simp] theorem State.setClaim_draws (n : Nat) : (s.setClaim n).draws = s.draws := rfl

@[simp] theorem State.setSectors_pending (l : List Nat) (v : SectorState) : (s.setSectors l v).pending = s.pending := rfl
@[simp] theorem State.setSectors_pins (l : List Nat) (v : SectorState) : (s.setSectors l v).pins = s.pins := rfl
@[simp] theorem State.setSectors_link (l : List Nat) (v : SectorState) : (s.setSectors l v).link = s.link := rfl
@[simp] theorem State.setSectors_xlat (l : List Nat) (v : SectorState) : (s.setSectors l v).xlat = s.xlat := rfl
@[simp] theorem State.setSectors_storage (l : List Nat) (v : SectorState) : (s.setSectors l v).storage = s.storage := rfl
@[simp] theorem State.setSectors_flash (l : List Nat) (v : SectorState) : (s.setSectors l v).flash = s.flash := rfl
@[simp] theorem State.setSectors_restart (l : List Nat) (v : SectorState) : (s.setSectors l v).restart = s.restart := rfl
@[simp] theorem State.setSectors_watch (l : List Nat) (v : SectorState) : (s.setSectors l v).watch = s.watch := rfl
@[simp] theorem State.setSectors_crypto (l : List Nat) (v : SectorState) : (s.setSectors l v).crypto = s.crypto := rfl
@[simp] theorem State.setSectors_time (l : List Nat) (v : SectorState) : (s.setSectors l v).time = s.time := rfl
@[simp] theorem State.setSectors_creds (l : List Nat) (v : SectorState) : (s.setSectors l v).creds = s.creds := rfl
@[simp] theorem State.setSectors_requests (l : List Nat) (v : SectorState) : (s.setSectors l v).requests = s.requests := rfl
@[simp] theorem State.setSectors_alert (l : List Nat) (v : SectorState) : (s.setSectors l v).alert = s.alert := rfl
@[simp] theorem State.setSectors_store (l : List Nat) (v : SectorState) : (s.setSectors l v).store = s.store := rfl
@[simp] theorem State.setSectors_draws (l : List Nat) (v : SectorState) : (s.setSectors l v).draws = s.draws := rfl

@[simp] theorem State.setProgress_pending (n : Nat) : (s.setProgress n).pending = s.pending := rfl
@[simp] theorem State.setProgress_pins (n : Nat) : (s.setProgress n).pins = s.pins := rfl
@[simp] theorem State.setProgress_link (n : Nat) : (s.setProgress n).link = s.link := rfl
@[simp] theorem State.setProgress_xlat (n : Nat) : (s.setProgress n).xlat = s.xlat := rfl
@[simp] theorem State.setProgress_storage (n : Nat) : (s.setProgress n).storage = s.storage := rfl
@[simp] theorem State.setProgress_flash (n : Nat) : (s.setProgress n).flash = s.flash := rfl
@[simp] theorem State.setProgress_restart (n : Nat) : (s.setProgress n).restart = s.restart := rfl
@[simp] theorem State.setProgress_watch (n : Nat) : (s.setProgress n).watch = s.watch := rfl
@[simp] theorem State.setProgress_crypto (n : Nat) : (s.setProgress n).crypto = s.crypto := rfl
@[simp] theorem State.setProgress_time (n : Nat) : (s.setProgress n).time = s.time := rfl
@[simp] theorem State.setProgress_creds (n : Nat) : (s.setProgress n).creds = s.creds := rfl
@[simp] theorem State.setProgress_requests (n : Nat) : (s.setProgress n).requests = s.requests := rfl
@[simp] theorem State.setProgress_alert (n : Nat) : (s.setProgress n).alert = s.alert := rfl
@[simp] theorem State.setProgress_store (n : Nat) : (s.setProgress n).store = s.store := rfl
@[simp] theorem State.setProgress_draws (n : Nat) : (s.setProgress n).draws = s.draws := rfl

@[simp] theorem State.renewStaging_pending : (s.renewStaging).pending = s.pending := rfl
@[simp] theorem State.renewStaging_pins : (s.renewStaging).pins = s.pins := rfl
@[simp] theorem State.renewStaging_link : (s.renewStaging).link = s.link := rfl
@[simp] theorem State.renewStaging_xlat : (s.renewStaging).xlat = s.xlat := rfl
@[simp] theorem State.renewStaging_storage : (s.renewStaging).storage = s.storage := rfl
@[simp] theorem State.renewStaging_flash : (s.renewStaging).flash = s.flash := rfl
@[simp] theorem State.renewStaging_restart : (s.renewStaging).restart = s.restart := rfl
@[simp] theorem State.renewStaging_watch : (s.renewStaging).watch = s.watch := rfl
@[simp] theorem State.renewStaging_crypto : (s.renewStaging).crypto = s.crypto := rfl
@[simp] theorem State.renewStaging_time : (s.renewStaging).time = s.time := rfl
@[simp] theorem State.renewStaging_creds : (s.renewStaging).creds = s.creds := rfl
@[simp] theorem State.renewStaging_requests : (s.renewStaging).requests = s.requests := rfl
@[simp] theorem State.renewStaging_alert : (s.renewStaging).alert = s.alert := rfl
@[simp] theorem State.renewStaging_store : (s.renewStaging).store = s.store := rfl
@[simp] theorem State.renewStaging_draws : (s.renewStaging).draws = s.draws := rfl

@[simp] theorem State.dropStream_pending : (s.dropStream).pending = s.pending := rfl
@[simp] theorem State.dropStream_pins : (s.dropStream).pins = s.pins := rfl
@[simp] theorem State.dropStream_link : (s.dropStream).link = s.link := rfl
@[simp] theorem State.dropStream_xlat : (s.dropStream).xlat = s.xlat := rfl
@[simp] theorem State.dropStream_storage : (s.dropStream).storage = s.storage := rfl
@[simp] theorem State.dropStream_flash : (s.dropStream).flash = s.flash := rfl
@[simp] theorem State.dropStream_restart : (s.dropStream).restart = s.restart := rfl
@[simp] theorem State.dropStream_watch : (s.dropStream).watch = s.watch := rfl
@[simp] theorem State.dropStream_time : (s.dropStream).time = s.time := rfl
@[simp] theorem State.dropStream_creds : (s.dropStream).creds = s.creds := rfl
@[simp] theorem State.dropStream_requests : (s.dropStream).requests = s.requests := rfl
@[simp] theorem State.dropStream_alert : (s.dropStream).alert = s.alert := rfl
@[simp] theorem State.dropStream_store : (s.dropStream).store = s.store := rfl
@[simp] theorem State.dropStream_draws : (s.dropStream).draws = s.draws := rfl

@[simp] theorem State.setPhase_pending (p : Phase) : (s.setPhase p).pending = s.pending := rfl
@[simp] theorem State.setPhase_pins (p : Phase) : (s.setPhase p).pins = s.pins := rfl
@[simp] theorem State.setPhase_link (p : Phase) : (s.setPhase p).link = s.link := rfl
@[simp] theorem State.setPhase_xlat (p : Phase) : (s.setPhase p).xlat = s.xlat := rfl
@[simp] theorem State.setPhase_storage (p : Phase) : (s.setPhase p).storage = s.storage := rfl
@[simp] theorem State.setPhase_flash (p : Phase) : (s.setPhase p).flash = s.flash := rfl
@[simp] theorem State.setPhase_watch (p : Phase) : (s.setPhase p).watch = s.watch := rfl
@[simp] theorem State.setPhase_intake (p : Phase) : (s.setPhase p).intake = s.intake := rfl
@[simp] theorem State.setPhase_crypto (p : Phase) : (s.setPhase p).crypto = s.crypto := rfl
@[simp] theorem State.setPhase_time (p : Phase) : (s.setPhase p).time = s.time := rfl
@[simp] theorem State.setPhase_creds (p : Phase) : (s.setPhase p).creds = s.creds := rfl
@[simp] theorem State.setPhase_requests (p : Phase) : (s.setPhase p).requests = s.requests := rfl
@[simp] theorem State.setPhase_alert (p : Phase) : (s.setPhase p).alert = s.alert := rfl
@[simp] theorem State.setPhase_store (p : Phase) : (s.setPhase p).store = s.store := rfl
@[simp] theorem State.setPhase_draws (p : Phase) : (s.setPhase p).draws = s.draws := rfl

@[simp] theorem State.setRestartWork_pending (w : RestartWork) : (s.setRestartWork w).pending = s.pending := rfl
@[simp] theorem State.setRestartWork_pins (w : RestartWork) : (s.setRestartWork w).pins = s.pins := rfl
@[simp] theorem State.setRestartWork_link (w : RestartWork) : (s.setRestartWork w).link = s.link := rfl
@[simp] theorem State.setRestartWork_xlat (w : RestartWork) : (s.setRestartWork w).xlat = s.xlat := rfl
@[simp] theorem State.setRestartWork_storage (w : RestartWork) : (s.setRestartWork w).storage = s.storage := rfl
@[simp] theorem State.setRestartWork_flash (w : RestartWork) : (s.setRestartWork w).flash = s.flash := rfl
@[simp] theorem State.setRestartWork_watch (w : RestartWork) : (s.setRestartWork w).watch = s.watch := rfl
@[simp] theorem State.setRestartWork_intake (w : RestartWork) : (s.setRestartWork w).intake = s.intake := rfl
@[simp] theorem State.setRestartWork_crypto (w : RestartWork) : (s.setRestartWork w).crypto = s.crypto := rfl
@[simp] theorem State.setRestartWork_time (w : RestartWork) : (s.setRestartWork w).time = s.time := rfl
@[simp] theorem State.setRestartWork_creds (w : RestartWork) : (s.setRestartWork w).creds = s.creds := rfl
@[simp] theorem State.setRestartWork_requests (w : RestartWork) : (s.setRestartWork w).requests = s.requests := rfl
@[simp] theorem State.setRestartWork_alert (w : RestartWork) : (s.setRestartWork w).alert = s.alert := rfl
@[simp] theorem State.setRestartWork_store (w : RestartWork) : (s.setRestartWork w).store = s.store := rfl
@[simp] theorem State.setRestartWork_draws (w : RestartWork) : (s.setRestartWork w).draws = s.draws := rfl

@[simp] theorem State.setOutcome_pending (o : Outcome) : (s.setOutcome o).pending = s.pending := rfl
@[simp] theorem State.setOutcome_pins (o : Outcome) : (s.setOutcome o).pins = s.pins := rfl
@[simp] theorem State.setOutcome_link (o : Outcome) : (s.setOutcome o).link = s.link := rfl
@[simp] theorem State.setOutcome_xlat (o : Outcome) : (s.setOutcome o).xlat = s.xlat := rfl
@[simp] theorem State.setOutcome_storage (o : Outcome) : (s.setOutcome o).storage = s.storage := rfl
@[simp] theorem State.setOutcome_flash (o : Outcome) : (s.setOutcome o).flash = s.flash := rfl
@[simp] theorem State.setOutcome_watch (o : Outcome) : (s.setOutcome o).watch = s.watch := rfl
@[simp] theorem State.setOutcome_intake (o : Outcome) : (s.setOutcome o).intake = s.intake := rfl
@[simp] theorem State.setOutcome_crypto (o : Outcome) : (s.setOutcome o).crypto = s.crypto := rfl
@[simp] theorem State.setOutcome_time (o : Outcome) : (s.setOutcome o).time = s.time := rfl
@[simp] theorem State.setOutcome_creds (o : Outcome) : (s.setOutcome o).creds = s.creds := rfl
@[simp] theorem State.setOutcome_requests (o : Outcome) : (s.setOutcome o).requests = s.requests := rfl
@[simp] theorem State.setOutcome_alert (o : Outcome) : (s.setOutcome o).alert = s.alert := rfl
@[simp] theorem State.setOutcome_store (o : Outcome) : (s.setOutcome o).store = s.store := rfl
@[simp] theorem State.setOutcome_draws (o : Outcome) : (s.setOutcome o).draws = s.draws := rfl

@[simp] theorem State.setResult_pending (k : Slot) (r : SlotResult) : (s.setResult k r).pending = s.pending := rfl
@[simp] theorem State.setResult_pins (k : Slot) (r : SlotResult) : (s.setResult k r).pins = s.pins := rfl
@[simp] theorem State.setResult_link (k : Slot) (r : SlotResult) : (s.setResult k r).link = s.link := rfl
@[simp] theorem State.setResult_xlat (k : Slot) (r : SlotResult) : (s.setResult k r).xlat = s.xlat := rfl
@[simp] theorem State.setResult_storage (k : Slot) (r : SlotResult) : (s.setResult k r).storage = s.storage := rfl
@[simp] theorem State.setResult_flash (k : Slot) (r : SlotResult) : (s.setResult k r).flash = s.flash := rfl
@[simp] theorem State.setResult_watch (k : Slot) (r : SlotResult) : (s.setResult k r).watch = s.watch := rfl
@[simp] theorem State.setResult_intake (k : Slot) (r : SlotResult) : (s.setResult k r).intake = s.intake := rfl
@[simp] theorem State.setResult_crypto (k : Slot) (r : SlotResult) : (s.setResult k r).crypto = s.crypto := rfl
@[simp] theorem State.setResult_time (k : Slot) (r : SlotResult) : (s.setResult k r).time = s.time := rfl
@[simp] theorem State.setResult_creds (k : Slot) (r : SlotResult) : (s.setResult k r).creds = s.creds := rfl
@[simp] theorem State.setResult_requests (k : Slot) (r : SlotResult) : (s.setResult k r).requests = s.requests := rfl
@[simp] theorem State.setResult_alert (k : Slot) (r : SlotResult) : (s.setResult k r).alert = s.alert := rfl
@[simp] theorem State.setResult_store (k : Slot) (r : SlotResult) : (s.setResult k r).store = s.store := rfl
@[simp] theorem State.setResult_draws (k : Slot) (r : SlotResult) : (s.setResult k r).draws = s.draws := rfl

@[simp] theorem State.completeOutcome_pending (tr : Trust) (h : HaltReason) : (s.completeOutcome tr h).pending = s.pending := rfl
@[simp] theorem State.completeOutcome_pins (tr : Trust) (h : HaltReason) : (s.completeOutcome tr h).pins = s.pins := rfl
@[simp] theorem State.completeOutcome_link (tr : Trust) (h : HaltReason) : (s.completeOutcome tr h).link = s.link := rfl
@[simp] theorem State.completeOutcome_xlat (tr : Trust) (h : HaltReason) : (s.completeOutcome tr h).xlat = s.xlat := rfl
@[simp] theorem State.completeOutcome_storage (tr : Trust) (h : HaltReason) : (s.completeOutcome tr h).storage = s.storage := rfl
@[simp] theorem State.completeOutcome_flash (tr : Trust) (h : HaltReason) : (s.completeOutcome tr h).flash = s.flash := rfl
@[simp] theorem State.completeOutcome_watch (tr : Trust) (h : HaltReason) : (s.completeOutcome tr h).watch = s.watch := rfl
@[simp] theorem State.completeOutcome_intake (tr : Trust) (h : HaltReason) : (s.completeOutcome tr h).intake = s.intake := rfl
@[simp] theorem State.completeOutcome_crypto (tr : Trust) (h : HaltReason) : (s.completeOutcome tr h).crypto = s.crypto := rfl
@[simp] theorem State.completeOutcome_time (tr : Trust) (h : HaltReason) : (s.completeOutcome tr h).time = s.time := rfl
@[simp] theorem State.completeOutcome_creds (tr : Trust) (h : HaltReason) : (s.completeOutcome tr h).creds = s.creds := rfl
@[simp] theorem State.completeOutcome_requests (tr : Trust) (h : HaltReason) : (s.completeOutcome tr h).requests = s.requests := rfl
@[simp] theorem State.completeOutcome_alert (tr : Trust) (h : HaltReason) : (s.completeOutcome tr h).alert = s.alert := rfl
@[simp] theorem State.completeOutcome_store (tr : Trust) (h : HaltReason) : (s.completeOutcome tr h).store = s.store := rfl
@[simp] theorem State.completeOutcome_draws (tr : Trust) (h : HaltReason) : (s.completeOutcome tr h).draws = s.draws := rfl

@[simp] theorem State.halt_pending (r : HaltReason) : (s.halt r).pending = s.pending := rfl
@[simp] theorem State.halt_pins (r : HaltReason) : (s.halt r).pins = s.pins := rfl
@[simp] theorem State.halt_link (r : HaltReason) : (s.halt r).link = s.link := rfl
@[simp] theorem State.halt_xlat (r : HaltReason) : (s.halt r).xlat = s.xlat := rfl
@[simp] theorem State.halt_storage (r : HaltReason) : (s.halt r).storage = s.storage := rfl
@[simp] theorem State.halt_flash (r : HaltReason) : (s.halt r).flash = s.flash := rfl
@[simp] theorem State.halt_watch (r : HaltReason) : (s.halt r).watch = s.watch := rfl
@[simp] theorem State.halt_intake (r : HaltReason) : (s.halt r).intake = s.intake := rfl
@[simp] theorem State.halt_crypto (r : HaltReason) : (s.halt r).crypto = s.crypto := rfl
@[simp] theorem State.halt_time (r : HaltReason) : (s.halt r).time = s.time := rfl
@[simp] theorem State.halt_creds (r : HaltReason) : (s.halt r).creds = s.creds := rfl
@[simp] theorem State.halt_requests (r : HaltReason) : (s.halt r).requests = s.requests := rfl
@[simp] theorem State.halt_alert (r : HaltReason) : (s.halt r).alert = s.alert := rfl
@[simp] theorem State.halt_store (r : HaltReason) : (s.halt r).store = s.store := rfl
@[simp] theorem State.halt_draws (r : HaltReason) : (s.halt r).draws = s.draws := rfl

@[simp] theorem State.finishRelease_pending (tr : Trust) : (s.finishRelease tr).pending = s.pending := rfl
@[simp] theorem State.finishRelease_pins (tr : Trust) : (s.finishRelease tr).pins = s.pins := rfl
@[simp] theorem State.finishRelease_link (tr : Trust) : (s.finishRelease tr).link = s.link := rfl
@[simp] theorem State.finishRelease_storage (tr : Trust) : (s.finishRelease tr).storage = s.storage := rfl
@[simp] theorem State.finishRelease_flash (tr : Trust) : (s.finishRelease tr).flash = s.flash := rfl
@[simp] theorem State.finishRelease_intake (tr : Trust) : (s.finishRelease tr).intake = s.intake := rfl
@[simp] theorem State.finishRelease_crypto (tr : Trust) : (s.finishRelease tr).crypto = s.crypto := rfl
@[simp] theorem State.finishRelease_time (tr : Trust) : (s.finishRelease tr).time = s.time := rfl
@[simp] theorem State.finishRelease_requests (tr : Trust) : (s.finishRelease tr).requests = s.requests := rfl
@[simp] theorem State.finishRelease_alert (tr : Trust) : (s.finishRelease tr).alert = s.alert := rfl
@[simp] theorem State.finishRelease_store (tr : Trust) : (s.finishRelease tr).store = s.store := rfl
@[simp] theorem State.finishRelease_draws (tr : Trust) : (s.finishRelease tr).draws = s.draws := rfl

@[simp] theorem State.forceLoaded_pending : (s.forceLoaded).pending = s.pending := rfl
@[simp] theorem State.forceLoaded_pins : (s.forceLoaded).pins = s.pins := rfl
@[simp] theorem State.forceLoaded_link : (s.forceLoaded).link = s.link := rfl
@[simp] theorem State.forceLoaded_storage : (s.forceLoaded).storage = s.storage := rfl
@[simp] theorem State.forceLoaded_flash : (s.forceLoaded).flash = s.flash := rfl
@[simp] theorem State.forceLoaded_restart : (s.forceLoaded).restart = s.restart := rfl
@[simp] theorem State.forceLoaded_intake : (s.forceLoaded).intake = s.intake := rfl
@[simp] theorem State.forceLoaded_crypto : (s.forceLoaded).crypto = s.crypto := rfl
@[simp] theorem State.forceLoaded_time : (s.forceLoaded).time = s.time := rfl
@[simp] theorem State.forceLoaded_creds : (s.forceLoaded).creds = s.creds := rfl
@[simp] theorem State.forceLoaded_requests : (s.forceLoaded).requests = s.requests := rfl
@[simp] theorem State.forceLoaded_alert : (s.forceLoaded).alert = s.alert := rfl
@[simp] theorem State.forceLoaded_store : (s.forceLoaded).store = s.store := rfl
@[simp] theorem State.forceLoaded_draws : (s.forceLoaded).draws = s.draws := rfl

@[simp] theorem State.setReservation_pending (c : Ctx) (r : Reservation) : (s.setReservation c r).pending = s.pending := rfl
@[simp] theorem State.setReservation_pins (c : Ctx) (r : Reservation) : (s.setReservation c r).pins = s.pins := rfl
@[simp] theorem State.setReservation_link (c : Ctx) (r : Reservation) : (s.setReservation c r).link = s.link := rfl
@[simp] theorem State.setReservation_xlat (c : Ctx) (r : Reservation) : (s.setReservation c r).xlat = s.xlat := rfl
@[simp] theorem State.setReservation_storage (c : Ctx) (r : Reservation) : (s.setReservation c r).storage = s.storage := rfl
@[simp] theorem State.setReservation_flash (c : Ctx) (r : Reservation) : (s.setReservation c r).flash = s.flash := rfl
@[simp] theorem State.setReservation_restart (c : Ctx) (r : Reservation) : (s.setReservation c r).restart = s.restart := rfl
@[simp] theorem State.setReservation_watch (c : Ctx) (r : Reservation) : (s.setReservation c r).watch = s.watch := rfl
@[simp] theorem State.setReservation_intake (c : Ctx) (r : Reservation) : (s.setReservation c r).intake = s.intake := rfl
@[simp] theorem State.setReservation_crypto (c : Ctx) (r : Reservation) : (s.setReservation c r).crypto = s.crypto := rfl
@[simp] theorem State.setReservation_time (c : Ctx) (r : Reservation) : (s.setReservation c r).time = s.time := rfl
@[simp] theorem State.setReservation_requests (c : Ctx) (r : Reservation) : (s.setReservation c r).requests = s.requests := rfl
@[simp] theorem State.setReservation_alert (c : Ctx) (r : Reservation) : (s.setReservation c r).alert = s.alert := rfl
@[simp] theorem State.setReservation_store (c : Ctx) (r : Reservation) : (s.setReservation c r).store = s.store := rfl
@[simp] theorem State.setReservation_draws (c : Ctx) (r : Reservation) : (s.setReservation c r).draws = s.draws := rfl

@[simp] theorem State.disarmLockouts_pending (l : List (Fin 32)) : (s.disarmLockouts l).pending = s.pending := rfl
@[simp] theorem State.disarmLockouts_pins (l : List (Fin 32)) : (s.disarmLockouts l).pins = s.pins := rfl
@[simp] theorem State.disarmLockouts_link (l : List (Fin 32)) : (s.disarmLockouts l).link = s.link := rfl
@[simp] theorem State.disarmLockouts_xlat (l : List (Fin 32)) : (s.disarmLockouts l).xlat = s.xlat := rfl
@[simp] theorem State.disarmLockouts_storage (l : List (Fin 32)) : (s.disarmLockouts l).storage = s.storage := rfl
@[simp] theorem State.disarmLockouts_flash (l : List (Fin 32)) : (s.disarmLockouts l).flash = s.flash := rfl
@[simp] theorem State.disarmLockouts_restart (l : List (Fin 32)) : (s.disarmLockouts l).restart = s.restart := rfl
@[simp] theorem State.disarmLockouts_watch (l : List (Fin 32)) : (s.disarmLockouts l).watch = s.watch := rfl
@[simp] theorem State.disarmLockouts_intake (l : List (Fin 32)) : (s.disarmLockouts l).intake = s.intake := rfl
@[simp] theorem State.disarmLockouts_crypto (l : List (Fin 32)) : (s.disarmLockouts l).crypto = s.crypto := rfl
@[simp] theorem State.disarmLockouts_time (l : List (Fin 32)) : (s.disarmLockouts l).time = s.time := rfl
@[simp] theorem State.disarmLockouts_requests (l : List (Fin 32)) : (s.disarmLockouts l).requests = s.requests := rfl
@[simp] theorem State.disarmLockouts_alert (l : List (Fin 32)) : (s.disarmLockouts l).alert = s.alert := rfl
@[simp] theorem State.disarmLockouts_store (l : List (Fin 32)) : (s.disarmLockouts l).store = s.store := rfl
@[simp] theorem State.disarmLockouts_draws (l : List (Fin 32)) : (s.disarmLockouts l).draws = s.draws := rfl

@[simp] theorem State.startWrite_pending (w : Write) : (s.startWrite w).pending = s.pending := rfl
@[simp] theorem State.startWrite_pins (w : Write) : (s.startWrite w).pins = s.pins := rfl
@[simp] theorem State.startWrite_link (w : Write) : (s.startWrite w).link = s.link := rfl
@[simp] theorem State.startWrite_xlat (w : Write) : (s.startWrite w).xlat = s.xlat := rfl
@[simp] theorem State.startWrite_storage (w : Write) : (s.startWrite w).storage = s.storage := rfl
@[simp] theorem State.startWrite_flash (w : Write) : (s.startWrite w).flash = s.flash := rfl
@[simp] theorem State.startWrite_restart (w : Write) : (s.startWrite w).restart = s.restart := rfl
@[simp] theorem State.startWrite_watch (w : Write) : (s.startWrite w).watch = s.watch := rfl
@[simp] theorem State.startWrite_intake (w : Write) : (s.startWrite w).intake = s.intake := rfl
@[simp] theorem State.startWrite_crypto (w : Write) : (s.startWrite w).crypto = s.crypto := rfl
@[simp] theorem State.startWrite_time (w : Write) : (s.startWrite w).time = s.time := rfl
@[simp] theorem State.startWrite_creds (w : Write) : (s.startWrite w).creds = s.creds := rfl
@[simp] theorem State.startWrite_requests (w : Write) : (s.startWrite w).requests = s.requests := rfl
@[simp] theorem State.startWrite_alert (w : Write) : (s.startWrite w).alert = s.alert := rfl
@[simp] theorem State.startWrite_draws (w : Write) : (s.startWrite w).draws = s.draws := rfl

@[simp] theorem State.hostRead_pending (p : Nat) : (s.hostRead p).pending = s.pending := rfl
@[simp] theorem State.hostRead_pins (p : Nat) : (s.hostRead p).pins = s.pins := rfl
@[simp] theorem State.hostRead_link (p : Nat) : (s.hostRead p).link = s.link := rfl
@[simp] theorem State.hostRead_xlat (p : Nat) : (s.hostRead p).xlat = s.xlat := rfl
@[simp] theorem State.hostRead_flash (p : Nat) : (s.hostRead p).flash = s.flash := rfl
@[simp] theorem State.hostRead_restart (p : Nat) : (s.hostRead p).restart = s.restart := rfl
@[simp] theorem State.hostRead_watch (p : Nat) : (s.hostRead p).watch = s.watch := rfl
@[simp] theorem State.hostRead_intake (p : Nat) : (s.hostRead p).intake = s.intake := rfl
@[simp] theorem State.hostRead_crypto (p : Nat) : (s.hostRead p).crypto = s.crypto := rfl
@[simp] theorem State.hostRead_time (p : Nat) : (s.hostRead p).time = s.time := rfl
@[simp] theorem State.hostRead_creds (p : Nat) : (s.hostRead p).creds = s.creds := rfl
@[simp] theorem State.hostRead_requests (p : Nat) : (s.hostRead p).requests = s.requests := rfl
@[simp] theorem State.hostRead_alert (p : Nat) : (s.hostRead p).alert = s.alert := rfl
@[simp] theorem State.hostRead_store (p : Nat) : (s.hostRead p).store = s.store := rfl
@[simp] theorem State.hostRead_draws (p : Nat) : (s.hostRead p).draws = s.draws := rfl

@[simp] theorem State.startForward_pending (f : HostForward) : (s.startForward f).pending = s.pending := rfl
@[simp] theorem State.startForward_pins (f : HostForward) : (s.startForward f).pins = s.pins := rfl
@[simp] theorem State.startForward_link (f : HostForward) : (s.startForward f).link = s.link := rfl
@[simp] theorem State.startForward_xlat (f : HostForward) : (s.startForward f).xlat = s.xlat := rfl
@[simp] theorem State.startForward_restart (f : HostForward) : (s.startForward f).restart = s.restart := rfl
@[simp] theorem State.startForward_watch (f : HostForward) : (s.startForward f).watch = s.watch := rfl
@[simp] theorem State.startForward_intake (f : HostForward) : (s.startForward f).intake = s.intake := rfl
@[simp] theorem State.startForward_crypto (f : HostForward) : (s.startForward f).crypto = s.crypto := rfl
@[simp] theorem State.startForward_time (f : HostForward) : (s.startForward f).time = s.time := rfl
@[simp] theorem State.startForward_creds (f : HostForward) : (s.startForward f).creds = s.creds := rfl
@[simp] theorem State.startForward_requests (f : HostForward) : (s.startForward f).requests = s.requests := rfl
@[simp] theorem State.startForward_alert (f : HostForward) : (s.startForward f).alert = s.alert := rfl
@[simp] theorem State.startForward_store (f : HostForward) : (s.startForward f).store = s.store := rfl
@[simp] theorem State.startForward_draws (f : HostForward) : (s.startForward f).draws = s.draws := rfl

/-! The fields that the updates set. -/

@[simp] theorem State.setDecoder_decoder (d : Decoder) : (s.setDecoder d).link.decoder = d := rfl
@[simp] theorem State.setDecoder_wel (d : Decoder) : (s.setDecoder d).link.wel = s.link.wel := rfl
@[simp] theorem State.setDecoder_refused (d : Decoder) : (s.setDecoder d).link.refused = s.link.refused := rfl
@[simp] theorem State.clearWel_wel : s.clearWel.link.wel = false := rfl
@[simp] theorem State.clearWel_refused : s.clearWel.link.refused = s.link.refused := rfl
@[simp] theorem State.setSession_session (x : Session) : (s.setSession x).intake.session = x := rfl
@[simp] theorem State.setPhase_phase (p : Phase) : (s.setPhase p).restart.phase = p := rfl
@[simp] theorem State.setOutcome_outcome (o : Outcome) : (s.setOutcome o).restart.outcome = o := rfl
@[simp] theorem State.halt_phase (r : HaltReason) : (s.halt r).restart.phase = .halted r := rfl
@[simp] theorem State.issue_lastStamp (x : Stamp) : (s.issue x).time.lastStamp = some x := rfl
@[simp] theorem State.finishRelease_phase (tr : Trust) : (s.finishRelease tr).restart.phase = .released := rfl
@[simp] theorem State.finishRelease_trust (tr : Trust) : (s.finishRelease tr).watch.trust = tr := rfl
@[simp] theorem State.finishRelease_bootWindow (tr : Trust) : (s.finishRelease tr).restart.bootWindow = true := rfl
@[simp] theorem State.enqueueWrite_working (r : Requester) (k : WriteKind) :
    (s.enqueueWrite r k).store.working = s.store.working := rfl
@[simp] theorem State.enqueueWrite_nonvolatile (r : Requester) (k : WriteKind) :
    (s.enqueueWrite r k).store.nonvolatile = s.store.nonvolatile := rfl
@[simp] theorem State.enqueueWrite_queue (r : Requester) (k : WriteKind) :
    (s.enqueueWrite r k).store.queue = s.store.queue ++ [⟨r, k, true⟩] := rfl
@[simp] theorem State.startForward_mem (f : HostForward) : (s.startForward f).flash.mem = s.flash.mem := rfl
@[simp] theorem Alert.judge_pending (now : Nat) (a : Alert) : (a.judge now).pending = a.pending := by
  unfold Alert.judge; split <;> [rfl; (split <;> rfl)]
@[simp] theorem Alert.judge_mask (now : Nat) (a : Alert) : (a.judge now).mask = a.mask := by
  unfold Alert.judge; split <;> [rfl; (split <;> rfl)]
@[simp] theorem Alert.judge_interval (now : Nat) (a : Alert) : (a.judge now).interval = a.interval := by
  unfold Alert.judge; split <;> [rfl; (split <;> rfl)]
@[simp] theorem State.judged_sources (a : Alert) : (s.judged a).alert.pending = a.pending := by
  unfold State.judged; dsimp only; split <;> simp
@[simp] theorem State.judged_mask (a : Alert) : (s.judged a).alert.mask = a.mask := by
  unfold State.judged; dsimp only; split <;> simp
@[simp] theorem State.judged_interval (a : Alert) : (s.judged a).alert.interval = a.interval := by
  unfold State.judged; dsimp only; split <;> simp
/-- Nothing is judged where neither the pending set nor the mask changes (R184). -/
theorem State.judged_unchanged (a : Alert) (h : a.pending = s.alert.pending) (h' : a.mask = s.alert.mask) :
    (s.judged a).alert = a := by simp [State.judged, h, h']
@[simp] theorem State.raise_sources (b : BitVec 8) : (s.raise b).alert.pending = s.alert.pending ||| b :=
  State.judged_sources s _
@[simp] theorem State.clearSource_sources (b : BitVec 8) :
    (s.clearSource b).alert.pending = s.alert.pending &&& ~~~b := State.judged_sources s _
@[simp] theorem PerCtx.get_set {α : Type} (p : PerCtx α) (c : Ctx) (x : α) : (p.set c x).get c = x := by cases c <;> rfl
@[simp] theorem PerCtx.get_set_other {α : Type} (p : PerCtx α) (c : Ctx) (x : α) :
    (p.set c x).get (otherCtx c) = p.get (otherCtx c) := by cases c <;> rfl
@[simp] theorem State.setCtx_ctx (c : Ctx) (x : Context) : (s.setCtx c x).ctx c = x := PerCtx.get_set _ c x
@[simp] theorem State.setCtx_other (c : Ctx) (x : Context) : (s.setCtx c x).ctx (otherCtx c) = s.ctx (otherCtx c) :=
  PerCtx.get_set_other _ c x
@[simp] theorem State.setCtx_claim (c : Ctx) (x : Context) : (s.setCtx c x).requests.claim = s.requests.claim := rfl
@[simp] theorem State.setCtx_claimQueue (c : Ctx) (x : Context) :
    (s.setCtx c x).requests.claimQueue = s.requests.claimQueue := rfl
@[simp] theorem State.ready_ctx (c : Ctx) (tag code : Nat) (st : Status) (detail : Nat) (body : List Byte) :
    (s.ready c tag code st detail body).ctx c = ⟨.idle, [], none, none, none, .ready tag code st detail body, .none⟩ :=
  PerCtx.get_set _ c _
@[simp] theorem State.ready_other (c : Ctx) (tag code : Nat) (st : Status) (detail : Nat) (body : List Byte) :
    (s.ready c tag code st detail body).ctx (otherCtx c) = s.ctx (otherCtx c) := PerCtx.get_set_other _ c _

end Sys2Proof.Machine
end

