-- ==== Sys2Proof/Laws/Alerts.lean ====
section
/-! SUPPORT. All that raising and clearing alert sources and answering a request can do (R179, R184). -/

namespace Sys2Proof.Machine

open Sys2Proof

/-- All that judging the line can do (R184, R186). -/
theorem Alert.judge_judged (now : Nat) (a : Alert) : LineJudged now a (a.judge now) := by
  obtain ⟨p, m, i, t, l, k⟩ := a
  unfold LineJudged Alert.judge realertTimer
  split
  · simp_all
  · split <;> simp_all

/-- Where the pending set or the mask changes, the line stands judged (R184). -/
theorem State.judged_judged (s : State) (a : Alert) (h : ¬ (a.pending = s.alert.pending ∧ a.mask = s.alert.mask)) :
    LineJudged s.time.tick a (s.judged a).alert := by
  simp only [State.judged, if_neg h]; exact a.judge_judged _

/-- A change of the pending set alone (R184). -/
theorem State.judged_step (s : State) (cleared raised : BitVec 8) :
    AlertStep s.time.tick cleared raised s.alert
      (s.judged { s.alert with pending := (s.alert.pending &&& ~~~cleared) ||| raised }).alert :=
  ⟨fun h => by simp only [h, State.judged_unchanged], fun h => s.judged_judged _ fun h' => h h'.1⟩

theorem not_clear (p : BitVec 8) : p &&& ~~~(0 : BitVec 8) = p := BitVec.and_allOnes

theorem raise_nothing (p : BitVec 8) : p ||| (0 : BitVec 8) = p := BitVec.or_zero

/-- A step that clears and raises nothing. -/
theorem AlertStep.refl (now : Nat) (a : Alert) : AlertStep now 0 0 a a :=
  ⟨fun _ => rfl, fun h => absurd (by rw [not_clear, raise_nothing]) h⟩

/-- Raising sources (R184). -/
theorem State.raise_step (s : State) (b : BitVec 8) : AlertStep s.time.tick 0 b s.alert (s.raise b).alert := by
  have := s.judged_step 0 b
  rwa [not_clear] at this

/-- Clearing sources (R184). -/
theorem State.clearSource_step (s : State) (b : BitVec 8) : AlertStep s.time.tick b 0 s.alert (s.clearSource b).alert := by
  have := s.judged_step b 0
  rwa [raise_nothing] at this

theorem clear_two (p x y : BitVec 8) : (p &&& ~~~x) &&& ~~~y = p &&& ~~~(x ||| y) := by
  rw [BitVec.and_assoc, BitVec.not_or]

theorem clear_both (p x y m : BitVec 8) (h : p &&& ~~~x &&& m = 0) : p &&& ~~~(x ||| y) &&& m = 0 := by
  rw [← clear_two, BitVec.and_assoc, BitVec.and_comm (~~~y), ← BitVec.and_assoc, h]; exact BitVec.zero_and

theorem clear_both_eq (p x y : BitVec 8) (h : p &&& ~~~(x ||| y) = p) : p &&& ~~~x = p := by
  have e : p &&& ~~~x = (p &&& ~~~(x ||| y)) &&& ~~~x := by rw [h]
  rw [e, BitVec.and_assoc, ← BitVec.not_or, BitVec.or_comm (x ||| y), ← BitVec.or_assoc, BitVec.or_self, h]

/-- Two judgements after two changes of the pending set are the second one, where the second set is no larger (R184). -/
theorem LineJudged.again {now : Nat} {p q : BitVec 8} {a b c : Alert} (z : p &&& a.mask = 0 → q &&& a.mask = 0)
    (h : LineJudged now { a with pending := p } b) (h' : LineJudged now { b with pending := q } c) :
    LineJudged now { a with pending := q } c := by
  obtain ⟨e, m, i, t, l, k⟩ := a
  obtain ⟨p', m', i', t', l', k'⟩ := b
  obtain ⟨p'', m'', i'', t'', l'', k''⟩ := c
  simp only [LineJudged, Alert.mk.injEq] at *
  obtain ⟨⟨rfl, rfl, rfl, -, -, rfl⟩, j1, j2, j3⟩ := h
  obtain ⟨⟨rfl, rfl, rfl, -, -, rfl⟩, q1, q2, q3⟩ := h'
  refine ⟨by simp, q1, fun v r => ?_, fun v r => ?_⟩
  · have u := fun w => v (z w)
    obtain ⟨rfl, rfl⟩ := j2 u r
    obtain ⟨-, -, -, rfl, rfl, -⟩ := q3 v (by decide)
    exact ⟨rfl, rfl⟩
  · have u := fun w => v (z w)
    obtain ⟨-, -, -, rfl, rfl, -⟩ := j3 u r
    exact q3 v r

/-- Two clears one after the other are one. -/
theorem AlertStep.clear_clear {now : Nat} {x y : BitVec 8} {a b c : Alert} (h : AlertStep now x 0 a b)
    (h' : AlertStep now y 0 b c) : AlertStep now (x ||| y) 0 a c := by
  obtain ⟨h1, h2⟩ := h
  obtain ⟨h3, h4⟩ := h'
  unfold AlertStep
  simp only [raise_nothing] at *
  by_cases e : a.pending &&& ~~~x = a.pending
  · have hb := h1 e
    subst hb
    have k : b.pending &&& ~~~(x ||| y) = b.pending &&& ~~~y := by rw [← clear_two, e]
    rw [k]; exact ⟨h3, h4⟩
  · have j := h2 e
    have n : a.pending &&& ~~~(x ||| y) ≠ a.pending := fun z => e (clear_both_eq _ _ _ z)
    have hp : b.pending = a.pending &&& ~~~x := congrArg Alert.pending j.1
    rw [hp, clear_two] at h3 h4
    refine ⟨fun z => absurd z n, fun _ => ?_⟩
    by_cases e' : a.pending &&& ~~~(x ||| y) = a.pending &&& ~~~x
    · rw [h3 e', e']; exact j
    · exact LineJudged.again (clear_both _ _ _ _) j (h4 e')

/-- Raising sources is all that happens to the alert unit then (R184). -/
theorem State.raise_change (s : State) (b : BitVec 8) : AlertChange s (s.raise b) 0 b :=
  ⟨_, AlertStep.refl _ _, _, s.raise_step b, rfl⟩

/-- Clearing sources is all that happens to the alert unit then (R184). -/
theorem State.clearSource_change (s : State) (b : BitVec 8) : AlertChange s (s.clearSource b) b 0 :=
  ⟨_, s.clearSource_step b, _, AlertStep.refl _ _, rfl⟩

/-- An answer is all that happens: READY, and the context's RESPONSE source raised (R179). -/
theorem State.answer_only (s : State) {c : Ctx} {code tag : Nat} (h : (s.ctx c).response = .pending tag code)
    (st : Status) (detail : Nat) (body : List Byte) :
    OnlyAnswers s (s.answer c st detail body) c code tag st detail body := by
  refine ⟨⟨?_, ?_, rfl, rfl⟩, ?_, rfl⟩
  · simp [State.answer, h, Response.echo]
  · simp [State.answer]
  · have := State.raise_change (s.setCtx c ⟨.idle, [], none, none, none, .ready tag code st detail body, .none⟩)
      (responseSource c)
    simpa [State.answer, h, Response.echo, State.ready, AlertChange] using this

end Sys2Proof.Machine
end

