-- ==== Sys2Proof/Laws/Memory.lean ====
section
/-! SUPPORT. The real flash: a read after a write gives the value written, a write leaves every other byte alone, every operation
keeps the canonical form, and what each operation and each loss of the supply leaves. -/

namespace Sys2Proof.Machine

open Sys2Proof

/-- What the first entry's address says of the others. -/
theorem Memory.wf_cons {c : Host.Cell} {mem : List Host.Cell} :
    Memory.wf (c :: mem) ↔ (∀ d ∈ mem, c.1 < d.1) ∧ c.2 ≠ fill ∧ Memory.wf mem := by
  simp only [Memory.wf, List.pairwise_cons, List.forall_mem_cons]; tauto

/-- The addresses of a written list are those of the list and the address written. -/
theorem Memory.mem_write {mem : List Host.Cell} {a : Nat} {v : Byte} {c : Host.Cell} (h : c ∈ Memory.write mem a v) :
    c ∈ mem ∨ (c = (a, v) ∧ v ≠ fill) := by
  induction mem with
  | nil => by_cases hv : v = fill <;> simp_all [Memory.write]
  | cons d mem ih =>
    obtain ⟨k, w⟩ := d
    simp only [Memory.write] at h
    split at h
    · split at h
      · exact .inl h
      · rcases List.mem_cons.1 h with rfl | h
        · exact .inr ⟨rfl, ‹_›⟩
        · exact .inl h
    · split at h
      · split at h
        · exact .inl (List.mem_cons_of_mem _ h)
        · rcases List.mem_cons.1 h with rfl | h
          · exact .inr ⟨rfl, ‹_›⟩
          · exact .inl (List.mem_cons_of_mem _ h)
      · rcases List.mem_cons.1 h with rfl | h
        · exact .inl List.mem_cons_self
        · rcases ih h with h | h
          · exact .inl (List.mem_cons_of_mem _ h)
          · exact .inr h

/-- A write keeps the canonical form. -/
theorem Memory.write_wf {mem : List Host.Cell} (a : Nat) (v : Byte) (h : Memory.wf mem) : Memory.wf (Memory.write mem a v) := by
  induction mem with
  | nil => by_cases hv : v = fill <;> simp [Memory.write, Memory.wf, hv]
  | cons d mem ih =>
    obtain ⟨k, w⟩ := d
    obtain ⟨hlt, hw, hm⟩ := Memory.wf_cons.1 h
    simp only [Memory.write]
    split
    · split
      · exact h
      · refine Memory.wf_cons.2 ⟨?_, ‹_›, h⟩
        intro e he
        rcases List.mem_cons.1 he with rfl | he
        · assumption
        · exact lt_trans ‹_› (hlt e he)
    · split
      · split
        · exact hm
        · exact Memory.wf_cons.2 ⟨fun e he => by have := hlt e he; simp_all, ‹_›, hm⟩
      · refine Memory.wf_cons.2 ⟨?_, hw, ih hm⟩
        intro e he
        rcases Memory.mem_write he with he | ⟨rfl, -⟩
        · exact hlt e he
        · simp only; omega

/-- A byte below every listed address reads as fill. -/
theorem Memory.read_below {mem : List Host.Cell} {a : Nat} (h : ∀ d ∈ mem, a < d.1) : Memory.read mem a = fill := by
  induction mem with
  | nil => rfl
  | cons d mem ih =>
    obtain ⟨k, w⟩ := d
    have h1 : a < k := h _ List.mem_cons_self
    simp only [Memory.read, if_neg (Nat.ne_of_gt h1)]
    exact ih fun e he => h e (List.mem_cons_of_mem _ he)

/-- A read after a write: the value written at its address, and every other byte as before. -/
theorem Memory.read_write {mem : List Host.Cell} (a : Nat) (v : Byte) (b : Nat) (h : Memory.wf mem) :
    Memory.read (Memory.write mem a v) b = if b = a then v else Memory.read mem b := by
  induction mem with
  | nil =>
    by_cases hv : v = fill
    · simp [Memory.write, Memory.read, hv]
    · simp only [Memory.write, if_neg hv, Memory.read]
      by_cases hb : b = a
      · subst hb; simp
      · rw [if_neg (Ne.symm hb), if_neg hb]
  | cons d mem ih =>
    obtain ⟨k, w⟩ := d
    obtain ⟨hlt, hw, hm⟩ := Memory.wf_cons.1 h
    simp only [Memory.write]
    split
    · rename_i hak
      split
      · rename_i hv
        by_cases hb : b = a
        · subst hb
          rw [if_pos rfl, Memory.read_below, hv]
          intro e he
          rcases List.mem_cons.1 he with rfl | he
          · assumption
          · exact lt_trans hak (hlt e he)
        · rw [if_neg hb]
      · by_cases hb : b = a
        · subst hb; simp [Memory.read]
        · rw [if_neg hb]; conv_lhs => rw [Memory.read, if_neg (Ne.symm hb)]
    · split
      · rename_i _ hk
        subst hk
        split
        · rename_i hv
          by_cases hb : b = a
          · subst hb; rw [if_pos rfl, Memory.read_below hlt, hv]
          · rw [if_neg hb]; conv_rhs => rw [Memory.read, if_neg (Ne.symm hb)]
        · by_cases hb : b = a
          · subst hb; simp [Memory.read]
          · rw [if_neg hb]; simp [Memory.read, Ne.symm hb]
      · rename_i h1 h2
        by_cases hbk : k = b
        · subst hbk
          have : k ≠ a := fun e => h2 e.symm
          simp [Memory.read, this]
        · simp only [Memory.read, if_neg hbk]
          exact ih hm

/-- An erase keeps the canonical form. -/
theorem Memory.erase_wf {mem : List Host.Cell} (lo n : Nat) (h : Memory.wf mem) : Memory.wf (Memory.erase mem lo n) :=
  ⟨h.1.sublist List.filter_sublist, fun c hc => h.2 c (List.mem_of_mem_filter hc)⟩

/-- After an erase its bytes read as fill and every other byte as before. -/
theorem Memory.read_erase (mem : List Host.Cell) (lo n b : Nat) :
    Memory.read (Memory.erase mem lo n) b = if lo ≤ b ∧ b < lo + n then fill else Memory.read mem b := by
  induction mem with
  | nil => simp [Memory.erase, Memory.read]
  | cons d mem ih =>
    obtain ⟨k, w⟩ := d
    by_cases hk : k < lo ∨ lo + n ≤ k
    · have he : Memory.erase ((k, w) :: mem) lo n = (k, w) :: Memory.erase mem lo n := by
        simp [Memory.erase, hk]
      rw [he]
      by_cases hb : k = b
      · subst hb
        have : ¬ (lo ≤ k ∧ k < lo + n) := by omega
        simp [Memory.read, this]
      · simp only [Memory.read, if_neg hb]; exact ih
    · have he : Memory.erase ((k, w) :: mem) lo n = Memory.erase mem lo n := by
        simp [Memory.erase, hk]
      rw [he, ih]
      by_cases hb : lo ≤ b ∧ b < lo + n
      · simp [hb]
      · have : k ≠ b := by omega
        simp [Memory.read, this]

/-- Programming keeps the canonical form. -/
theorem Memory.program_wf {mem : List Host.Cell} (cells : List (Nat × Byte)) (h : Memory.wf mem) :
    Memory.wf (Memory.program mem cells) := by
  induction cells generalizing mem with
  | nil => exact h
  | cons c cells ih => exact ih (Memory.write_wf _ _ h)

/-- A program leaves alone every byte it does not name. -/
theorem Memory.read_program_other {mem : List Host.Cell} (cells : List (Nat × Byte)) (b : Nat) (h : Memory.wf mem)
    (hb : ∀ c ∈ cells, c.1 ≠ b) : Memory.read (Memory.program mem cells) b = Memory.read mem b := by
  induction cells generalizing mem with
  | nil => rfl
  | cons c cells ih =>
    obtain ⟨a, v⟩ := c
    have ha : a ≠ b := hb _ List.mem_cons_self
    rw [Memory.program, ih (Memory.write_wf _ _ h) fun d hd => hb d (List.mem_cons_of_mem _ hd),
      Memory.read_write _ _ _ h, if_neg (Ne.symm ha)]

/-- Cells are programmed one after another. -/
theorem Memory.program_append (pre post : List (Nat × Byte)) (mem : List Host.Cell) :
    Memory.program mem (pre ++ post) = Memory.program (Memory.program mem pre) post := by
  induction pre generalizing mem with
  | nil => rfl
  | cons c pre ih => exact ih _

/-- A program leaves the programmed byte over what its cell held, where no other cell has that address. -/
theorem Memory.read_program_cell {mem : List Host.Cell} (pre post : List (Nat × Byte)) (a : Nat) (v : Byte)
    (h : Memory.wf mem) (hne : ∀ c ∈ pre ++ post, c.1 ≠ a) :
    Memory.read (Memory.program mem (pre ++ (a, v) :: post)) a = programmedByte (Memory.read mem a) v := by
  have hp := Memory.program_wf pre h
  rw [Memory.program_append, Memory.program,
    Memory.read_program_other post a (Memory.write_wf _ _ hp) fun c hc => hne c (List.mem_append_right _ hc),
    Memory.read_write _ _ _ hp, if_pos rfl,
    Memory.read_program_other pre a h fun c hc => hne c (List.mem_append_left _ hc)]

/-- The addresses listed for an operation are those it covers. -/
theorem FlashOp.mem_addresses (op : FlashOp) (a : Nat) : a ∈ op.addresses ↔ op.Covers a := by
  have range (p n : Nat) : a ∈ (List.range n).map (p + ·) ↔ p ≤ a ∧ a < p + n := by
    simp only [List.mem_map, List.mem_range]
    exact ⟨fun ⟨i, hi, e⟩ => by omega, fun h => ⟨a - p, by omega, by omega⟩⟩
  cases op with
  | program cells => simp [FlashOp.addresses, FlashOp.Covers]
  | eraseSector p => exact range p 0x1000
  | eraseBlock p => exact range p 0x10000

/-- All that an operation can do to the real flash, taken or ignored (R37, R40). -/
theorem FlashOp.apply_leaves {mem : List Host.Cell} (took : Bool) (op : FlashOp) (h : Memory.wf mem) :
    OperationLeaves took op mem (if took then op.apply mem else mem) := by
  cases took with
  | false => exact ⟨fun _ _ => rfl, fun e => by cases e⟩
  | true =>
    cases op with
    | program cells =>
      exact ⟨fun a ha => Memory.read_program_other _ _ h fun c hc e => ha.elim nofun fun hn => hn ⟨c.2, e ▸ hc⟩,
        fun _ pre post a v e hne => by subst e; exact Memory.read_program_cell pre post a v h hne⟩
    | eraseSector p =>
      exact ⟨fun a ha => (Memory.read_erase _ _ _ _).trans (if_neg (ha.resolve_left nofun)),
        fun _ a ha => (Memory.read_erase _ _ _ _).trans (if_pos ha)⟩
    | eraseBlock p =>
      exact ⟨fun a ha => (Memory.read_erase _ _ _ _).trans (if_neg (ha.resolve_left nofun)),
        fun _ a ha => (Memory.read_erase _ _ _ _).trans (if_pos ha)⟩

/-- A physical operation keeps the canonical form. -/
theorem FlashOp.apply_wf {mem : List Host.Cell} (op : FlashOp) (h : Memory.wf mem) : Memory.wf (op.apply mem) := by
  cases op with
  | program cells => exact Memory.program_wf _ h
  | eraseSector p => exact Memory.erase_wf _ _ h
  | eraseBlock p => exact Memory.erase_wf _ _ h

/-- The end of a busy period keeps the canonical form. -/
theorem Flash.finish_wf {f : Flash} (took : Bool) (h : Memory.wf f.mem) : Memory.wf (f.finish took).mem := by
  unfold Flash.finish
  split
  · exact h
  · cases took
    · exact h
    · exact FlashOp.apply_wf _ h

/-- The interruption of an operation keeps the canonical form. -/
theorem Flash.interrupt_wf {f : Flash} (seed : Nat) (h : Memory.wf f.mem) : Memory.wf (f.interrupt seed).mem := by
  unfold Flash.interrupt
  split
  · exact h
  · rename_i op _
    show Memory.wf (op.addresses.foldl _ f.mem)
    generalize op.addresses = l
    generalize f.mem = m at h
    induction l generalizing m with
    | nil => exact h
    | cons a l ih => exact ih _ (Memory.write_wf _ _ h)

/-- All that the end of a busy period can do (R36, R37). -/
theorem Flash.finish_leaves {f : Flash} {op : FlashOp} (took : Bool) (hb : f.busy = some op) (h : Memory.wf f.mem) :
    (f.finish took).busy = none ∧ OperationLeaves took op f.mem (f.finish took).mem := by
  unfold Flash.finish
  rw [hb]
  exact ⟨rfl, FlashOp.apply_leaves took op h⟩

/-- All that a loss of the supply can do to the real flash (log entry 5). -/
theorem Flash.interrupt_leaves (f : Flash) (seed : Nat) : InterruptLeaves f (f.interrupt seed) := by
  unfold Flash.interrupt
  split
  · rename_i hb
    exact ⟨hb, fun _ => rfl, fun _ _ _ _ _ => rfl⟩
  · rename_i op hb
    refine ⟨rfl, fun e => absurd (hb.symm.trans e) nofun, fun h op' a e ha => ?_⟩
    obtain rfl : op = op' := Option.some.inj (hb.symm.trans e)
    have ha := mt (FlashOp.mem_addresses op a).1 ha
    show Memory.read (op.addresses.foldl _ f.mem) a = Memory.read f.mem a
    generalize op.addresses = l at ha
    generalize f.mem = m at h ⊢
    induction l generalizing m with
    | nil => rfl
    | cons b l ih =>
      rw [List.foldl_cons, ih (fun hl => ha (List.mem_cons_of_mem _ hl)) _ (Memory.write_wf _ _ h),
        Memory.read_write _ _ _ h, if_neg (show a ≠ b from fun e => ha (e ▸ List.mem_cons_self))]

/-- The flash of the state after reset has the canonical form. -/
theorem State.reset_flash_wf : Memory.wf State.reset.flash.mem := by decide

end Sys2Proof.Machine
end

