-- ==== Sys2Proof/Laws/Ops.lean ====
section
/-! SUPPORT. For each shared operation one lemma that says everything it can touch: its answer is the state it was given with
only the fields named replaced. Later proofs cite these and do not unfold the operation. -/

namespace Sys2Proof.Machine

open Sys2Proof

/-! ## Hits and stamps -/

theorem State.degrade_touches (s : State) : ∃ w a c, s.degrade = { s with watch := w, alert := a, creds := c } := by
  unfold State.degrade; split <;> exact ⟨_, _, _, rfl⟩

theorem State.hitActions_touches (s : State) (h : PendingHit) :
    ∃ w a c, s.hitActions h = { s with watch := w, alert := a, creds := c } := by
  have h1 : ∃ w a c, (if h.alert then s.raise sourceWatch else s) = { s with watch := w, alert := a, creds := c } := by
    split <;> exact ⟨_, _, _, rfl⟩
  obtain ⟨w, a, c, e1⟩ := h1
  unfold State.hitActions
  simp only [e1]
  have h2 : ∃ w' a' c', (if h.degrade then ({ s with watch := w, alert := a, creds := c } : State).degrade
      else { s with watch := w, alert := a, creds := c }) = { s with watch := w', alert := a', creds := c' } := by
    split
    · obtain ⟨_, _, _, e⟩ := State.degrade_touches { s with watch := w, alert := a, creds := c }
      exact ⟨_, _, _, e⟩
    · exact ⟨_, _, _, rfl⟩
  obtain ⟨w', a', c', e2⟩ := h2
  rw [e2]
  split <;> exact ⟨_, _, _, rfl⟩

theorem State.recordHit_touches (s : State) (h : PendingHit) (x : Stamp) :
    ∃ w a c, s.recordHit h x = { s with watch := w, alert := a, creds := c } := by
  obtain ⟨w, a, c, e⟩ := (s.addHit h x).hitActions_touches h
  exact ⟨w, a, c, e⟩

theorem State.pumpHits_touches (n : Nat) (s : State) :
    ∃ w a c t, s.pumpHits n = { s with watch := w, alert := a, creds := c, time := t } := by
  induction n generalizing s with
  | zero => exact ⟨_, _, _, _, rfl⟩
  | succ n ih =>
    unfold State.pumpHits
    split
    · exact ⟨_, _, _, _, rfl⟩
    · split
      · exact ⟨_, _, _, _, rfl⟩
      · rename_i h rest _
        dsimp only
        split
        · obtain ⟨_, _, _, e⟩ := State.recordHit_touches { s with watch := { s.watch with waiting := rest } } h Stamp.zero
          rw [e]
          obtain ⟨_, _, _, _, e'⟩ := ih { s with watch := _, alert := _, creds := _ }
          exact ⟨_, _, _, _, e'⟩
        · split
          · rename_i x _ _
            obtain ⟨_, _, _, e⟩ :=
              State.recordHit_touches (State.issue { s with watch := { s.watch with waiting := rest } } x) h x
            rw [e]
            obtain ⟨_, _, _, _, e'⟩ := ih { s with watch := _, alert := _, creds := _, time := { s.time with lastStamp := some x } }
            exact ⟨_, _, _, _, e'⟩
          · exact ⟨_, _, _, _, rfl⟩

theorem State.takeHits_touches (s : State) (hs : List PendingHit) :
    ∃ w a c t, s.takeHits hs = { s with watch := w, alert := a, creds := c, time := t } := by
  obtain ⟨_, _, _, _, e⟩ := State.pumpHits_touches
    ({ s with watch := { s.watch with waiting := s.watch.waiting ++ hs } } : State).watch.waiting.length
    { s with watch := { s.watch with waiting := s.watch.waiting ++ hs } }
  exact ⟨_, _, _, _, e⟩

theorem State.reportRefusal_touches (s : State) (start : Nat) (kind : AccessKind) (region : Option Nat) :
    ∃ w a c t, s.reportRefusal start kind region = { s with watch := w, alert := a, creds := c, time := t } :=
  s.takeHits_touches _

theorem State.reportCompletion_touches (s : State) (f : HostForward) :
    ∃ w a c t, s.reportCompletion f = { s with watch := w, alert := a, creds := c, time := t } := by
  unfold State.reportCompletion
  obtain ⟨_, _, _, _, e⟩ := State.takeHits_touches
    { s with watch := { s.watch with altered := f.granules.foldl (fun (a : BitVec 16) (g : Nat × Option Nat) => a ||| alteredBit g.2) s.watch.altered } }
    (completionHits s.watch.table f)
  exact ⟨_, _, _, _, e⟩

theorem State.enqueueJob_touches (s : State) (r : Requester) (k : JobKind) :
    ∃ x, s.enqueueJob r k = { s with crypto := x } := by
  unfold State.enqueueJob; split <;> exact ⟨_, rfl⟩

theorem State.enterDeferred_touches (s : State) (r : Requester) : ∃ x, s.enterDeferred r = { s with crypto := x } := ⟨_, rfl⟩

/-- With nothing waiting outside the FIFO, the end of a job brings nothing in. -/
theorem State.enterDeferred_none (s : State) (r : Requester) (h : s.crypto.deferred = []) : s.enterDeferred r = s := by
  simp [State.enterDeferred, h]
  rw [← h]

/-- The job enters the FIFO and no other joins or leaves. -/
theorem insertJob_perm (x : Job) (q : List Job) : (insertJob x q).Perm (x :: q) := by
  induction q with
  | nil => exact List.Perm.refl _
  | cons j q ih =>
    unfold insertJob
    split
    · exact List.Perm.refl _
    · exact (ih.cons j).trans (List.Perm.swap x j q)

/-- A job that signs no quote enters at the end. -/
theorem insertJob_append (x : Job) (q : List Job) (h : x.kind.quoteStamp = none) : insertJob x q = q ++ [x] := by
  induction q with
  | nil => rfl
  | cons j q ih => simp [insertJob, Job.signsAfter, h, ih]

/-- Every SIGNING job behind the entered one signs no earlier quote, where those queued stood in the order of their stamps. -/
theorem insertJob_ordered (x : Job) (q : List Job) (h : q.Pairwise fun i j => i.signsAfter j = false) :
    (insertJob x q).Pairwise fun i j => i.signsAfter j = false := by
  induction q with
  | nil => exact List.pairwise_singleton _ _
  | cons j q ih =>
    obtain ⟨hj, hq⟩ := List.pairwise_cons.mp h
    unfold insertJob
    split
    · rename_i hx
      refine List.pairwise_cons.mpr ⟨fun k hk => ?_, h⟩
      have hjk : k = j ∨ j.signsAfter k = false := (List.mem_cons.mp hk).imp id (hj k)
      unfold Job.signsAfter at *
      cases ex : x.kind.quoteStamp <;> cases ej : j.kind.quoteStamp <;> cases ek : k.kind.quoteStamp <;> simp_all
      rcases hjk with rfl | hjk
      · rw [ej] at ek
        simp_all
        omega
      · omega
    · rename_i hx
      refine List.pairwise_cons.mpr ⟨fun k hk => ?_, ih hq⟩
      rcases List.mem_cons.mp ((insertJob_perm x q).mem_iff.mp hk) with rfl | hk
      · exact Bool.eq_false_iff.mpr hx
      · exact hj k hk

theorem State.startNext_touches (s : State) : ∃ x d, s.startNext = { s with crypto := x, draws := d } := by
  unfold State.startNext; split <;> exact ⟨_, _, rfl⟩

theorem State.assembleQuote_touches (s : State) (c : Ctx) (x : Stamp) :
    ∃ r j, s.assembleQuote c x = { s with requests := r, crypto := j } := by
  obtain ⟨_, e⟩ := (s.setQuote c (.signing (s.quoteRecord (byteAt (s.body c) 0) ((s.body c).drop 1) x))).enqueueJob_touches
    (.ctx c) (.signing (s.quoteRecord (byteAt (s.body c) 0) ((s.body c).drop 1) x))
  exact ⟨_, _, e⟩

theorem State.askQuoteStamp_touches (s : State) (c : Ctx) :
    ∃ r j t a, s.askQuoteStamp c = { s with requests := r, crypto := j, time := t, alert := a } := by
  unfold State.askQuoteStamp
  split
  · exact ⟨_, _, _, _, rfl⟩
  · split
    · rename_i x _ _
      obtain ⟨_, _, e⟩ := (s.issue x).assembleQuote_touches c x
      exact ⟨_, _, _, _, e⟩
    · exact ⟨_, _, _, _, rfl⟩

theorem State.serveHit_touches (s : State) (h : PendingHit) (x : Stamp) :
    ∃ w a c t d r j, s.serveHit h x =
      { s with watch := w, alert := a, creds := c, time := t, draws := d, requests := r, crypto := j } := by
  unfold State.serveHit
  dsimp only
  split
  · rename_i c rest y hw hn
    split
    · obtain ⟨_, _, e⟩ := State.assembleQuote_touches
        (State.issue { (s.issue x).addHit h x with
          draws := ((s.issue x).addHit h x).draws + 1
          time := { ((s.issue x).addHit h x).time with waiting := rest } } y) c y
      rw [e]
      obtain ⟨_, _, _, e'⟩ := State.hitActions_touches { State.issue { (s.issue x).addHit h x with
          draws := ((s.issue x).addHit h x).draws + 1
          time := { ((s.issue x).addHit h x).time with waiting := rest } } y with requests := _, crypto := _ } h
      exact ⟨_, _, _, _, _, _, _, e'⟩
    · obtain ⟨_, _, _, e'⟩ := State.hitActions_touches { (s.issue x).addHit h x with
          draws := ((s.issue x).addHit h x).draws + 1 } h
      exact ⟨_, _, _, _, _, _, _, e'⟩
  · obtain ⟨_, _, _, e'⟩ := ((s.issue x).addHit h x).hitActions_touches h
    exact ⟨_, _, _, _, _, _, _, e'⟩

theorem State.serveStamps_touches (n : Nat) (s : State) :
    ∃ w a c t d r j, s.serveStamps n =
      { s with watch := w, alert := a, creds := c, time := t, draws := d, requests := r, crypto := j } := by
  induction n generalizing s with
  | zero => exact ⟨_, _, _, _, _, _, _, rfl⟩
  | succ n ih =>
    unfold State.serveStamps
    split
    · exact ⟨_, _, _, _, _, _, _, rfl⟩
    · rename_i r rest _
      dsimp only
      split
      · cases r with
        | quote c =>
          dsimp only
          obtain ⟨_, _, _, _, _, _, _, e⟩ := ih (State.answerError { s with time := { s.time with waiting := rest } } c .exhausted)
          exact ⟨_, _, _, _, _, _, _, e⟩
        | hit =>
          dsimp only
          obtain ⟨_, _, _, _, e⟩ := State.pumpHits_touches s.watch.waiting.length { s with time := { s.time with waiting := rest } }
          rw [e]
          obtain ⟨_, _, _, _, _, _, _, e'⟩ := ih { s with watch := _, alert := _, creds := _, time := _ }
          exact ⟨_, _, _, _, _, _, _, e'⟩
      · split
        · exact ⟨_, _, _, _, _, _, _, rfl⟩
        · rename_i x _
          cases r with
          | quote c =>
            dsimp only
            obtain ⟨_, _, e⟩ := State.assembleQuote_touches (State.issue { s with time := { s.time with waiting := rest } } x) c x
            rw [e]
            obtain ⟨_, _, _, _, _, _, _, e'⟩ :=
              ih { State.issue { s with time := { s.time with waiting := rest } } x with requests := _, crypto := _ }
            exact ⟨_, _, _, _, _, _, _, e'⟩
          | hit =>
            dsimp only
            split
            · obtain ⟨_, _, _, _, _, _, _, e'⟩ := ih { s with time := { s.time with waiting := rest } }
              exact ⟨_, _, _, _, _, _, _, e'⟩
            · rename_i h hs _
              obtain ⟨_, _, _, _, _, _, _, e⟩ := State.serveHit_touches
                { s with time := { s.time with waiting := rest }, watch := { s.watch with waiting := hs } } h x
              rw [e]
              obtain ⟨_, _, _, _, e2⟩ := State.pumpHits_touches _ { s with
                time := _, watch := _, alert := _, creds := _, draws := _, requests := _, crypto := _ }
              rw [e2]
              obtain ⟨_, _, _, _, _, _, _, e3⟩ := ih { s with
                time := _, watch := _, alert := _, creds := _, draws := _, requests := _, crypto := _ }
              exact ⟨_, _, _, _, _, _, _, e3⟩

theorem State.serveAllStamps_touches (s : State) :
    ∃ w a c t d r j, s.serveAllStamps =
      { s with watch := w, alert := a, creds := c, time := t, draws := d, requests := r, crypto := j } :=
  State.serveStamps_touches _ s

/-! ## The update intake -/

theorem State.cancelRead_touches (s : State) (u : JobUser) : ∃ x, s.cancelRead u = { s with storage := x } := by
  unfold State.cancelRead
  split
  · exact ⟨_, rfl⟩
  · split <;> exact ⟨_, rfl⟩

theorem State.dropIntakeWork_touches (s : State) :
    ∃ x j i, s.dropIntakeWork = { s with storage := x, crypto := j, intake := i } := by
  obtain ⟨_, e⟩ := s.cancelRead_touches .update
  unfold State.dropIntakeWork
  rw [e]
  exact ⟨_, _, _, rfl⟩

theorem State.restSession_touches (s : State) :
    ∃ x j i, s.restSession = { s with storage := x, crypto := j, intake := i } := by
  obtain ⟨_, _, _, e⟩ := s.dropIntakeWork_touches
  unfold State.restSession
  rw [e]
  exact ⟨_, _, _, rfl⟩

theorem State.failSession_touches (s : State) (reason : FailReason) (detail : Nat) :
    ∃ x j i a, s.failSession reason detail = { s with storage := x, crypto := j, intake := i, alert := a } := by
  obtain ⟨_, _, _, e⟩ := s.dropIntakeWork_touches
  unfold State.failSession
  rw [e]
  exact ⟨_, _, _, _, rfl⟩

/-- A signature made for a message verifies over it with the public part of the key (R116). -/
theorem signatureValid_sign (k : Secret) (msg : List Byte) (n : Nat) :
    signatureValid (Config.publicOf k) msg (Config.ecdsaSign k (Config.sha256 msg) n) = true := by
  obtain ⟨hr, hs, hr', hs'⟩ := Config.ecdsa.sign_inRange k (Config.sha256 msg) n
  simpa [signatureValid, Config.isPoint, Config.belowOrder, Config.publicOf, Config.ecdsaSign, Config.ecdsaVerifies,
    Config.ecdsa.public_isPoint, Config.ecdsa.sign_verifies, hr', hs'] using And.intro hr hs

theorem State.kickStream_touches (s : State) : ∃ j i, s.kickStream = { s with crypto := j, intake := i } := by
  unfold State.kickStream
  split
  · obtain ⟨_, e⟩ := s.enqueueJob_touches .intake (.digest s.intake.absorbed s.intake.buffer false)
    simp only [e]
    exact ⟨_, _, rfl⟩
  · exact ⟨_, _, rfl⟩

theorem State.breakStream_touches (s : State) (off : Nat) : ∃ j i, s.breakStream off = { s with crypto := j, intake := i } := by
  unfold State.breakStream
  dsimp only
  split <;> exact ⟨_, _, rfl⟩

theorem State.streamRun_touches (s : State) (run : Nat × List Byte) :
    ∃ j i, s.streamRun run = { s with crypto := j, intake := i } := by
  unfold State.streamRun
  dsimp only
  split
  · exact ⟨_, _, rfl⟩
  · split
    · obtain ⟨_, _, e⟩ := State.kickStream_touches { s with intake := { s.intake with
        buffer := s.intake.buffer ++ run.2, session := { s.intake.session with expected := run.1 + run.2.length } } }
      exact ⟨_, _, e⟩
    · split
      · exact ⟨_, _, rfl⟩
      · obtain ⟨_, _, e⟩ := s.breakStream_touches run.1
        rw [e]
        exact ⟨_, _, rfl⟩

theorem State.streamRuns_touches (runs : List (Nat × List Byte)) (s : State) :
    ∃ j i, runs.foldl State.streamRun s = { s with crypto := j, intake := i } := by
  induction runs generalizing s with
  | nil => exact ⟨_, _, rfl⟩
  | cons r runs ih =>
    obtain ⟨_, _, e⟩ := s.streamRun_touches r
    rw [List.foldl_cons, e]
    obtain ⟨_, _, e'⟩ := ih { s with crypto := _, intake := _ }
    exact ⟨_, _, e'⟩

theorem State.stagingComplete_touches (s : State) (r : StagingReport) :
    ∃ j i, s.stagingComplete r = { s with crypto := j, intake := i } := by
  unfold State.stagingComplete
  split
  · exact ⟨_, _, rfl⟩
  · cases r with
    | erase sectors =>
      dsimp only
      split
      · rename_i k _
        obtain ⟨_, _, e⟩ := s.breakStream_touches (k * 0x1000)
        rw [e]
        exact ⟨_, _, rfl⟩
      · exact ⟨_, _, rfl⟩
    | program runs =>
      dsimp only
      obtain ⟨_, _, e⟩ := State.streamRuns_touches runs (s.setSectors (runs.map fun x => x.1 / 0x1000) .written)
      exact ⟨_, _, e⟩

/-! ## The link and the aperture -/

theorem State.dropClaim_touches (s : State) (c : Ctx) : ∃ r, s.dropClaim c = { s with requests := r } := by
  unfold State.dropClaim; split <;> exact ⟨_, rfl⟩

theorem State.answerClaimed_touches (s : State) (c : Ctx) (st : Status) (detail : Nat) (body : List Byte) :
    ∃ r a, s.answerClaimed c st detail body = { s with requests := r, alert := a } := by
  obtain ⟨_, e⟩ := (s.answer c st detail body).dropClaim_touches c
  exact ⟨_, _, e⟩

theorem State.discardRequest_touches (s : State) (c : Ctx) :
    ∃ r st j t i, s.discardRequest c = { s with requests := r, store := st, crypto := j, time := t, intake := i } := by
  have h1 : ∃ i, s.discardOpen c = { s with intake := i } := by
    unfold State.discardOpen
    dsimp only
    split
    · exact ⟨_, rfl⟩
    · split <;> exact ⟨_, rfl⟩
  obtain ⟨i, e1⟩ := h1
  have h2 : ∃ r, ({ s with intake := i } : State).discardClaim c = { s with intake := i, requests := r } := by
    obtain ⟨_, e⟩ := State.dropClaim_touches { s with
      intake := i, requests := { s.requests with claimQueue := s.requests.claimQueue.filter (· ≠ c) } } c
    unfold State.discardClaim
    dsimp only
    rw [e]
    split <;> exact ⟨_, rfl⟩
  obtain ⟨r, e2⟩ := h2
  unfold State.discardRequest
  dsimp only
  rw [e1, e2]
  exact ⟨_, _, _, _, _, rfl⟩

theorem State.takeFrame_touches (s : State) (c : Ctx) (frame : List Byte) :
    ∃ r a, s.takeFrame c frame = { s with requests := r, alert := a } := ⟨_, _, rfl⟩

theorem State.answerUnlisted_touches (s : State) (c : Ctx) :
    ∃ r a, s.answerUnlisted c = { s with requests := r, alert := a } := by
  unfold State.answerUnlisted
  split
  · split <;> exact ⟨_, _, rfl⟩
  · exact ⟨_, _, rfl⟩

theorem State.placed_touches (s : State) (c : Ctx) (buffer : List Byte) :
    ∃ r a, s.placed c buffer = { s with requests := r, alert := a } := by
  unfold State.placed
  split
  · exact ⟨_, _, rfl⟩
  · split
    · exact ⟨_, _, rfl⟩
    · split
      · exact s.takeFrame_touches c _
      · exact ⟨_, _, rfl⟩

theorem State.deliver_touches {s t : State} {page off : Nat} {bytes : List Byte} (h : s.deliver page off bytes = some t) :
    ∃ r a st j tm i, t = { s with requests := r, alert := a, store := st, crypto := j, time := tm, intake := i } := by
  unfold State.deliver at h
  dsimp only at h
  split at h
  · cases h
  · split at h
    · split at h
      · obtain rfl := Option.some.inj h
        obtain ⟨_, _, _, _, _, e⟩ := s.discardRequest_touches (pageCtx page)
        rw [e]
        obtain ⟨_, _, e'⟩ := State.takeFrame_touches
          { s with requests := _, store := _, crypto := _, time := _, intake := _ } (pageCtx page) (bytes.take 8)
        exact ⟨_, _, _, _, _, _, e'⟩
      · cases h
    · split at h
      · obtain rfl := Option.some.inj h
        obtain ⟨_, _, e⟩ := s.placed_touches (pageCtx page) bytes
        exact ⟨_, _, _, _, _, _, e⟩
      · obtain rfl := Option.some.inj h
        exact ⟨_, _, _, _, _, _, rfl⟩
    · split at h
      · obtain rfl := Option.some.inj h
        obtain ⟨_, _, e⟩ := s.placed_touches (pageCtx page) bytes
        exact ⟨_, _, _, _, _, _, e⟩
      · split at h
        · obtain rfl := Option.some.inj h
          obtain ⟨_, _, e⟩ := s.placed_touches (pageCtx page) ((s.ctx (pageCtx page)).buffer ++ bytes)
          exact ⟨_, _, _, _, _, _, e⟩
        · obtain rfl := Option.some.inj h
          exact ⟨_, _, _, _, _, _, rfl⟩

theorem State.deliverAll_touches (page base : Nat) (runs : List (Nat × List Byte)) (s : State) :
    ∃ r a st j tm i, (s.deliverAll page base runs).1 =
      { s with requests := r, alert := a, store := st, crypto := j, time := tm, intake := i } := by
  induction runs generalizing s with
  | nil => exact ⟨_, _, _, _, _, _, rfl⟩
  | cons run runs ih =>
    obtain ⟨off, bytes⟩ := run
    unfold State.deliverAll
    split
    · exact ih s
    · rename_i s' hd
      obtain ⟨_, _, _, _, _, _, e⟩ := State.deliver_touches hd
      obtain ⟨_, _, _, _, _, _, e'⟩ := ih s'
      rw [e', e]
      exact ⟨_, _, _, _, _, _, rfl⟩

theorem State.deliverProgram_touches (s : State) (page base : Nat) (runs : List (Nat × List Byte)) :
    ∃ r a st j tm i, (s.deliverProgram page base runs).1 =
      { s with requests := r, alert := a, store := st, crypto := j, time := tm, intake := i } := by
  obtain ⟨_, _, _, _, _, _, e⟩ := State.deliverAll_touches page base runs s
  obtain ⟨_, _, e'⟩ := (s.deliverAll page base runs).1.answerUnlisted_touches (pageCtx page)
  rw [e] at e'
  unfold State.deliverProgram
  dsimp only
  split
  · exact ⟨_, _, _, _, _, _, e⟩
  · rw [e, e']
    exact ⟨_, _, _, _, _, _, rfl⟩

theorem State.eraseAperture_touches (s : State) (page : Nat) :
    ∃ r a, s.eraseAperture page = { s with requests := r, alert := a } := by
  unfold State.eraseAperture
  dsimp only
  split
  · split <;> exact ⟨_, _, rfl⟩
  · split <;> exact ⟨_, _, rfl⟩

theorem State.endRead_touches (s : State) (b : Bool) :
    ∃ x w a c t, s.endRead b = { s with storage := x, watch := w, alert := a, creds := c, time := t } := by
  have h1 : ∃ x, (if s.storage.link = .hostRead then
      { s with storage := { s.storage with link := .idle, readAt := none } } else s) = { s with storage := x } := by
    split <;> exact ⟨_, rfl⟩
  obtain ⟨x, e⟩ := h1
  unfold State.endRead
  simp only [e]
  split
  · exact ⟨_, _, _, _, _, rfl⟩
  · obtain ⟨_, _, _, _, e'⟩ := State.takeHits_touches { s with storage := x } _
    exact ⟨_, _, _, _, _, e'⟩

theorem State.readAperture_touches (s : State) (page off : Nat) : ∃ a, s.readAperture page off = { s with alert := a } := by
  unfold State.readAperture; split <;> exact ⟨_, rfl⟩

theorem State.translateAhead_touches (s : State) :
    ∃ l x a, s.translateAhead = { s with link := l, storage := x, alert := a } := by
  have h : ∀ r : Record, ∃ x a, s.serveByte r = { s with storage := x, alert := a } := by
    intro r
    unfold State.serveByte
    split
    · obtain ⟨_, e⟩ := s.readAperture_touches _ _
      exact ⟨_, _, e⟩
    · split <;> exact ⟨_, _, rfl⟩
    · exact ⟨_, _, rfl⟩
  unfold State.translateAhead
  dsimp only
  obtain ⟨_, _, e⟩ := h (s.translateRead s.link.decoder.addr)
  rw [e]
  exact ⟨_, _, _, rfl⟩

/-- The byte translated and its region wait to be driven. -/
@[simp] theorem State.translateAhead_ahead (s : State) :
    s.translateAhead.link.decoder.ahead =
      some (s.readByte (s.translateRead s.link.decoder.addr), (s.translateRead s.link.decoder.addr).region) := rfl

/-- A data slot of a read whose byte was translated with its address drives that byte (R11). -/
theorem State.readSlot_of_ahead (s : State) (value : Byte) (region : Option Nat)
    (h : s.link.decoder.ahead = some (value, region)) :
    s.readSlot = s.setDecoder (s.link.decoder.driveRead value region) := by
  simp [State.readSlot, h]

/-- A data slot of a read that finds no byte translated translates it as the slot begins. -/
theorem State.readSlot_of_none (s : State) (h : s.link.decoder.ahead = none) :
    s.readSlot =
      s.translateAhead.setDecoder
        (s.translateAhead.link.decoder.driveRead (s.readByte (s.translateRead s.link.decoder.addr))
          (s.translateRead s.link.decoder.addr).region) := by
  simp [State.readSlot, h]

theorem State.readSlot_touches (s : State) : ∃ l x a, s.readSlot = { s with link := l, storage := x, alert := a } := by
  rcases h : s.link.decoder.ahead with _ | ⟨value, region⟩
  · rw [s.readSlot_of_none h]
    obtain ⟨_, _, _, e⟩ := s.translateAhead_touches
    rw [e]
    exact ⟨_, _, _, rfl⟩
  · rw [s.readSlot_of_ahead value region h]
    exact ⟨_, _, _, rfl⟩

theorem State.addressSlot_touches (s : State) (cmd : LinkCmd) (b : Byte) :
    ∃ l x a, s.addressSlot cmd b = { s with link := l, storage := x, alert := a } := by
  unfold State.addressSlot
  dsimp only
  split
  · obtain ⟨_, _, _, e⟩ := State.translateAhead_touches (s.setDecoder (s.link.decoder.takeAddress cmd b))
    exact ⟨_, _, _, e⟩
  · exact ⟨_, _, _, rfl⟩

theorem State.clockSlot_touches (s : State) (cmd : LinkCmd) (b : Byte) :
    ∃ l x a, s.clockSlot cmd b = { s with link := l, storage := x, alert := a } := by
  unfold State.clockSlot
  dsimp only
  split
  · exact ⟨_, _, _, rfl⟩
  · exact ⟨_, _, _, rfl⟩
  · exact s.addressSlot_touches cmd b
  · exact ⟨_, _, _, rfl⟩
  · split
    · exact s.readSlot_touches
    · split <;> exact ⟨_, _, _, rfl⟩
  · exact ⟨_, _, _, rfl⟩
  · exact ⟨_, _, _, rfl⟩
  · exact ⟨_, _, _, rfl⟩

theorem State.clockAll_touches (cmd : LinkCmd) (bytes : List Byte) (s : State) :
    ∃ l x a, s.clockAll cmd bytes = { s with link := l, storage := x, alert := a } := by
  induction bytes generalizing s with
  | nil => exact ⟨_, _, _, rfl⟩
  | cons b bytes ih =>
    obtain ⟨_, _, _, e⟩ := s.clockSlot_touches cmd b
    show ∃ l x a, (s.clockSlot cmd b).clockAll cmd bytes = _
    rw [e]
    obtain ⟨_, _, _, e'⟩ := ih { s with link := _, storage := _, alert := _ }
    exact ⟨_, _, _, e'⟩

theorem State.refuse_touches (s : State) (start : Nat) (kind : AccessKind) (region : Option Nat) :
    ∃ l w a c t, s.refuse start kind region = { s with link := l, watch := w, alert := a, creds := c, time := t } := by
  obtain ⟨_, _, _, _, e⟩ :=
    State.reportRefusal_touches { s with link := { s.link with refused := true } } start kind region
  exact ⟨_, _, _, _, _, e⟩

end Sys2Proof.Machine
end

