-- ==== Sys2Proof/Laws/Session.lean ====
section
/-! SUPPORT. All that dropping the intake's work, and the ends of a session over it, can do (R45, R87, R94, R107, R119). -/

namespace Sys2Proof.Machine

open Sys2Proof

/-- All that cancelling the intake's background read can do (R45). -/
theorem State.cancelRead_update (s : State) :
    (∀ j, s.storage.job = some j → j.user = .update →
        s.cancelRead .update =
          { s with storage := { s.storage with job := none, link := if j.running then .idle else s.storage.link } }) ∧
      ((∀ j, s.storage.job = some j → j.user ≠ .update) → s.cancelRead .update = s) := by
  refine ⟨fun j h u => by simp [State.cancelRead, h, u], fun h => ?_⟩
  cases e : s.storage.job with
  | none => simp [State.cancelRead, e]
  | some j => simp [State.cancelRead, e, h j e]

/-- All that dropping the intake's work can do (R45, R94, R107, R119). -/
theorem State.dropIntakeWork_drops (s : State) :
    DropsIntakeWork s s.dropIntakeWork ∧ s.dropIntakeWork.intake.session = s.intake.session ∧
      { s.dropIntakeWork with intake := s.intake, crypto := s.crypto, storage := s.storage } = s := by
  obtain ⟨k1, k2⟩ := s.cancelRead_update
  unfold State.dropIntakeWork
  by_cases h : ∃ j, s.storage.job = some j ∧ j.user = .update
  · obtain ⟨j, h, u⟩ := h
    rw [k1 j h u]
    refine ⟨⟨rfl, rfl, fun i hi _ => ?_, fun n => absurd u (n j h)⟩, rfl, rfl⟩
    rw [h] at hi; cases hi; rfl
  · have n : ∀ j, s.storage.job = some j → j.user ≠ .update := fun j hj u => h ⟨j, hj, u⟩
    rw [k2 n]
    exact ⟨⟨rfl, rfl, fun j hj u => absurd u (n j hj), fun _ => rfl⟩, rfl, rfl⟩

/-- All that the entry into IDLE can do (R87, R107). -/
theorem State.restSession_drops (s : State) :
    DropsIntakeWork s s.restSession ∧ s.restSession.intake.session = Session.resting ∧
      { s.restSession with intake := s.intake, crypto := s.crypto, storage := s.storage } = s := by
  obtain ⟨d, _, f⟩ := s.dropIntakeWork_drops
  exact ⟨d, rfl, f⟩

/-- All that the entry into FAILED can do (R87, R96, R103, R108). -/
theorem State.failSession_drops (s : State) (reason : FailReason) (detail : Nat) :
    DropsIntakeWork s (s.failSession reason detail) ∧
      (s.failSession reason detail).intake.session =
        { s.intake.session with state := .failed, reason := reason, detail := detail, deadline := none } ∧
      AlertStep s.time.tick 0 sourceUpdate s.alert (s.failSession reason detail).alert ∧
      { s.failSession reason detail with
        intake := s.intake, crypto := s.crypto, storage := s.storage, alert := s.alert } = s := by
  obtain ⟨d, e, f⟩ := s.dropIntakeWork_drops
  have a : s.dropIntakeWork.alert = s.alert := congrArg (·.alert) f
  have c : s.dropIntakeWork.time = s.time := congrArg (·.time) f
  refine ⟨d, ?_, ?_, congrArg (fun x : State => { x with alert := s.alert }) f⟩
  · rw [← e]; rfl
  · have r := State.raise_step
      (s.dropIntakeWork.setSession
        { s.dropIntakeWork.intake.session with state := .failed, reason := reason, detail := detail, deadline := none })
      sourceUpdate
    rw [← a, ← c]; exact r

end Sys2Proof.Machine
end

