-- ==== Sys2Proof/Tests/Slice0.lean ====
section
/-! SUPPORT. Tests. Those of the first parts take their expected values from the worked examples and tables of spec/, named at each;
each runs one step from a small state. The last part shows, for every statement with hypotheses, states and operands that
meet them. -/

namespace Sys2Proof.Tests

open Sys2Proof Sys2Proof.Machine

/-! ## Well-formedness: the ill-formed term of each check is refused -/

theorem test_wf_refuses_whole_stray_byte : (Instr.writeEnable (.release 8)).wf = false := by decide
theorem test_wf_refuses_whole_stray_byte_of_transaction : (Instr.read (.transaction [0, 0, 0] 8)).wf = false := by decide
theorem test_wf_refuses_decoded_byte_as_unknown : (Instr.unknownCommand 0x03 .command).wf = false := by decide
theorem test_wf_refuses_long_run : (Instr.backgroundJobRun 4097).wf = false := by decide
theorem test_wf_takes_stray_bits : (Instr.pageProgram (.release 7)).wf = true := by decide

/-! ## States to start from -/

/-- The reference layout (section 1.10). -/
def reference : Table where
  baseA := 0x0000000
  baseB := 0x0C00000
  slotSize := 0xC00000
  reserved := 0
  descriptors :=
    [⟨0, 1, 0, 0, 0x000, 0x80, 0x001000⟩, ⟨1, 1, 0, 0, 0x080, 0x900, 0x081000⟩, ⟨2, 2, 0, 0, 0x980, 0x200, 0⟩,
      ⟨3, 3, 0, 2, 0xB80, 0x100, 0x1800000⟩, ⟨4, 4, 0, 0, 0xC80, 0x10, 0x1900000⟩, ⟨5, 3, 0, 1, 0xC90, 0x300, 0x1910000⟩]

/-- A released part in FIELD under the reference layout. -/
def up (active : Slot) (trust : Trust) (tick : Nat) : State :=
  let r : Retained :=
    { Retained.production with
      stage := .field, tables := ⟨some reference, some reference⟩, selector := active, bootCount := 42
      records := ⟨⟨.good, 7, 0, false, ⟨[], []⟩⟩, ⟨.good, 6, 0, false, ⟨[], []⟩⟩⟩ }
  { State.reset with
    xlat := ⟨.table active reference, false⟩
    restart := { State.reset.restart with phase := .released, work := .none }
    watch := { State.reset.watch with trust := trust }
    time := { State.reset.time with tick := tick, bootCounted := true }
    storage := { State.reset.storage with capacity := some 0x2000000 }
    store := ⟨r, r, [], none⟩ }

/-- A request of a context, routed and not yet taken. -/
def ask (s : State) (c : Ctx) (code tag : Nat) (body : List Byte) : State :=
  s.setCtx c ⟨.executing, [], none, some (s.time.tick + 50), some ⟨code, tag, body, .routed⟩, .pending tag code, .none⟩

/-- A request that has come this far. -/
def doing (s : State) (c : Ctx) (code tag : Nat) (body : List Byte) (w : ExecWork) : State :=
  s.setCtx c ⟨.executing, [], none, none, some ⟨code, tag, body, w⟩, .pending tag code, .none⟩

/-- The write-enable latch set. -/
def latched (s : State) : State := { s with link := { s.link with wel := true } }

/-- The session in a state, with an owner and a bank. -/
def staging (s : State) (st : SessionState) (owner : Ctx) (bank : Nat) : State :=
  { s with
    intake :=
      { s.intake with
        session := { Session.resting with state := st, owner := some owner, bank := bank, deadline := some (s.time.tick + 10) }
        tracker := List.replicate 0xC00 .stale } }

/-- Change the retained records of both copies. -/
def retain (s : State) (f : Retained → Retained) : State :=
  { s with store := { s.store with working := f s.store.working, nonvolatile := f s.store.nonvolatile } }

/-- The state a command leaves; State.reset where it stops. -/
def after (i : Instr) (s : State) : State :=
  match exec i s with
  | .next t => t
  | _ => State.reset

/-- A context's response. -/
def answerOf (s : State) (c : Ctx) : Response := (s.ctx c).response

/-! ## Translation (section 1.10): slot B active, bank 400000h -/

theorem test_reference_layout_is_valid : reference.valid = true := by decide

def worked : State := staging (up .b .degraded 0) .receiving .c0 0x400000

theorem test_translate_image : (worked.translateRead 0x0A3F10).verdict = .forward 0x0CA4F10 := by decide
theorem test_translate_staging : (worked.translateRead 0x9A0100).verdict = .forward 0x0420100 := by decide
theorem test_translate_locked : (worked.translateRead 0xC80010).verdict = .forward 0x1900010 := by decide
theorem test_translate_uncovered : (worked.translateRead 0xFA0000).verdict = .fill := by decide
theorem test_translate_aperture : (worked.translateRead 0xFFD004).verdict = .aperture 1 4 := by decide
theorem test_translate_region_end : (worked.translateRead 0x97FFFF).verdict = .forward 0x1580FFF := by decide
theorem test_translate_other_slot :
    ((staging (up .a .degraded 0) .receiving .c0 0x400000).translateRead 0x9A0100).verdict = .forward 0x1020100 := by decide

/-! ## The upstream link -/

/-- The bytes driven in a transaction. -/
def driven (s : State) : List Byte := s.link.decoder.out

theorem test_read_identification :
    driven (after (.readIdentification (.transaction [0, 0, 0, 0] 0)) worked) = [0xD7, 0x2C, 0x18, 0x00] := by decide
theorem test_write_enable_sets_latch : (after (.writeEnable (.transaction [] 0)) worked).link.wel = true := by decide
theorem test_write_enable_with_stray_clock_is_abandoned :
    (after (.writeEnable (.transaction [] 1)) worked).link.wel = false := by decide
theorem test_write_disable_clears_latch :
    (after (.writeDisable (.transaction [] 0)) (latched worked)).link.wel = false := by decide
theorem test_read_status_shows_latch :
    driven (after (.readStatus (.transaction [0] 0)) (latched worked)) = [0x02] := by decide
theorem test_fast_read_skips_dummy :
    driven (after (.fastRead (.transaction [0x0A, 0x3F, 0x10, 0x77, 0] 0))
      { worked with flash := ⟨[(0x0CA4F10, 0x5A)], none⟩ }) = [0x5A] := by decide
theorem test_quad_read_goes_round_the_top :
    driven (after (.quadOutputFastRead (.transaction [0xFF, 0xFF, 0xFF, 0, 0, 0] 0))
      { worked with flash := ⟨[(0x0C01000, 0x11)], none⟩ }) = [0xFF, 0x11] := by decide
theorem test_unknown_command_drives_nothing :
    driven (after (.unknownCommand 0xAB (.transaction [1, 2] 0)) worked) = [] := by decide
/-- The first byte is translated with its last address bit (R11): a map that is taken away before its data slot does not
alter it, and the byte after it is fill. -/
theorem test_first_byte_is_translated_with_its_address :
    (let s := after (.read (.clock [0x0A, 0x3F, 0x10])) (after (.read .command) (after (.read .select)
      { worked with flash := ⟨[(0x0CA4F10, 0x5A), (0x0CA4F11, 0x5B)], none⟩ }))
     driven (after (.read (.clock [0, 0])) { s with xlat := ⟨.none, false⟩ })) = [0x5A, 0xFF] := by decide
theorem test_ignoring_ends_in_idle :
    (after .ignoringTransactionEnd
      { worked with link := { worked.link with decoder := { Decoder.idle with state := .ignoring } } }).link.decoder.state =
      .idle := by decide

/-- The wrapped page program of section 1.10, shortened to two bytes: FFh of the page, then 00h. -/
theorem test_page_program_wraps :
    (after (.pageProgram (.transaction [0xB8, 0x00, 0xFF, 0x01, 0x02] 0)) (latched (up .b .trial 0))).flash.busy =
      some (.program [(0x18000FF, 0x01), (0x1800000, 0x02)]) := by decide
theorem test_sector_erase_of_staging :
    (after (.sectorErase (.transaction [0x9A, 0x34, 0x56] 0)) (latched worked)).flash.busy =
      some (.eraseSector 0x0423000) := by decide
theorem test_block_erase_in_one :
    (after (.blockErase (.transaction [0x9A, 0x00, 0x00] 0)) (latched worked)).flash.busy = some (.eraseBlock 0x0420000) := by
  decide
theorem test_block_erase_at_the_aperture_is_refused :
    (after (.blockErase (.transaction [0xFF, 0x00, 0x00] 0)) (latched worked)).link.refused = true := by decide
theorem test_chip_erase_is_refused :
    ((after (.chipErase (.transaction [] 0)) (latched worked)).watch.hits.map fun h => (h.start, h.entry)) =
      [(0, none)] := by decide

/-- Section 1.10's modified layout: physical base 1914000h, so 16 sector erases. -/
theorem test_block_erase_substituted :
    eraseOps ((List.range 16).map fun i => 0x1914000 + i * 0x1000) =
      (List.range 16).map fun i => .eraseSector (0x1914000 + i * 0x1000) := by decide

/-! ## Requests through the aperture (section 10.8) -/

theorem test_skipped_offset_answers_framing :
    (answerOf (after (.pageProgram (.transaction [0xFF, 0xC0, 0x08, 0x00] 0))
      (latched ((up .b .verified 30200).setCtx .c0
        { Context.reset with state := .assembling, buffer := [0x6A, 0x63, 0x01, 0x0A], deadline := some 31000 }))) .c0).echo =
      (0x0A01, 0x63) := by decide
/-- An assembling context whose frame of an unlisted code is 4 bytes short at the end of its page. -/
def unlisted : State :=
  latched ((up .b .verified 9).setCtx .c0
    { Context.reset with
      state := .assembling, buffer := [0x6A, 0x7F, 1, 0, 248, 0, 0, 0] ++ zeros 244, deadline := some 1000 })

/-- Four bytes end the frame, and a second run at the start of the page is refused (R173), before the answer (R177). -/
theorem test_second_run_after_an_unlisted_frame_is_refused :
    (let t := after (.pageProgram (.transaction ([0xFF, 0xC0, 0xFC] ++ zeros 8) 0)) unlisted
     (t.link.refused, t.watch.hits.length, answerOf t .c0)) = (true, 1, .ready 1 0x7F .unknownRequest 0 []) := by
  decide +kernel
/-- A second run that is a reset frame is taken, by the table of R173 and by R178 (log entry 48). -/
theorem test_second_run_that_is_a_reset_frame_is_taken :
    (let t := after (.pageProgram (.transaction ([0xFF, 0xC0, 0xFC] ++ zeros 4 ++ [0x6A, 2, 5, 0, 0, 0, 0, 0]) 0)) unlisted
     (t.link.refused, (t.ctx .c0).response, (t.ctx .c0).request)) =
      (false, .pending 5 0x02, some ⟨0x02, 5, [], .routed⟩) := by
  decide +kernel
theorem test_timeout_echoes_tag :
    answerOf (after (.timeout .c0) ((up .b .verified 31000).setCtx .c0
      { Context.reset with state := .assembling, buffer := [0x6A, 0x63, 0x01, 0x0A], deadline := some 31000 })) .c0 =
      .ready 0x0A01 0x63 .timeout 0 [] := by decide
theorem test_busy_cap :
    ((after (.requestBusyCapExpiry .c1) { ask (up .b .verified 40000) .c1 0x63 0x0B01 [] with
      time := { (up .b .verified 40050).time with tick := 40050 } }).ctx .c1).busyCap = none := by decide

/-! ## Stamps and ticks (sections 7.6 and 7.7) -/

/-- A part whose last stamp is given. -/
def stamped (x : Stamp) (tick : Nat) : State :=
  let s := latched (up .b .verified tick)
  { s with time := { s.time with lastStamp := some x } }

theorem test_stamp_sequence_rises_within_a_tick :
    (after (.chipErase (.transaction [] 0)) (stamped ⟨42, 90210, 0⟩ 90210)).time.lastStamp = some ⟨42, 90210, 1⟩ := by decide
theorem test_wait_list_is_served_in_order :
    ((after .stampWaitServe (let s := stamped ⟨42, 5000, 65535⟩ 5001
      { s with
        time := { s.time with waiting := [.hit] }
        watch := { s.watch with waiting := [⟨0, .erase, none, none, false, false, false⟩] } })).watch.hits.map
      (·.stamp)) = [⟨42, 5001, 0⟩] := by decide
theorem test_tick_counts : (after (.tick false) (up .b .verified 4999)).time.tick = 5000 := by decide
theorem test_tick_holds_at_its_top :
    (after (.tick false) (up .b .verified 0xFFFFFFFFFFFF)).time.tick = 0xFFFFFFFFFFFF := by decide
theorem test_time_set :
    (after (.timeSet .c0) (ask (up .b .verified 120400) .c0 0x50 1 (le 8 189400000))).time.wall =
      some (189400000, 120400) := by decide
theorem test_time_read_counts_whole_seconds :
    (let s := up .b .verified 121399
     { s with time := { s.time with wall := some (189400000, 120400) } }).time.wallAt 121400 = some 189400001 := by decide
theorem test_time_set_needs_trust :
    answerOf (after (.timeSet .c0) (ask (up .b .degraded 0) .c0 0x50 1 (le 8 189500000))) .c0 =
      .ready 1 0x50 .trustTooLow 0 [] := by decide
theorem test_time_read_length :
    (up .b .verified 1).timeBody.length = 28 := by decide

/-! ## Watch hits (section 4.9) -/

/-- The part of section 4.9 at a tick, with its watch table. -/
def watched (trust : Trust) (tick : Nat) : State :=
  let s := latched (up .b trust tick)
  { s with
    watch :=
      { s.watch with
        table :=
          [⟨0xC80, 0x10, true, false, false, false, false⟩, ⟨0xC90, 0x20, false, true, false, true, true⟩,
            ⟨0xB80, 0x100, false, true, true, false, false⟩] } }

theorem test_read_hits_its_region :
    (after (.read (.transaction ([0xC7, 0xFF, 0xF0] ++ List.replicate 17 0) 0)) (watched .verified 5000)).watch.hits =
      [⟨⟨42, 5000, 0⟩, 0xC7FFF0, .read, some 4, some 0⟩] := by decide
theorem test_refusal_is_one_hit :
    (after (.sectorErase (.transaction [0x0A, 0x30, 0x00] 0)) (watched .verified 7000)).watch.hits =
      [⟨⟨42, 7000, 0⟩, 0x0A3000, .erase, some 1, none⟩] := by decide

/-- A page program of region 5 that waits for the end of its busy period. -/
def programming : State :=
  let s := watched .verified 8001
  let op : FlashOp := .program [(0x1910000, 0x00)]
  { s with
    storage :=
      { s.storage with
        link := .hostForward, forward := some ⟨.program, 0xC90000, [op], 0, [(0xC90, some 5)], none, true⟩ }
    flash := ⟨[], some op⟩ }

theorem test_degrade_hit_drops_trust :
    (let t := after (.hostForwardComplete true) programming
     (t.watch.trust, t.alert.pending, t.watch.hits)) =
      (.degraded, 0x84, [⟨⟨42, 8001, 0⟩, 0xC90000, .program, some 5, some 1⟩]) := by decide
theorem test_completion_programs_and_flags :
    (let t := after (.hostForwardComplete true) programming
     (t.flash.mem, t.watch.altered)) = ([(0x1910000, 0x00)], 0x0020) := by decide

/-- The first two sector erases of the substituted block erase of section 1.10, over these contents. -/
def erasing (mem : List Host.Cell) : State :=
  { worked with
    storage :=
      { worked.storage with
        link := .hostForward
        forward := some ⟨.erase, 0xC90000, [.eraseSector 0x1914000, .eraseSector 0x1915000], 0, [], none, true⟩ }
    flash := ⟨mem, some (.eraseSector 0x1914000)⟩ }

theorem test_substitute_goes_to_next :
    (after (.substituteEraseNext true) (erasing [])).flash.busy = some (.eraseSector 0x1915000) := by decide
/-- The 4 KiB of the sector, first and last byte, and its neighbours. -/
theorem test_sector_erase_keeps_its_neighbours :
    (after (.substituteEraseNext true)
      (erasing [(0x1913FFF, 1), (0x1914000, 2), (0x1914FFF, 3), (0x1915000, 4)])).flash.mem =
      [(0x1913FFF, 1), (0x1915000, 4)] := by decide

/-! ## Restarts (sections 3.12 and 9.6) -/

theorem test_power_on_begins_in_held :
    (let t := after (.powerOn false false) (up .b .verified 500000)
     (t.restart.phase, t.time.tick, t.time.lastStamp)) = (.held, 0, none) := by decide
theorem test_power_loss_stops : (after .powerLoss worked).running = false := by decide
theorem test_reset_low_stops : (after .resetNLow worked).running = false := by decide
theorem test_line_reset_has_its_cause :
    (after (.lineReset true) (after .resetNLow worked)).restart.outcome.cause = .lineReset := by decide
theorem test_restart_line_zeroes_registers_and_keeps_hits :
    (let t := after .restartLine
      (let s := stamped ⟨57, 1, 0⟩ 2400000
       { s with watch := { s.watch with hits := [⟨⟨57, 1, 0⟩, 0, .erase, none, none⟩], altered := 8 } })
     (t.restart.phase, t.watch.altered, t.watch.hits.length, t.watch.trust)) = (.held, 0, 1, .unverified) := by decide
theorem test_restart_line_level_is_no_edge :
    (after .restartLine { worked with pins := ⟨true, false, true⟩ }).restart.phase = .released := by decide
theorem test_deassert_rearms : (after .rstReqNDeassert { worked with pins := ⟨true, false, true⟩ }).pins.rstReq = false := by
  decide
theorem test_trial_expiry_restarts :
    (after .trialExpiry (let s := up .b .trial 450950
      { s with restart := { s.restart with trialDeadline := some 450950 } })).restart.outcome.cause = .trialExpiry := by decide
theorem test_trial_alert_comes_a_minute_before :
    (after .trialAlertRaise (let s := up .b .trial 390950
      { s with restart := { s.restart with trialDeadline := some 450950 } })).alert.pending = sourceTrial := by decide

/-- HELD, ready to end, with slot B on trial and this many attempts left. -/
def held (attempts : Nat) : State :=
  let s := retain (up .b .unverified 150000) fun r =>
    { r with attempts := attempts, records := ⟨⟨.good, 7, 0, false, ⟨[], []⟩⟩, ⟨.trial, 8, 0, true, ⟨[], []⟩⟩⟩ }
  { s with xlat := ⟨.none, false⟩, restart := { s.restart with phase := .held, work := .held false } }

/-- The part on hold after REGION_LOAD in MANUFACTURE, with this work, while a program issued before still runs in slot B. -/
def behindForward (w : RestartWork) : State :=
  let s := retain programming fun r => { r with stage := .manufacture }
  { s with
    xlat := ⟨.none, true⟩
    watch := { s.watch with trust := .unverified }
    restart := { s.restart with phase := .held, bootWindow := false, work := w }
    storage :=
      { s.storage with link := .hostForward, forward := some ⟨.program, 0xC00000, [.program [(0xC00000, 0x00)]], 0, [], none, false⟩ }
    flash := ⟨[], some (.program [(0xC00000, 0x00)])⟩ }

/-- The law of R13: the last digest job leaves the host held behind the forward, and the forward's end releases it. -/
theorem test_release_waits_for_a_forward_before_the_loaded_table :
    (let s := behindForward (.release .extend2 .unverified)
     let t := after .cryptoJobEnd { s with crypto := ⟨some ⟨⟨.restart, .extend 2 5⟩, .digest 5, false⟩, [], []⟩ }
     (t.restart.phase, t.restart.work, t.xlat)) = (.held, .release .force .unverified, ⟨.none, true⟩) := by decide
theorem test_forward_end_releases_the_loaded_table :
    (let t := after (.hostForwardComplete true) (behindForward (.release .force .unverified))
     (t.restart.phase, t.xlat, t.flash.busy)) = (.released, ⟨.table .b reference, false⟩, none) := by decide

theorem test_held_end_counts_an_attempt :
    (after .heldEnd (held 3)).store.queue = [⟨.restart, .countAttempt, true⟩] := by decide
theorem test_held_end_reverts_without_attempts :
    (after .heldEnd (held 0)).store.queue = [⟨.restart, .revert, true⟩] := by decide
theorem test_revert_selects_the_other_slot :
    (let r := WriteKind.revert.values (held 0).store.working
     (r.selector, r.records.b.state, r.attempts)) = (.a, .rejected, 0) := by decide
theorem test_presence_release_keeps_the_halt_reason :
    (after .presenceRelease (let s := up .b .unverified 0
      { s with
        restart := { s.restart with phase := .halted .noBootableSlot, presenceHold := 10000 } })).restart.outcome.halt =
      .noBootableSlot := by decide
theorem test_capacity_below_32_mib :
    (after (.capacityHandover 0x18 false) State.reset).storage.capacity = some 0 := by decide
theorem test_capacity_of_32_mib :
    (after (.capacityHandover 0x19 false) State.reset).storage.capacity = some 0x2000000 := by decide

/-! ## Background reads (section 2.7) -/

/-- The read-back of section 2.7 after this many bytes. -/
def reading (n : Nat) (running : Bool) : State :=
  let s := up .b .degraded 0
  { s with
    storage :=
      { s.storage with
        link := if running then .background else .idle
        job := some ⟨.update, 0x1000, 0x1000, 0x1000 + n, List.replicate n 0xFF, running⟩ } }

theorem test_job_runs_on :
    ((after (.backgroundJobRun 8) (reading 0 false)).storage.job.map fun j => (j.next, j.running)) =
      some (0x1008, true) := by decide
theorem test_host_read_suspends_the_job :
    ((after (.read (.transaction [0x0A, 0x3F, 0x10, 0] 0)) (reading 8 true)).storage.job.map fun j => (j.next, j.running)) =
      some (0x1008, false) := by decide
theorem test_job_ends :
    (after .backgroundReadComplete (reading 0xFFF true)).storage.link = .idle := by decide

/-! ## Alerts (R185, R186) -/

theorem test_alert_set_raises_a_short_interval :
    (after (.alertSet .c0) (ask worked .c0 0x05 1 [0xFF, 99, 0])).alert.interval = 100 := by decide
theorem test_alert_read_clears_lockout :
    (after (.alertRead .c1) (ask { worked with alert := { worked.alert with pending := 0x44, line := .asserted } } .c1 0x04 1
      [])).alert.pending = 0x06 := by decide
theorem test_realert_pulse :
    (after .realertExpiry { worked with
      alert := { worked.alert with pending := 4, line := .asserted, interval := 100, timer := some 0 } }).alert.line =
      .pulse := by decide
theorem test_alert_read_keeps_the_pulse :
    (let t := after (.alertRead .c0) (ask { worked with alert := { worked.alert with pending := 0x40, line := .pulse } } .c0
      0x04 1 [])
     (t.alert.pending, t.alert.line)) = (0x01, .pulse) := by decide
/-- Clearing a source that is not pending has no effect, on a PULSE too (R184). -/
theorem test_clear_of_nothing_keeps_the_pulse :
    (({ worked with alert := { worked.alert with line := .pulse } } : State).clearSource (responseSource .c1)).alert.line =
      .pulse := by decide
/-- A line that becomes ASSERTED has its timer armed (R184, R186). -/
theorem test_asserted_line_arms_the_timer :
    (let s := up .b .verified 9
     let t := ({ s with alert := { s.alert with interval := 100 } } : State).raise sourceWatch
     (t.alert.line, t.alert.timer, (t.clearSource sourceWatch).alert.line, (t.clearSource sourceWatch).alert.timer)) =
      (.asserted, some 109, .released, none) := by decide
theorem test_pulse_ends :
    (after .pulseEnd (let s := up .b .verified 9
      { s with alert := { s.alert with pending := 4, line := .pulse, interval := 100, pulseTick := 8 } })).alert.timer =
      some 109 := by decide

/-! ## The update session (section 5.12) -/

/-- Slot A active, an unclaimed or claimed session of context 0. -/
def updating (st : SessionState) (tick : Nat) : State := staging (up .a .verified tick) st .c0 0

/-- A write in progress with the values it has fixed. -/
def writing (s : State) (owner : Requester) (k : WriteKind) : State :=
  { s with store := { s.store with taken := some ⟨⟨owner, k, true⟩, k.values s.store.working⟩ } }

theorem test_update_open_empties_the_inactive_record :
    (after (.updateOpen .c0) (ask (up .a .verified 20000) .c0 0x30 1 [])).store.queue =
      [⟨.ctx .c0, .openSession 0, true⟩] := by decide
theorem test_staging_bank_fits :
    (after (.stagingBank .c0) (ask (updating .receiving 52000) .c0 0x31 1 (le 4 0x200000))).intake.session.bank =
      0x200000 := by decide
theorem test_update_finish_not_owner :
    answerOf (after (.updateFinish .c1) (ask (updating .receiving 55500) .c1 0x32 1 [])) .c1 =
      .ready 1 0x32 .notOwner 0 [] := by decide
theorem test_update_finish_reads_the_staged_slot :
    ((after (.updateFinish .c0) (ask (updating .receiving 55510) .c0 0x32 1 [])).storage.job.map fun j =>
      (j.start, j.length)) = some (0xC00000, 0x1000) := by decide
/-- A STAGING program is on the real flash (R92). -/
def stagingBusy (s : State) : State :=
  { s with
    storage :=
      { s.storage with
        link := .hostForward, forward := some ⟨.program, 0x980000, [.program []], 0, [], some (.program []), true⟩ }
    flash := ⟨[], some (.program [])⟩ }

theorem test_update_finish_waits_for_a_staging_forward :
    (let t := after (.updateFinish .c0) (stagingBusy (ask (updating .receiving 55510) .c0 0x32 1 []))
     (t.intake.session.state, answerOf t .c0)) = (.receiving, .pending 1 0x32) := by decide
theorem test_repeated_run_breaks_the_stream :
    (let s := updating .receiving 29010
     let t := { s with intake := { s.intake with session := { s.intake.session with expected := 0x40100 } } }.streamRun
       (0x40000, [1, 2])
     (t.intake.session.broken, t.intake.session.firstBreak, t.intake.session.breaks, t.intake.session.expected)) =
      (true, some 0x40000, 1, 0x40002) := by decide
theorem test_idle_timeout_fails :
    (after .idleTimeout { updating .receiving 0 with time := { (updating .receiving 0).time with tick := 10 } }
      ).intake.session.reason = .idleTimeout := by decide
theorem test_update_abort_of_commit_pending :
    (after (.updateAbort .c1) (ask (updating .commitPending 0) .c1 0x35 1 [])).store.queue =
      [⟨.ctx .c1, .clearPending, true⟩] := by decide
theorem test_update_status_length : (updating .receiving 0).sessionBody.length = 39 := by decide
theorem test_commit_hands_over :
    (let s := updating .verified 59100
     (after (.updateCommit .c0) (ask { s with intake := { s.intake with
       session := { s.intake.session with manifest := some ⟨8, 1, true, ⟨[], []⟩, none⟩ } } } .c0 0x34 1 [1])).store.queue) =
      [⟨.ctx .c0, .commit ⟨8, 1, true, ⟨[], []⟩, none⟩ (some reference) true, true⟩] := by decide
theorem test_confirm_raises_the_floor :
    (let r := WriteKind.confirm.values (held 1).store.working
     (r.floor, r.records.b.state, r.attempts)) = (8, .good, 0) := by decide
theorem test_boot_confirm_without_trial :
    answerOf (after (.bootConfirm .c0) (ask (up .a .verified 0) .c0 0x36 1 [])) .c0 = .ready 1 0x36 .sessionState 0 [] := by
  decide

/-! ## Credentials (section 8.9) -/

/-- Slots 4 and 5 SECRET at versions 12, slot 6 VERIFIER, as in section 8.9. -/
def wireless (trust : Trust) (tick fails : Nat) : State :=
  retain (up .b trust tick) fun r =>
    { r with
      creds :=
        ((r.creds.set 4 ⟨some ⟨[0x6E], .secret [1], 2, false, none⟩, 12⟩).set 5
          ⟨some ⟨[0x70], .secret [2, 3], 2, false, none⟩, 12⟩).set 6 ⟨some ⟨[0x61], .verifier 0 0, 0, false, none⟩, 3⟩
      failCounts := r.failCounts.set 6 fails }

/-- A reservation held. -/
def reserving (s : State) (c : Ctx) (r : Reservation) : State := s.setReservation c r

theorem test_reserve_gives_versions_and_values :
    answerOf (after (.credReserve .c0) (ask (wireless .verified 0 0) .c0 0x62 1 [4, 2])) .c0 =
      .ready 1 0x62 .ok 0 [4, 1, 12, 0, 0, 0, 1, 1, 5, 1, 12, 0, 0, 0, 2, 2, 3] := by decide
theorem test_cred_read_trust_too_low :
    answerOf (after (.credRead .c0) (ask (wireless .degraded 0 0) .c0 0x61 1 [5])) .c0 =
      .ready 1 0x61 .trustTooLow 5 [] := by decide
theorem test_cred_read_wrong_class :
    answerOf (after (.credRead .c0) (ask (wireless .verified 0 0) .c0 0x61 1 [6])) .c0 =
      .ready 1 0x61 .wrongClass 6 [] := by decide
theorem test_group_completes_and_other_loses :
    (after .retainedWriteComplete (writing
      (reserving (reserving (doing (wireless .verified 0 0) .c1 0x63 1 [] .awaitWrite) .c0 (.valid [(4, 12), (5, 12)])) .c1
        (.valid [(5, 12)])) (.ctx .c1) (.credGroup [(5, some ⟨[], .secret [9], 2, false, none⟩)]))).creds.reservations =
      ⟨.lost [(4, 12), (5, 12)], .none⟩ := by decide
theorem test_lost_group_is_not_written :
    (let s := reserving (doing (wireless .verified 0 0) .c0 0x63 1 [] .awaitWrite) .c0 (.lost [(4, 12), (5, 12)])
     answerOf (after .retainedWriteTake { s with
      store := { s.store with queue := [⟨.ctx .c0, .credGroup [(4, none), (5, none)], true⟩] } }) .c0) =
      .ready 1 0x63 .reservationLost 0 [] := by decide
theorem test_sixth_mismatch_locks_for_60_seconds :
    (after .retainedWriteComplete (writing (doing (wireless .verified 431000 5) .c0 0x64 1 [6] .awaitWrite) (.ctx .c0)
      (.mismatch 6 3))).creds.lockouts[6] = some 491000 := by decide
theorem test_lockout_expires :
    (after (.lockoutExpiry 6) (let s := wireless .verified 430000 5
      { s with creds := { s.creds with lockouts := s.creds.lockouts.set 6 (some 430000) } })).creds.lockouts[6] = none := by
  decide
theorem test_grant_opens :
    (after .presenceGrantOpen (let s := up .b .verified 7
      { s with creds := { s.creds with hold := 3000 } })).creds.grant = some 30007 := by decide
theorem test_grant_expires :
    (after .presenceGrantExpiry (let s := up .b .verified 30007
      { s with creds := { s.creds with grant := some 30007 } })).creds.grant = none := by decide
theorem test_wipe_needs_presence :
    answerOf (after (.ownerWipe .c0) (ask (up .b .verified 0) .c0 0x65 1 [])) .c0 =
      .ready 1 0x65 .presenceRequired 0 [] := by decide
theorem test_compare_queues_a_job :
    ((after (.credCompare .c0) (ask (wireless .verified 0 0) .c0 0x64 1 [6, 0xAA])).crypto.running.map (·.job)) =
      some ⟨.ctx .c0, .compare 6 [0xAA]⟩ := by decide
theorem test_cond_write_without_reservation :
    answerOf (after (.credWriteCond .c0) (ask (wireless .verified 0 0) .c0 0x63 1
      ([1, 4, 1, 0, 2, 0, 0] ++ zeros 8 ++ [1, 7]))) .c0 = .ready 1 0x63 .reservationLost 0 [] := by decide

/-- A second reset frame finds the write of the first one's provisioning request still running: the claim stays (R178). -/
theorem test_second_reset_frame_leaves_the_claim :
    (let s := doing worked .c0 0x02 1 [] .awaitDiscarded
     let t := { s with
       requests := { s.requests with claim := some .c0 }
       store := { s.store with taken := some ⟨⟨.ctx .c0, .certificate [1], false⟩, s.store.working⟩ } }
     (t.discardRequest .c0).requests.claim) = some .c0 := by decide

/-! ## Keys, measurements, quotes (chapters 4, 6, 9) -/

theorem test_extend_refuses_registers_0_to_2 :
    answerOf (after (.extend .c0) (ask worked .c0 0x20 1 (2 :: zeros 32))) .c0 = .ready 1 0x20 .badParameter 2 [] := by
  decide
theorem test_extend_needs_the_window :
    answerOf (after (.extend .c0) (ask worked .c0 0x20 1 (3 :: zeros 32))) .c0 = .ready 1 0x20 .bootWindowClosed 0 [] := by
  decide
theorem test_extension_result_is_written :
    (after .cryptoJobEnd { doing worked .c0 0x20 1 [] (.extending 5) with
      crypto := ⟨some ⟨⟨.ctx .c0, .extend 5 0⟩, .digest 9, false⟩, [], []⟩ }).watch.registers[5] = 9 := by decide
theorem test_measure_read_orders_registers :
    (answerOf (after (.measureRead .c0) (ask worked .c0 0x21 1 [0xFF])) .c0).bytes.length = 8 + 257 := by decide +kernel
theorem test_close_boot_window :
    (after (.closeBootWindow .c0) (ask { worked with restart := { worked.restart with bootWindow := true } } .c0 0x06 1
      [])).restart.bootWindow = false := by decide
theorem test_watch_load_needs_the_window :
    answerOf (after (.watchLoad .c0) (ask worked .c0 0x12 1 [0])) .c0 = .ready 1 0x12 .bootWindowClosed 0 [] := by decide
theorem test_watch_read_gives_stored_form :
    (watched .verified 0).watchBody =
      [3, 0x80, 0x0C, 0x10, 0, 1, 1, 0, 0, 0x90, 0x0C, 0x20, 0, 2, 7, 0, 0, 0x80, 0x0B, 0, 1, 6, 1, 0, 0, 0, 0] := by decide
theorem test_hits_read_clears :
    (after (.hitsRead .c0) (ask { worked with
      watch := { worked.watch with hits := [⟨⟨42, 1, 0⟩, 0, .erase, none, none⟩], drops := 2 } } .c0 0x14 1 [1])).watch.drops =
      0 := by decide
theorem test_quote_length_of_section_9_6 :
    ((up .b .verified 2460000).quoteRecord 0x0F (zeros 32) ⟨57, 2460000, 0⟩).length + 64 = 304 := by decide +kernel
/-- A quote that waited for its context's discarded job is signed ahead of the other context's later quote (R166). -/
theorem test_quotes_are_signed_in_stamp_order :
    insertJob ⟨.ctx .c0, .signing ((up .b .verified 9).quoteRecord 0 [] ⟨42, 9, 0⟩)⟩
        [⟨.ctx .c1, .signing ((up .b .verified 9).quoteRecord 0 [] ⟨42, 9, 1⟩)⟩] =
      [⟨.ctx .c0, .signing ((up .b .verified 9).quoteRecord 0 [] ⟨42, 9, 0⟩)⟩,
        ⟨.ctx .c1, .signing ((up .b .verified 9).quoteRecord 0 [] ⟨42, 9, 1⟩)⟩] := by decide +kernel
theorem test_quote_without_identity :
    answerOf (after (.quote .c0) (ask worked .c0 0x22 1 [0])) .c0 = .ready 1 0x22 .noIdentity 0 [] := by decide
theorem test_key_read_length : (State.keyBody worked).length = 402 := by decide +kernel
theorem test_cert_read_empty :
    answerOf (after (.certRead .c0) (ask worked .c0 0x23 1 [])) .c0 = .ready 1 0x23 .ok 0 [] := by decide
theorem test_info_length : (State.infoBody worked).length = 17 := by decide
theorem test_cred_list_length : (wireless .verified 0 0).credListBody.length = 1513 := by decide +kernel
theorem test_region_read_of_force :
    (worked.regionAnswer 0).take 5 = [0x02, 0, 0, 0, 0] := by decide
theorem test_derive_needs_trust :
    answerOf (after (.derive .c0) (ask worked .c0 0x44 1 [1])) .c0 = .ready 1 0x44 .trustTooLow 0 [] := by decide
theorem test_context_reset_keeps_the_other_session :
    (after (.contextReset .c1) (ask worked .c1 0x02 1 [])).intake.session.state = .receiving := by decide
theorem test_restart_request_has_its_cause :
    (after (.restart .c1) (ask worked .c1 0x03 1 [])).restart.outcome.cause = .restartRequest := by decide

/-- A part still in MANUFACTURE, released under the identity map. -/
def factory : State :=
  { State.reset with
    xlat := ⟨.identity, false⟩
    restart := { State.reset.restart with phase := .released, work := .none }
    store := { State.reset.store with queue := [] }
    time := { State.reset.time with bootCounted := true } }

theorem test_region_load_in_field :
    answerOf (after (.regionLoad .c0) (ask worked .c0 0x11 1 reference.bytes)) .c0 = .ready 1 0x11 .wrongLifecycle 0 [] := by
  decide
theorem test_region_load_queues_the_table :
    (after (.regionLoad .c0) (ask factory .c0 0x11 1 reference.bytes)).store.queue =
      [⟨.ctx .c0, .loadTable reference, true⟩] := by decide
theorem test_identity_generate_draws :
    (after (.identityGenerate .c0) (ask factory .c0 0x40 1 [])).work? .c0 = some .drawing := by decide
theorem test_draw_done_waits_for_the_write :
    (after .identityDrawDone (let s := doing factory .c0 0x40 1 [] .drawing
      { s with requests := { s.requests with claim := some .c0 } })).work? .c0 = some .awaitWrite := by decide
theorem test_cert_store_needs_an_identity :
    answerOf (after (.certStore .c0) (ask factory .c0 0x41 1 [1])) .c0 = .ready 1 0x41 .noIdentity 0 [] := by decide
theorem test_key_inject_refuses_slot_1 :
    answerOf (after (.keyInject .c0) (ask factory .c0 0x42 1 (1 :: zeros 64))) .c0 = .ready 1 0x42 .badParameter 1 [] := by
  decide
theorem test_lifecycle_advance_needs_keys :
    answerOf (after (.lifecycleAdvance .c0) (ask factory .c0 0x45 1 [0])) .c0 = .ready 1 0x45 .badParameter 2 [] := by decide
theorem test_claim_is_granted :
    (after .provisioningClaimGrant (let s := doing factory .c1 0x40 1 [] .awaitClaim
      { s with requests := { s.requests with claimQueue := [.c1] } })).requests.claim = some .c1 := by decide

/-! ## Hypotheses that are met

One theorem for each statement with hypotheses: small states and operands that meet the hypotheses of its clauses, at the ends
of their ranges where they have any. -/

/-- A request that `ask` places is routed. -/
theorem routed_ask (s : State) (c : Ctx) (code tag : Nat) (body : List Byte) (h : s.running = true) :
    Routed (ask s c code tag body) c code tag body := by
  cases c <;> exact ⟨h, rfl, rfl⟩

/-- A request that `doing` places executes. -/
theorem executing_doing (s : State) (c : Ctx) (code tag : Nat) (body : List Byte) (w : ExecWork) (h : s.running = true) :
    Executing (doing s c code tag body w) c code tag body w := by
  cases c <;> exact ⟨h, rfl, rfl⟩

/-- A deadline that lies ahead. -/
theorem ahead {o : Option Nat} {now e : Nat} (h : o = some e) (l : now < e) : ∀ d, o = some d → now < d := by
  intro d hd; rw [h] at hd; cases hd; exact l

/-- A table without entries and a wait list without hits. -/
theorem worked_fed : worked.EngineFed := fun _ => rfl

/-- The state with one crypto job, at its end. -/
def endingJob (s : State) (r : Requester) (k : JobKind) (x : JobResult) : State :=
  { s with crypto := ⟨some ⟨⟨r, k⟩, x, false⟩, [], []⟩ }

theorem jobEnding (s : State) (r : Requester) (k : JobKind) (x : JobResult) (h : s.running = true) :
    JobEnding (endingJob s r k x) r k x := ⟨h, rfl, rfl, fun _ h => by cases h⟩

/-- The state with one background job, short of its last byte. -/
def endingRead (s : State) (user : JobUser) (bytes : List Byte) : State :=
  { s with storage := { s.storage with link := .background, job := some ⟨user, 0, bytes.length + 1, bytes.length, bytes, true⟩ } }

theorem readEnding (s : State) (user : JobUser) (bytes : List Byte) (h : s.running = true) :
    ReadEnding (endingRead s user bytes) user (bytes ++ [Memory.read s.flash.mem bytes.length]) :=
  ⟨h, _, rfl, rfl, rfl, by simp [endingRead]⟩

theorem witness_StepRunsFrontCommand :
    ({ worked with pending := [.powerLoss, .heldEnd] } : State).pending = .powerLoss :: [.heldEnd] := rfl

theorem witness_PowerClassRestartBegins :
    worked.pins.resetLow = false ∧ worked.flash.busy = none ∧ programming.pins.resetLow = false ∧
      programming.flash.busy ≠ none ∧ Memory.wf programming.flash.mem ∧ (after .resetNLow worked).pins.supply = true ∧
      (after .resetNLow worked).pins.resetLow = true := by decide

/-- An operation that the supply falls away from, and addresses that it does not cover. -/
theorem witness_SupplyAndResetStopThePart :
    worked.running = true ∧ programming.flash.busy = some (.program [(0x1910000, 0x00)]) ∧ Memory.wf programming.flash.mem ∧
      ¬ (FlashOp.program [(0x1910000, 0x00)]).Covers 0x190FFFF ∧ ¬ (FlashOp.program [(0x1910000, 0x00)]).Covers 0x1910001 :=
  ⟨by decide, rfl, by decide, by simp [FlashOp.Covers], by simp [FlashOp.Covers]⟩

/-- The trial's deadline, with the tick that reaches it. -/
def onTrial (now deadline : Nat) : State :=
  let s := up .b .trial now
  { s with restart := { s.restart with trialDeadline := some deadline } }

/-- A read in progress that has returned 17 bytes, the last in the one watched range, with the stamp requests that wait. -/
def readingOn (alert degrade : Bool) (stamps : List StampRequest) : State :=
  let s := watched .verified 5000
  { s with
    watch := { s.watch with table := [⟨0xC80, 0x10, true, false, false, alert, degrade⟩] }
    time := { s.time with waiting := stamps }
    link :=
      { s.link with
        decoder :=
          { Decoder.idle with
            state := .dataOut, cmd := some .read, start := 0xC7FFF0
            returned := (List.range 16).map (fun n => (0xC7FFF0 + n, some 3)) ++ [(0xC80000, some 4)] } } }

/-- The part in HELD with the emptying of the watch table behind the one hit of an abandoned read. -/
def emptying (alert degrade : Bool) : State :=
  let s := readingOn alert degrade [.hit]
  { s with
    restart := { s.restart with phase := .held, work := .held false }
    watch := { s.watch with holdDeferred := true, waiting := [⟨0xC7FFF0, .read, some 4, some 0, alert, degrade, true⟩] } }

theorem witness_PlatformRestartEntersHeld :
    (after .restartLine worked).pins.rstReq = true ∧
      ((held 3).pins.rstReq = false ∧ (held 3).restart.phase ≠ .released) ∧
      (worked.running = true ∧ worked.restart.phase = .released ∧ worked.pins.rstReq = false ∧
        worked.link.decoder.state = .idle ∧ worked.watch.waiting.all (fun h => !h.endsHold) = true) ∧
      ((onTrial 450950 450950).running = true ∧ (onTrial 450950 450950).restart.phase = .released ∧
        (onTrial 450950 450950).restart.trialDeadline = some 450950 ∧ 450950 ≤ (onTrial 450950 450950).time.tick) ∧
      Routed (ask worked .c1 0x03 1 []) .c1 0x03 1 [] ∧
      (∀ alert degrade stamps, (readingOn alert degrade stamps).running = true ∧
        (readingOn alert degrade stamps).restart.phase = .released ∧ (readingOn alert degrade stamps).pins.rstReq = false ∧
        (readingOn alert degrade stamps).hostReading = true ∧
        (readingOn alert degrade stamps).watch.table = [⟨0xC80, 0x10, true, false, false, alert, degrade⟩] ∧
        (readingOn alert degrade stamps).watch.holdDeferred = false ∧ (readingOn alert degrade stamps).watch.waiting = [] ∧
        (readingOn alert degrade stamps).link.decoder.returned =
          (List.range 16).map (fun n => (0xC7FFF0 + n, some 3)) ++ (0xC80000, some 4) :: [] ∧
        (readingOn alert degrade stamps).time.waiting = stamps) ∧
      (∀ b ∈ (List.range 16).map (fun n => (0xC7FFF0 + n, some 3)), ∀ w ∈ (readingOn true true []).watch.table,
        w.inRange (b.1 / 0x1000) = false ∧ w.inRange (0xC80000 / 0x1000) = true) ∧
      StampFree (readingOn true true []) ⟨42, 5000, 0⟩ ∧
      ((readingOn true true [.quote .c0]).stampsExhausted = false ∧ .hit ∉ (readingOn true true [.quote .c0]).time.waiting ∧
        (readingOn true true [.quote .c0]).time.waiting ≠ []) ∧
      ∀ alert degrade, ∃ h, (emptying alert degrade).running = true ∧ (emptying alert degrade).EngineFed ∧
        (emptying alert degrade).watch.holdDeferred = true ∧ h.endsHold = true ∧ h.alert = alert ∧ h.degrade = degrade ∧
        (emptying alert degrade).watch.waiting = [h] ∧ (emptying alert degrade).time.waiting = [.hit] ∧
        (emptying alert degrade).stampsExhausted = false ∧ (emptying alert degrade).nextStamp = some ⟨42, 5000, 0⟩ ∧
        (emptying alert degrade).creds.reservations = ⟨.none, .none⟩ :=
  ⟨by decide, by decide, by decide, by decide, routed_ask _ _ _ _ _ rfl,
    fun _ _ _ => ⟨rfl, rfl, rfl, rfl, rfl, rfl, rfl, rfl, rfl⟩, by decide, ⟨rfl, rfl, by decide, by decide⟩, by decide,
    fun _ _ => ⟨_, rfl, fun _ => rfl, rfl, rfl, rfl, rfl, rfl, rfl, rfl, rfl, rfl⟩⟩

theorem witness_HeldEnds :
    (∀ n, (held n).EngineFed) ∧
      ((held 1).running = true ∧ (held 1).heldDone = true ∧ (held 1).store.working.stage = .field ∧
        (held 1).store.working.pendingCommit = false ∧
        ((held 1).store.working.records.get (held 1).store.working.selector).state = .trial ∧
        0 < (held 1).store.working.attempts) ∧
      (held 0).heldDone = true ∧
      (retain (held 3) fun r => { r with pendingCommit := true }).heldDone = true ∧
      (retain (held 3) fun r => { r with stage := .manufacture }).heldDone = true ∧
      (retain (held 3) fun r => { r with selector := .a }).heldDone = true ∧
      ((retain (held 3) fun r => { r with selector := .a }).store.working.records.get .a).state ≠ .trial :=
  ⟨fun _ _ => rfl, by decide, by decide, by decide, by decide, by decide, by decide⟩

/-- The release sequence with a job at its end. -/
def releasing (st : ReleaseStage) (t : Trust) : State :=
  let s := held 3
  { s with
    restart := { s.restart with phase := .checking, work := .release st t }
    crypto := ⟨some ⟨⟨.restart, .digest [] [] true⟩, .digest 5, false⟩, [⟨.ctx .c0, .signing []⟩], []⟩ }

theorem witness_ReleaseSequenceRuns :
    (∀ st, (releasing st .trial).running = true ∧ (releasing st .trial).restart.work = .release st .trial ∧
      (releasing st .trial).crypto.running = some ⟨⟨.restart, .digest [] [] true⟩, .digest 5, false⟩ ∧
      (releasing st .trial).crypto.deferred = [] ∧
      (∀ j ∈ (releasing st .trial).crypto.queue, j.requester ≠ .restart)) ∧
    ((releasing .extend2 .trial).xlat.loadWaits = false ∧ (releasing .extend2 .trial).storage.forward = none) ∧
    (let s : State :=
       { behindForward (.release .extend2 .unverified) with
         crypto := ⟨some ⟨⟨.restart, .extend 2 5⟩, .digest 5, false⟩, [], []⟩ }
     s.running = true ∧ s.restart.work = .release .extend2 .unverified ∧
       s.crypto.running = some ⟨⟨.restart, .extend 2 5⟩, .digest 5, false⟩ ∧ s.crypto.deferred = [] ∧ s.crypto.queue = [] ∧
       s.xlat.loadWaits = true ∧ s.storage.forward ≠ none) ∧
    ∀ w, (behindForward w).running = true ∧ (behindForward w).EngineFed ∧ (behindForward w).xlat.loadWaits = true ∧
      (behindForward w).restart.phase ≠ .released ∧ (behindForward w).restart.work = w ∧
      (behindForward w).flash.busy = some (.program [(0xC00000, 0x00)]) ∧
      ∃ f, (behindForward w).storage.forward = some f ∧ f.ops.length ≤ f.completed + 1 ∧ f.reported = false :=
  ⟨fun st => by cases st <;> decide, by decide, by decide,
    fun _ => ⟨rfl, fun _ => rfl, rfl, (fun h => by cases h), rfl, rfl, _, rfl, by decide, rfl⟩⟩

/-- A manifest. -/
def manifest (d : Digest) (version : Nat) : Manifest := ⟨0, 0x1000, version, d, true, ⟨[], []⟩, none, [], 0⟩

/-- The manifest of an image of this length. -/
def manifestFor (length : Nat) : Manifest := { manifest 5 8 with length := length }

/-- The bytes of a manifest without key changes and table, as far as its signature (R113, R189). -/
def sector : List Byte :=
  [0x4A, 0x4D, 0x46, 0x53, 1, 2, 1, 0, 0, 0, 0, 0] ++ le 4 0x1000 ++ le 4 8 ++ be 32 5 ++ zeros 4 ++ zeros 64

theorem sector_parses : Manifest.parse sector = some { manifest 5 8 with body := sector.take 56 } := by decide +kernel

/-- CHECKING, with key slot 2 in a state. -/
def checking (k : KeyState) (w : RestartWork) : State :=
  let s := retain (held 3) fun r => { r with updateKeys := r.updateKeys.set 0 ⟨k, .injected, 5⟩ }
  { s with restart := { s.restart with phase := .checking, work := w } }

/-- The longest image that fits the slot, and one byte more. -/
theorem lengths (k : KeyState) (w : RestartWork) :
    LengthInRange (checking k w) (manifestFor 0xBFF000) ∧ ¬ LengthInRange (checking k w) (manifestFor 0xBFF001) ∧
      LengthInRange (checking k w) (manifestFor 1) ∧ ¬ LengthInRange (checking k w) (manifestFor 0) :=
  ⟨⟨by decide, show 0xBFF000 + 0x1000 ≤ 0xC00000 by decide⟩,
    fun h => absurd (show 0xBFF001 + 0x1000 ≤ 0xC00000 from h.2) (by decide),
    ⟨by decide, show 1 + 0x1000 ≤ 0xC00000 by decide⟩, fun h => absurd h.1 (by decide)⟩

theorem witness_SlotChecksAreTakenInOrder :
    (∀ key v block md k,
      JobEnding (endingJob (checking key (.manifestDigest v block)) .restart k (.digest md)) .restart k (.digest md) ∧
        (endingJob (checking key (.manifestDigest v block)) .restart k (.digest md)).restart.work = .manifestDigest v block ∧
        (endingJob (checking key (.manifestDigest v block)) .restart k (.digest md)).store.working.updateKeys[(0 : Fin 4)].state =
          key) ∧
    Manifest.parse [] = none ∧ (∃ m, Manifest.parse sector = some m ∧ m.signer = 0) ∧
    (∀ key v m md p k ok,
      JobEnding (endingJob (checking key (.signature v m md p)) .restart k (.valid ok)) .restart k (.valid ok) ∧
        (endingJob (checking key (.signature v m md p)) .restart k (.valid ok)).restart.work = .signature v m md p) ∧
    (∀ key w, LengthInRange (checking key w) (manifestFor 0xBFF000) ∧ ¬ LengthInRange (checking key w) (manifestFor 0xBFF001)) ∧
    (∀ w bytes, ∃ block, ReadEnding (endingRead (checking .active w) .restart bytes) .restart block ∧
      (endingRead (checking .active w) .restart bytes).restart.work = w) ∧
    ∀ key v m md p k bytes,
      JobEnding (endingJob (checking key (.image v m md p)) .restart k (.absorbed bytes)) .restart k (.absorbed bytes) ∧
        (endingJob (checking key (.image v m md p)) .restart k (.absorbed bytes)).restart.work = .image v m md p := by
  refine ⟨fun key _ _ _ _ => ⟨jobEnding _ _ _ _ rfl, rfl, ?_⟩, by decide +kernel, ⟨_, sector_parses, rfl⟩,
    fun _ _ _ _ _ _ _ => ⟨jobEnding _ _ _ _ rfl, rfl⟩, fun key w => ⟨(lengths key w).1, (lengths key w).2.1⟩,
    fun _ bytes => ⟨_, readEnding _ _ bytes rfl, rfl⟩, fun _ _ _ _ _ _ _ => ⟨jobEnding _ _ _ _ rfl, rfl⟩⟩
  cases key <;> rfl

/-- The image's last digest job at its end. -/
def imageRead : State :=
  let s := releasing .extend0 .trial
  { s with restart := { s.restart with work := .image ⟨.b, false⟩ (manifest 5 8) 1 ⟨0, 0, none, [], true⟩ } }

/-- The record write of a verified slot about to complete. -/
def recorded (v : Verify) (k : WriteKind) (f : Retained → Retained) : State :=
  let s := retain (held 3) f
  { s with
    restart := { s.restart with phase := .checking, work := .writeRecord v }
    store := { s.store with taken := some ⟨⟨.restart, k, true⟩, k.values s.store.working⟩ } }

theorem witness_SlotVerificationEnds :
    (imageRead.running = true ∧ imageRead.restart.work = .image ⟨.b, false⟩ (manifest 5 8) 1 ⟨0, 0, none, [], true⟩ ∧
      imageRead.crypto.running = some ⟨⟨.restart, .digest [] [] true⟩, .digest 5, false⟩ ∧ imageRead.crypto.deferred = []) ∧
    (∀ v k f, (recorded v k f).running = true ∧ (recorded v k f).EngineFed ∧
      (recorded v k f).restart.work = .writeRecord v ∧ (recorded v k f).restart.phase = .checking ∧
      (recorded v k f).store.taken = some ⟨⟨.restart, k, true⟩, k.values (recorded v k f).store.working⟩ ∧
      ∀ c r, ((recorded v k f).ctx c).request = some r → r.work ≠ .awaitDiscarded) ∧
    ((held 3).store.working.stage = .field ∧ (held 3).store.working.selector = .b) ∧
    (((WriteKind.slotReject .b 1).values (recorded ⟨.b, false⟩ (.slotReject .b 1) id).store.working).records.get .a).state =
      .good ∧
    ((WriteKind.slotReject .b 1).values
      (recorded ⟨.b, true⟩ (.slotReject .b 1) fun r => { r with strict := true }).store.working).strict = true ∧
    ((WriteKind.slotReject .b 1).values (recorded ⟨.b, true⟩ (.slotReject .b 1) id).store.working).strict = false ∧
    (((WriteKind.slotPass .b 8 1 false).values (recorded ⟨.b, false⟩ (.slotPass .b 8 1 false) id).store.working).records.get
      .b).state = .trial := by
  refine ⟨⟨rfl, rfl, rfl, rfl⟩, fun v k f => ⟨rfl, fun _ => rfl, rfl, rfl, rfl, ?_⟩, ⟨rfl, rfl⟩, by decide, by decide, by decide,
    by decide⟩
  intro c r h; cases c <;> cases h

/-- Halted for want of a slot, with the button held long enough. -/
def halted : State :=
  let s := up .b .unverified 0
  { s with restart := { s.restart with phase := .halted .noBootableSlot, presenceHold := 10000 } }

/-- Every deadline one tick ahead. -/
def early (trial : Nat) : State :=
  let s := onTrial 0 trial
  { s with
    intake := { s.intake with session := { s.intake.session with state := .receiving, deadline := some 1 } }
    requests := ⟨⟨⟨.assembling, [], some 1, some 1, none, .none, .none⟩, ⟨.assembling, [], some 1, some 1, none, .none, .none⟩⟩,
      none, []⟩
    creds := { s.creds with grant := some 1, lockouts := Vector.replicate 32 (some 1) }
    alert := { s.alert with line := .asserted, timer := some 1 } }

theorem witness_TicksCountAndDeadlinesWait :
    ((up .b .verified 0xFFFFFFFFFFFF).running = true ∧ 0xFFFFFFFFFFFF ≤ (up .b .verified 0xFFFFFFFFFFFF).time.tick ∧
      (up .b .verified 0xFFFFFFFFFFFE).time.tick < 0xFFFFFFFFFFFF ∧ worked.restart.phase = .released ∧
      (held 3).restart.phase ≠ .released ∧ halted.restart.phase = .halted .noBootableSlot) ∧
    (∀ d, (early 1).restart.trialDeadline = some d → (early 1).time.tick < d) ∧
      (∀ d, (early 60001).restart.trialDeadline = some d → (early 60001).time.tick + 60000 < d) ∧
      (∀ d, (early 1).intake.session.deadline = some d → (early 1).time.tick < d) ∧
      (∀ c d, ((early 1).ctx c).deadline = some d → (early 1).time.tick < d) ∧
      (∀ c d, ((early 1).ctx c).busyCap = some d → (early 1).time.tick < d) ∧
      (∀ d, (early 1).creds.grant = some d → (early 1).time.tick < d) ∧
      (∀ d, (early 1).creds.lockouts[(31 : Fin 32)] = some d → (early 1).time.tick < d) ∧
      ∀ d, (early 1).alert.timer = some d → (early 1).time.tick < d := by
  refine ⟨by decide, ahead (e := 1) rfl (by decide), ahead (e := 60001) rfl (by decide), ahead (e := 1) rfl (by decide), fun c => ?_, fun c => ?_,
    ahead (e := 1) rfl (by decide), ahead (e := 1) (by decide) (by decide), ahead (e := 1) rfl (by decide)⟩ <;>
    cases c <;> exact ahead (e := 1) rfl (by decide)

/-- The same deadlines, reached. -/
def late : State := { early 1 with time := { (early 1).time with tick := 1 } }

theorem witness_DueDeadlinesAreTaken :
    (late.running = true ∧ late.intake.session.state = .receiving ∧ late.intake.session.deadline = some 1 ∧
      1 ≤ late.time.tick) ∧
    (halted.running = true ∧ halted.restart.phase = .halted .noBootableSlot ∧ halted.restart.presenceHold = 10000 ∧
      halted.restart.work = .none ∧ halted.EngineFed) ∧
    ((onTrial 390950 450950).running = true ∧ (onTrial 390950 450950).restart.phase = .released ∧
      (onTrial 390950 450950).restart.trialDeadline = some 450950 ∧ 450950 ≤ (onTrial 390950 450950).time.tick + 60000) ∧
    (late.running = true ∧ (late.ctx .c1).state = .assembling ∧ (late.ctx .c1).deadline = some 1 ∧
      (late.ctx .c1).busyCap = some 1 ∧ late.creds.grant = some 1 ∧ late.creds.lockouts[(31 : Fin 32)] = some 1 ∧
      late.alert.line = .asserted ∧ late.alert.timer = some 1 ∧ 1 ≤ late.time.tick) ∧
    (∃ s : State, s.running = true ∧ s.restart.phase = .released ∧ s.creds.hold = 3000 ∧ s.creds.pressUsed = false) ∧
    ∃ s : State, s.running = true ∧ s.alert.line = .pulse ∧ s.alert.pulseTick < s.time.tick :=
  ⟨by decide, ⟨by decide, by decide, by decide, by decide, fun _ => rfl⟩, by decide, by decide,
    ⟨{ worked with creds := { worked.creds with hold := 3000 } }, by decide⟩,
    ⟨{ late with alert := { late.alert with line := .pulse } }, by decide⟩⟩

theorem witness_ReadIdentificationIsFixed : LinkIdle programming := ⟨rfl, rfl⟩

/-- A response of context 1 whose first byte a read of one byte returns. -/
def answered : State := worked.setCtx .c1 { Context.reset with response := .ready 0 0 .ok 0 [] }

/-- The response page of an executing TIME_SET with tag 7, by the table of R179: its first eight bytes, and FFh beyond. -/
theorem test_pending_response_page :
    ((List.range 9).map fun n =>
      let s := ask worked .c1 0x50 7 []
      s.readByte (s.translateRead (0xFFF000 + n))) = [0x6A, 1, 7, 0, 0, 0, 0x50, 0, 0xFF] := by decide

/-- The part under the one READ entry of section 4.9. -/
def watchedRead : State :=
  let s := watched .verified 5000
  { s with watch := { s.watch with table := [⟨0xC80, 0x10, true, false, false, false, false⟩] } }

/-- A read of the link at one of its byte slots. -/
def slotted (d : Decoder) : State := { worked with link := { worked.link with decoder := d } }

theorem witness_ReadsReturnTranslatedBytes :
    (LinkIdle answered ∧ answered.watch.table = [] ∧ answered.watch.waiting = [] ∧
      ∀ c, decide (c = Ctx.c1) = true ↔ (answered.ctx c).response.isReady = true ∧
        ∃ n, n < max 1 ([] : List Byte).length ∧
          (0xFFF000 + n) % 0x1000000 = (match c with | .c0 => 0xFFD000 | .c1 => 0xFFF000)) ∧
    (LinkIdle watchedRead ∧ watchedRead.watch.holdDeferred = false ∧ StampFree watchedRead ⟨42, 5000, 0⟩ ∧
      ∃ w, watchedRead.watch.table = [w] ∧ w.onRead = true ∧ w.alert = false ∧ w.degrade = false ∧
        w.inRange ((0xC7FFF0 + 16) % 0x1000000 / 0x1000) = true ∧
        ∀ m, m < 16 → w.inRange ((0xC7FFF0 + m) % 0x1000000 / 0x1000) = false) ∧
    (worked.xlat.inForce = .table .b reference ∧ ∀ d ∈ reference.descriptors, d.covers (0xFA0000 / 0x1000) = false) ∧
    (LinkIdle worked ∧ worked.watch.holdDeferred = false ∧ 0xFFFFFF < 0x1000000 ∧
      (held 3).xlat.inForce = .none ∧ factory.xlat.inForce = .identity ∧
      (∃ u d p, worked.xlat.inForce = .table .b u ∧
        u.descriptors.find? (fun d => d.covers (0x97FFFF / 0x1000)) = some d ∧ d.kind? = some .image ∧
        physical u worked.store.working.selector worked.intake.session.bank d .image (0x97FFFF - d.base * 0x1000) = p ∧
        p < 0x2000000)) ∧
    (worked.storage.forward = none ∧ worked.storage.link ≠ .hostRead ∧ programming.storage.forward ≠ none ∧
      ∃ n p, n < max 1 ([] : List Byte).length ∧ (worked.translateRead ((0x97FFFF + n) % 0x1000000)).verdict = .forward p) ∧
    (∀ cmd, (slotted { Decoder.idle with state := .address, cmd := some cmd, addrBytes := [0xFF, 0xFF] }).link.decoder.cmd =
      some cmd) ∧ addressBytes 0xFFFFFF = [0xFF, 0xFF] ++ [0xFF] ∧
    (∀ cmd value region,
      (slotted { Decoder.idle with state := .dataOut, cmd := some cmd, ahead := some (value, region) }).link.decoder.ahead =
        some (value, region)) ∧
    (0xFFFFFF = (0xFFF000 : Nat) + 0xFFF ∧ 0xFFF < 0x1000 ∧ 0xFFC000 = (0xFFC000 : Nat) + 0 ∧ (worked.ctx .c1).response = .none ∧
      ((ask worked .c1 0x50 7 []).ctx .c1).response = .pending 7 0x50 ∧ (answered.ctx .c1).response = .ready 0 0 .ok 0 []) :=
  ⟨⟨⟨rfl, rfl⟩, rfl, rfl, by intro c; cases c <;> decide⟩,
    ⟨⟨rfl, rfl⟩, rfl, ⟨rfl, rfl, by decide, by decide⟩, _, rfl, rfl, rfl, rfl, by decide, by decide⟩, ⟨rfl, by decide⟩,
    ⟨⟨rfl, rfl⟩, rfl, by decide, rfl, rfl, reference, ⟨1, 1, 0, 0, 0x080, 0x900, 0x081000⟩, 0x1580FFF, rfl, by decide,
      by decide, by decide, by decide⟩,
    ⟨rfl, by decide, by decide, 0, 0x1580FFF, by decide, by decide⟩, fun _ => rfl, by decide, fun _ _ _ => rfl, by decide⟩

theorem witness_LatchStatusAndIgnoredCommands :
    ((true = true ↔ programming.storage.forward ≠ none ∨ programming.requests.ctx.c0.busyCap ≠ none ∨
        programming.requests.ctx.c1.busyCap ≠ none) ∧
      (false = true ↔ worked.storage.forward ≠ none ∨ worked.requests.ctx.c0.busyCap ≠ none ∨
        worked.requests.ctx.c1.busyCap ≠ none)) ∧
    LinkIdle programming ∧ programming.busy = true ∧ LinkIdle worked ∧ worked.link.wel = false ∧
      decodedCommandBytes.contains 0xFF = false ∧
      (after (.unknownCommand 0xFF .command) (after (.unknownCommand 0xFF .select) worked)).running = true ∧
      (after (.unknownCommand 0xFF .command) (after (.unknownCommand 0xFF .select) worked)).link.decoder.undecoded = true ∧
      (after (.unknownCommand 0xFF .command) (after (.unknownCommand 0xFF .select) worked)).link.decoder.state = .ignoring ∧
      (after (.read .select) worked).link.decoder.undecoded = true ∧
      (after (.read .select) worked).link.decoder.state = .opcode ∧
      ([0] : List Byte) ≠ [] ∧ (7 : Nat) ≠ 0 ∧ ([0, 0] : List Byte).length < 3 ∧ ([0, 0, 0] : List Byte).length < 4 ∧
      worked.storage.link ≠ .hostRead :=
  ⟨by decide, ⟨rfl, rfl⟩, rfl, ⟨rfl, rfl⟩, rfl, by decide, rfl, rfl, rfl, rfl, rfl, by decide, by decide, by decide, by decide,
    by decide⟩

/-- The part of the link examples, its latch set. -/
def ready (t : Trust) : State := latched (staging (up .b t 0) .receiving .c0 0x400000)

theorem ready_writes (t : Trust) : WriteReady (ready t) := ⟨⟨rfl, rfl⟩, rfl, rfl⟩

/-- The sectors of the staged slot, as they are before a stream. -/
def tracked (v : SectorState) (s : State) : State := { s with intake := { s.intake with tracker := List.replicate 0xC00 v } }

/-- The reference layout with region 4 HIDDEN. -/
def hiddenOnly : State :=
  { ready .verified with
    xlat := ⟨.table .b { reference with descriptors := [⟨4, 5, 0, 0, 0xC80, 0x10, 0x1900000⟩] }, false⟩ }

theorem witness_RefusedProgramsAndErases :
    (WriteReady (ready .degraded) ∧ StampFree (ready .degraded) ⟨42, 0, 0⟩ ∧
      ((ready .degraded).translateWrite true 0xB80000).verdict = .refuse ∧
      ((ready .degraded).translateWrite false 0xF90000).verdict = .refuse ∧
      (((ready .degraded).blockRecords 0xF9).find? (fun y => y.2.phys?.isNone)).map (·.1) = some 0xF90) ∧
    (∀ t, (ready t).xlat.inForce = .table .b reference ∧ (ready t).watch.trust = t) ∧
    ((held 3).xlat.inForce = .none ∧ factory.xlat.inForce = .identity ∧ 0xFFC000 ≤ 0xFFFFFF ∧ 0xFFBFFF < 0xFFC000 ∧
      ∀ d ∈ reference.descriptors, d.covers (0xF90000 / 0x1000) = false) ∧
    ([0x97FFFF, 0xC8FFFF, 0xC7FFFF, 0x980000].map fun l =>
      ((reference.descriptors.find? fun d => d.covers (l / 0x1000)).bind fun d => d.kind?)) =
      [some .image, some .locked, some .data, some .staging] ∧
    (∃ u, hiddenOnly.xlat.inForce = .table .b u ∧
      ((u.descriptors.find? fun d => d.covers (0xC8FFFF / 0x1000)).bind fun d => d.kind?) = some .hidden) ∧
    (0x1800000 + (0xC7FFFF - 0xB80 * 0x1000) < 0x2000000 ∧ 2 ≤ (ready .trial).watch.trust.level ∧
      ¬ 2 ≤ (ready .degraded).watch.trust.level) ∧
    ((ready .trial).intake.session.state = .receiving ∧ (up .b .trial 0).intake.session.state ≠ .receiving ∧
      (ready .trial).intake.tracker.getD ((ready .trial).intake.session.bank / 0x1000) .stale = .stale ∧
      (tracked .erased (ready .trial)).intake.tracker.getD ((ready .trial).intake.session.bank / 0x1000) .stale ≠ .stale ∧
      reference.baseA + ((ready .trial).intake.session.bank + (0xB7FFFF - 0x980 * 0x1000)) < 0x2000000) :=
  ⟨⟨ready_writes _, ⟨rfl, rfl, by decide, by decide⟩, by decide, by decide, by decide⟩, fun _ => ⟨rfl, rfl⟩, by decide, by decide,
    ⟨_, rfl, by decide⟩, by decide, by decide +kernel⟩

theorem witness_ForwardsStart :
    (WriteReady (ready .trial) ∧ 0xB80FFF < 0x1000000 ∧ (zeros 256).length ≤ 256 ∧ ¬ (zeros 257).length ≤ 256 ∧
      zeros 256 ≠ [] ∧ (0xB80FFF + (zeros 257).length) % 0x100 = 0 ∧ ((zeros 257).drop ((zeros 257).length - 256)).length = 256 ∧
      ((ready .trial).translateWrite true (0xB80FFF - 0xB80FFF % 0x100)).verdict = .forward 0x1800F00) ∧
    (WriteReady (tracked .erased (ready .trial)) ∧
      (let r := (tracked .erased (ready .trial)).translateWrite true (0x9A34FF - 0x9A34FF % 0x100)
       (r.verdict, r.kind, r.stagingAt)) = (.forward 0x423400, some .staging, 0x423400)) ∧
    ((ready .trial).translateWrite false (0x9A3456 / 0x1000 * 0x1000)).verdict = .forward 0x423000 ∧
      (let rs := (List.range 16).map fun i =>
          (16 * (0x9A3456 / 0x10000) + i, (ready .trial).translateWrite false ((16 * (0x9A3456 / 0x10000) + i) * 0x1000))
       rs.map (fun y => y.2.verdict) = ((List.range 16).map fun i => 0x420000 + i * 0x1000).map .forward ∧
        rs.filterMap (fun y => if y.2.kind = some .staging then some (y.2.stagingAt / 0x1000) else none) =
          (List.range 16).map fun i => 0x420 + i) :=
  ⟨⟨ready_writes _, by decide, by decide +kernel, by decide +kernel, by decide +kernel, by decide +kernel, by decide +kernel,
      by decide⟩, ⟨⟨⟨rfl, rfl⟩, rfl, rfl⟩, by decide +kernel⟩, by decide, by decide⟩

/-- Context 0 with these bytes of a frame, and a response in context 1. -/
def assembling (buffer : List Byte) : State :=
  ((ready .trial).setCtx .c0 { Context.reset with state := .assembling, buffer := buffer, deadline := some 1000 }).setCtx .c1
    { Context.reset with response := .ready 0 0 .ok 0 [] }

/-- A partial frame. -/
def pages : State := assembling [0x6A]

/-- A request of context 0 executes while the host writes. -/
def executing (work : ExecWork) : State :=
  (ready .trial).setCtx .c0 ⟨.executing, [], none, none, some ⟨0x41, 1, [1], work⟩, .pending 1 0x41, .none⟩

/-- A frame's header with a code and a body length. -/
def header (code len : Byte) : List Byte := [0x6A, code, 1, 0, len, 0, 0, 0]

theorem witness_FramesAreTakenAndPagesErased :
    (WriteReady (ready .trial) ∧ ((ready .trial).ctx .c1).state = .idle ∧ headerFailure (header 0x50 248 ++ zeros 248) = none ∧
      (header 0x50 248 ++ zeros 248).length = 256 ∧ headerLength (header 0x50 248 ++ zeros 248) = 248 ∧
      requestCodes.contains 0x50 = true ∧ requestCodes.contains 0x7F = false) ∧
    ((header 0x50 1).length < 8 + headerLength (header 0x50 1) ∧ headerFailure (header 0x50 1) = none ∧
      (zeros 7).length < 8 ∧ headerFailure (zeros 8) = some 0x02) ∧
    (∀ b, WriteReady (assembling b) ∧ ((assembling b).ctx .c0).state = .assembling ∧ ((assembling b).ctx .c0).buffer = b ∧
      StampFree (assembling b) ⟨42, 0, 0⟩) ∧
    (∀ w, WriteReady (executing w) ∧ ((executing w).ctx .c0).state = .executing ∧ StampFree (executing w) ⟨42, 0, 0⟩) ∧
    isResetFrame (zeros 8) = false ∧
    (∀ code : Byte, code = 0x50 ∨ code = 0x7F →
      (header code 248 ++ zeros 244).length = 252 ∧ 252 < 0x100 ∧ 0x100 < 252 + (zeros 12).length ∧
        headerFailure (header code 248 ++ zeros 244 ++ (zeros 12).take (0x100 - 252)) = none ∧
        8 + headerLength (header code 248 ++ zeros 244 ++ (zeros 12).take (0x100 - 252)) ≤
          (header code 248 ++ zeros 244 ++ (zeros 12).take (0x100 - 252)).length ∧
        isResetFrame ((zeros 12).drop (0x100 - 252)) = false) ∧
    (isResetFrame ((zeros 4 ++ header 0x02 0).drop (0x100 - 252)) = true ∧ (zeros 4 ++ header 0x02 0).length = 12 ∧
      (zeros 4 ++ header 0x02 0).take (0x100 - 252) = (zeros 12).take (0x100 - 252)) ∧
    WriteReady pages ∧ (pages.ctx .c0).state = .assembling ∧ (pages.ctx .c1).response.isReady = true := by
  refine ⟨⟨ready_writes _, rfl, by decide +kernel, by decide +kernel, by decide +kernel, by decide, by decide⟩, by decide,
    fun _ => ⟨⟨⟨rfl, rfl⟩, rfl, rfl⟩, rfl, rfl, rfl, rfl, rfl, rfl⟩,
    fun _ => ⟨⟨⟨rfl, rfl⟩, rfl, rfl⟩, rfl, rfl, rfl, rfl, rfl⟩, by decide, ?_, by decide, ⟨⟨rfl, rfl⟩, rfl, rfl⟩, rfl, rfl⟩
  rintro code (rfl | rfl) <;> decide +kernel

/-- A write of context 0 has been taken, for a request that still waits for it or was discarded; an UPDATE_OPEN of it is queued. -/
def interrupted (k : WriteKind) (live : Bool) : State :=
  let s := executing .awaitWrite
  { s with
    requests := { s.requests with claim := some .c0 }
    intake := { s.intake with session := { s.intake.session with claim := some 3 } }
    store :=
      { s.store with
        taken := some ⟨⟨.ctx .c0, k, live⟩, k.values s.store.working⟩, queue := [⟨.ctx .c0, .openSession 3, true⟩] } }

theorem witness_ResetFramesDiscardTheRequest :
    (zeros 248).length ≤ 248 ∧
    (∀ k live, WriteReady (interrupted k live) ∧ ((interrupted k live).ctx .c0).state = .executing ∧
      (interrupted k live).requests.claim = some .c0 ∧ (interrupted k live).intake.session.claim = some 3 ∧
      ⟨.ctx .c0, .openSession 3, true⟩ ∈
        ((interrupted k live).store.taken.map (·.write)).toList ++ (interrupted k live).store.queue) ∧
    (∀ live, ∃ w, (interrupted (.certificate [1]) live).store.taken = some w ∧ w.write.owner = .ctx .c0 ∧
      w.write.kind.provisioning = true) ∧
    (executing .awaitWrite).store.taken = none ∧ (executing .awaitWrite).intake.session.claim = none :=
  ⟨by decide +kernel, fun _ _ => ⟨⟨⟨rfl, rfl⟩, rfl, rfl⟩, rfl, rfl, rfl, by simp [interrupted]⟩,
    fun _ => ⟨_, rfl, rfl, rfl⟩, rfl, rfl⟩

theorem witness_TransactionsAreTheirParts : LinkIdle worked ∧ LinkIdle (ready .trial) := ⟨⟨rfl, rfl⟩, ⟨rfl, rfl⟩⟩

theorem witness_RequestsCheckTheirLength (c : Ctx) :
    ((0x65, Instr.ownerWipe c) ∈ [(0x01, Instr.info c), (0x02, .contextReset c), (0x03, .restart c), (0x04, .alertRead c),
      (0x06, .closeBootWindow c), (0x13, .watchRead c), (0x23, .certRead c), (0x32, .updateFinish c),
      (0x33, .updateStatus c), (0x35, .updateAbort c), (0x36, .bootConfirm c), (0x43, .keyRead c), (0x51, .timeRead c),
      (0x60, .credList c), (0x65, .ownerWipe c)] ∧ Routed (ask worked c 0x65 1 [0]) c 0x65 1 [0] ∧
      ([0] : List Byte) ≠ []) ∧
    (0x22, 1, 65, Instr.quote c) ∈ [(0x05, 3, 3, Instr.alertSet c), (0x10, 1, 1, .regionRead c), (0x14, 1, 1, .hitsRead c),
      (0x20, 33, 33, .extend c), (0x21, 1, 1, .measureRead c), (0x22, 1, 65, .quote c), (0x31, 4, 4, .stagingBank c),
      (0x34, 1, 1, .updateCommit c), (0x44, 1, 32, .derive c), (0x50, 8, 8, .timeSet c), (0x61, 1, 1, .credRead c),
      (0x62, 2, 2, .credReserve c), (0x64, 1, 193, .credCompare c)] ∧ Routed (ask worked c 0x22 1 []) c 0x22 1 [] ∧
      Routed (ask worked c 0x22 1 (zeros 66)) c 0x22 1 (zeros 66) ∧ ([] : List Byte).length < 1 ∧ 65 < (zeros 66).length :=
  ⟨⟨by simp, routed_ask _ _ _ _ _ rfl, by decide⟩, by simp, routed_ask _ _ _ _ _ rfl, routed_ask _ _ _ _ _ rfl, by decide,
    by decide⟩

theorem witness_InfoReportsTheStanding (c : Ctx) (tag : Nat) (body : List Byte) :
    Routed (ask worked c 0x01 tag body) c 0x01 tag body := routed_ask _ _ _ _ _ rfl

theorem witness_KeyAndCertificateReports (c : Ctx) (tag : Nat) (body : List Byte) :
    Routed (ask worked c 0x43 tag body) c 0x43 tag body ∧ Routed (ask worked c 0x23 tag body) c 0x23 tag body :=
  ⟨routed_ask _ _ _ _ _ rfl, routed_ask _ _ _ _ _ rfl⟩

theorem witness_WatchReadReportsTheTable (c : Ctx) (tag : Nat) (body : List Byte) :
    Routed (ask (watched .verified 0) c 0x13 tag body) c 0x13 tag body := routed_ask _ _ _ _ _ rfl

theorem witness_MeasureReadReturnsRegisters (c : Ctx) (tag : Nat) (mask : Byte) :
    Routed (ask worked c 0x21 tag [mask]) c 0x21 tag [mask] := routed_ask _ _ _ _ _ rfl

theorem witness_TimeReadReportsTheTimeBase (c : Ctx) (tag : Nat) (body : List Byte) :
    Routed (ask (stamped ⟨42, 90210, 0⟩ 90210) c 0x51 tag body) c 0x51 tag body := routed_ask _ _ _ _ _ rfl

theorem witness_CredListReportsEverySlot (c : Ctx) (tag : Nat) (body : List Byte) :
    Routed (ask (wireless .verified 0 0) c 0x60 tag body) c 0x60 tag body := routed_ask _ _ _ _ _ rfl

theorem witness_RegionAndHitsReports (c : Ctx) (tag : Nat) (sel : Byte) :
    Routed (ask worked c 0x10 tag [sel]) c 0x10 tag [sel] ∧ worked.store.working.tables.get .a = some reference ∧
      Routed (ask factory c 0x10 tag [sel]) c 0x10 tag [sel] ∧ factory.store.working.tables.get .a = none ∧
      Routed (ask programming c 0x14 tag [sel]) c 0x14 tag [sel] :=
  ⟨routed_ask _ _ _ _ _ rfl, rfl, routed_ask _ _ _ _ _ rfl, rfl, routed_ask _ _ _ _ _ rfl⟩

theorem witness_AlertRequests :
    Routed (ask late .c0 0x05 1 [0xFF, 0x60, 0xEA]) .c0 0x05 1 [0xFF, 0x60, 0xEA] ∧
      (0x60 : Byte).toNat + 256 * (0xEA : Byte).toNat = 60000 ∧ Routed (ask late .c0 0x04 1 []) .c0 0x04 1 [] ∧ late.alert.line = .asserted ∧
      ∀ a : Alert, Routed (ask { worked with alert := a } .c0 0x04 1 []) .c0 0x04 1 [] :=
  ⟨routed_ask _ _ _ _ _ rfl, by decide, routed_ask _ _ _ _ _ rfl, rfl, fun _ => routed_ask _ _ _ _ _ rfl⟩

/-- The boot window open or closed. -/
def window (s : State) (opened : Bool) : State := { s with restart := { s.restart with bootWindow := opened } }

/-- A WATCH_LOAD body of two entries, the second with these kinds and actions, and one granule too long or not. -/
def watchLoadBody (bad : Bool) (kinds actions : Byte) : List Byte :=
  [2, 0, 0, 1, 0, 1, 1, 0, 0, 0xFB, 0x0F, if bad then 2 else 1, 0, kinds, actions, 0, 0]

theorem witness_TimeAndWindowRequests :
    ((∀ t body, Routed (ask (up .b t 9) .c0 0x50 1 body) .c0 0x50 1 body) ∧ (le 8 (2 ^ 40)).length = 8 ∧
      2 ^ 40 ≤ ofLe (le 8 (2 ^ 40)) ∧ ofLe (le 8 (2 ^ 40 - 1)) < 2 ^ 40 ∧
      ∀ t, (ask (up .b t 9) .c0 0x50 1 (le 8 (2 ^ 40))).watch.trust = t) ∧
    Routed (ask (window worked true) .c0 0x06 1 []) .c0 0x06 1 [] ∧
      (∀ b body, Routed (ask (window worked b) .c0 0x12 1 body) .c0 0x12 1 body ∧
        (ask (window worked b) .c0 0x12 1 body).restart.bootWindow = b) ∧
      byteAt [8] 0 ≤ 8 ∧ 8 < byteAt [9] 0 ∧ ([8] : List Byte).length ≠ 1 + 8 * byteAt [8] 0 ∧
      (List.replicate 8 (⟨0, 0xFFC, true, false, false, false, false⟩ : WatchEntry)).length ≤ 8 ∧
      (∀ w ∈ List.replicate 8 (⟨0, 0xFFC, true, false, false, false, false⟩ : WatchEntry),
        1 ≤ w.length ∧ w.base + w.length ≤ 0xFFC ∧ (w.onRead || w.onProgram || w.onErase) = true) ∧
      (∀ bad ∈ [false, true], ∀ kinds ∈ [0, 7, 8], ∀ actions ∈ [1, 0],
        let body := watchLoadBody bad kinds actions
        body.length = 1 + 8 * byteAt body 0 ∧ byteAt body 0 ≤ 8 ∧
          (bad = true ↔ ∃ i, i < byteAt body 0 ∧
            (numAt body (3 + 8 * i) 2 = 0 ∨ 0xFFC < numAt body (1 + 8 * i) 2 + numAt body (3 + 8 * i) 2)) ∧
          (decide (kinds ≠ 7) = true ↔ ∃ i, i < byteAt body 0 ∧ (byteAt body (5 + 8 * i) = 0 ∨ 7 < byteAt body (5 + 8 * i))) ∧
          (decide (actions = 0) = true ↔ ∃ i, i < byteAt body 0 ∧
            (byteAt body (6 + 8 * i) = 0 ∨ 7 < byteAt body (6 + 8 * i) ∨ byteAt body (7 + 8 * i) ≠ 0 ∨
              byteAt body (8 + 8 * i) ≠ 0))) :=
  ⟨⟨fun _ _ => routed_ask _ _ _ _ _ rfl, by decide, by decide, by decide, fun _ => rfl⟩, routed_ask _ _ _ _ _ rfl,
    fun _ _ => ⟨routed_ask _ _ _ _ _ rfl, rfl⟩, by decide, by decide, by decide, by decide, by decide, by decide⟩

/-- The content of a SET slot of section 8.9 that needs at least TRIAL. -/
def content (v : CredValue) : CredContent := ⟨[0x6E], v, 2, false, none⟩

theorem witness_CredReadAndReserve :
    (∀ t n, Routed (ask (wireless t 0 0) .c0 0x61 1 [n]) .c0 0x61 1 [n]) ∧
      (∀ t n k, Routed (ask (wireless t 0 0) .c0 0x62 1 [n, k]) .c0 0x62 1 [n, k]) ∧
      32 ≤ (32 : Byte).toNat ∧ ((31 : Fin 32).val = (31 : Byte).toNat) ∧
      ((wireless .verified 0 0).store.working.creds[(31 : Fin 32)].content = none) ∧
      (wireless .verified 0 0).store.working.creds[(4 : Fin 32)].content = some (content (.secret [1])) ∧
      (ask (wireless .verified 0 0) .c0 0x61 1 [4]).releaseAnswer (some false) (content (.secret [1])) = none ∧
      (ask (wireless .degraded 0 0) .c0 0x61 1 [4]).releaseAnswer none (content (.secret [1])) = some .trustTooLow ∧
      ([30, 31] : List (Fin 32)).map (·.val) = [(30 : Byte).toNat, (30 : Byte).toNat + 1] :=
  ⟨fun _ _ => routed_ask _ _ _ _ _ rfl, fun _ _ _ => routed_ask _ _ _ _ _ rfl, by decide, by decide, by decide, by decide,
    by decide, by decide, by decide⟩

theorem witness_CredCompareStarts :
    (∀ s : State, s.running = true → Routed (ask s .c0 0x64 1 (6 :: zeros 192)) .c0 0x64 1 (6 :: zeros 192)) ∧
      (zeros 192).length ≤ 192 ∧ (ask (wireless .verified 0 0) .c0 0x64 1 (6 :: zeros 192)).EngineFed ∧
      ((wireless .verified 0 0).store.working.creds[(6 : Fin 32)].content.map fun x =>
        ((wireless .verified 0 0).releaseAnswer (some true) x, (wireless .verified 0 0).releaseAnswer (some false) x)) =
        some (none, some .wrongClass) ∧
      (wireless .verified 0 0).creds.lockouts[(6 : Fin 32)] = none ∧ late.creds.lockouts[(6 : Fin 32)] = some 1 :=
  ⟨fun _ h => routed_ask _ _ _ _ _ h, by decide +kernel, fun _ => rfl, by decide, by decide, by decide⟩

/-- A one-record body: slot, class, minimum trust, flags, a value of one byte. -/
def condBody (slot cls trust flags : Byte) : List Byte := [1, slot, 1, cls, trust, flags, 0] ++ zeros 8 ++ [1, 7]

/-- The record that it gives. -/
def condRecord (slot : Fin 32) (verifier : Bool) (trust : Nat) (windowOnly : Bool) : NewCred :=
  ⟨slot, true, verifier, [], trust, windowOnly, none, [7]⟩

/-- A CRED_WRITE_COND under a reservation. -/
def writeAsked (t : Trust) (r : Reservation) (body : List Byte) : State :=
  ask (reserving (wireless t 0 0) .c0 r) .c0 0x63 1 body

/-- A raw record of state SET with a value of one byte. -/
def rawRecord (slot cls : Byte) : List Byte := [slot, 1, cls, 2, 0, 0] ++ zeros 8 ++ [1, 7]

theorem witness_CredWriteCondIsJudged :
    (∀ t r body, Routed (writeAsked t r body) .c0 0x63 1 body ∧ (writeAsked t r body).EngineFed ∧
      (writeAsked t r body).reservation .c0 = r) ∧
    (([] : List Byte).length < 16 ∧ credWriteForm [] = .error (.badLength, 0)) ∧
    (condBody 4 0 2 0 = 1 :: ([rawRecord 4 0] : List (List Byte)).flatten ∧ (condBody 4 0 2 0).length = 17 ∧
      (∀ cls, CredRecordCut (rawRecord 4 cls)) ∧ CredRecordFormed (rawRecord 31 1) ∧ CredRecordFormed (rawRecord 4 0) ∧
      ¬ CredRecordFormed (rawRecord 32 0) ∧ ¬ CredRecordFormed (rawRecord 4 2) ∧
      byteAt (rawRecord 31 0) 0 = byteAt (rawRecord 30 0) 0 + 1 ∧ byteAt (rawRecord 30 0) 0 ≠ byteAt (rawRecord 30 0) 0 + 1) ∧
    credWriteForm (condBody 4 0 2 0) = .ok [condRecord 4 false 2 false] ∧
    credWriteForm (condBody 4 1 2 0) = .ok [condRecord 4 true 2 false] ∧
    credWriteForm (condBody 4 0 3 1) = .ok [condRecord 4 false 3 true] ∧
    credWriteForm (2 :: (rawRecord 4 0 ++ rawRecord 5 1)) =
      .ok ([condRecord 4 false 2 false] ++ condRecord 5 true 2 false :: []) ∧
    ((condRecord 4 false 2 false).set && (condRecord 4 false 2 false).verifier) = false ∧
    ((condRecord 5 true 2 false).set && (condRecord 5 true 2 false).verifier) = true ∧
    (Reservation.valid [(4, 12)]).targets.map (·.1) = [4] ∧ (Reservation.lost [(4, 12)]).targets.map (·.1) = [4] ∧
    (Reservation.valid [(4, 12), (5, 12)]).targets.map (·.1) = [4, 5] ∧
    (writeAsked .verified (.valid [(4, 12)]) []).store.working.creds[(4 : Fin 32)].version ≠ 0xFFFFFFFF ∧
    (writeAsked .degraded (.valid [(4, 12)]) []).trustFails 4 2 = true ∧
    (writeAsked .verified (.valid [(4, 12)]) []).trustFails 4 3 = false ∧
    (writeAsked .verified (.valid [(4, 12)]) []).windowFails 4 true = true ∧
    (writeAsked .verified (.valid [(4, 12)]) []).windowFails 4 false = false := by
  refine ⟨fun _ _ _ => ⟨routed_ask _ _ _ _ _ rfl, fun _ => rfl, rfl⟩, ⟨by decide, rfl⟩,
    ⟨by decide, by decide, fun _ => rfl, ?_, ?_, ?_, ?_, by decide, by decide⟩, rfl, rfl, rfl, rfl, rfl, rfl, rfl, rfl, rfl,
    by decide, by decide, by decide, by decide, by decide⟩ <;> unfold CredRecordFormed <;> decide

theorem witness_ConfirmAndWipeQueueOneWrite :
    (∀ t, Routed (ask (held 1) .c0 0x36 t []) .c0 0x36 t [] ∧ Routed (ask (held 1) .c0 0x65 t []) .c0 0x65 t []) ∧
      ((held 1).store.working.records.get (held 1).store.working.selector).state = .trial ∧
      (held 1).watch.trust = .unverified ∧ (onTrial 0 1).watch.trust = .trial ∧ worked.creds.grant = none ∧
      late.creds.grant ≠ none :=
  ⟨fun _ => ⟨routed_ask _ _ _ _ _ rfl, routed_ask _ _ _ _ _ rfl⟩, by decide, by decide, by decide, by decide, by decide⟩

/-- A job of context 0 at its end, and the request that waits for it. -/
def jobDone (s : State) (code : Nat) (body : List Byte) (w : ExecWork) (k : JobKind) (d : Digest) : State :=
  { doing s .c0 code 1 body w with crypto := ⟨some ⟨⟨.ctx .c0, k⟩, .digest d, false⟩, [], []⟩ }

theorem witness_ExtendAndDeriveRunAJob :
    (∀ n, Routed (ask worked .c0 0x20 1 (n :: zeros 32)) .c0 0x20 1 (n :: zeros 32)) ∧ (zeros 32).length = 32 ∧
      (ask worked .c0 0x20 1 (7 :: zeros 32)).crypto = ⟨none, [], []⟩ ∧
      Routed (ask worked .c0 0x44 1 (zeros 32)) .c0 0x44 1 (zeros 32) ∧ worked.watch.trust = .degraded ∧
      (∀ k x d, Executing (jobDone worked 0x20 [] (.extending k) (.extend k x) d) .c0 0x20 1 [] (.extending k) ∧
        (jobDone worked 0x20 [] (.extending k) (.extend k x) d).crypto.running =
          some ⟨⟨.ctx .c0, .extend k x⟩, .digest d, false⟩) ∧
      ∀ t label d, Executing (jobDone (up .b t 0) 0x44 label .deriving_ (.derivation label) d) .c0 0x44 1 label .deriving_ ∧
        (jobDone (up .b t 0) 0x44 label .deriving_ (.derivation label) d).watch.trust = t :=
  ⟨fun _ => routed_ask _ _ _ _ _ rfl, by decide, rfl, routed_ask _ _ _ _ _ rfl, rfl,
    fun _ _ _ => ⟨⟨rfl, rfl, rfl⟩, rfl⟩, fun _ _ _ => ⟨⟨rfl, rfl, rfl⟩, rfl⟩⟩

/-- A compare of slot 6 at its end. -/
def comparing (t : Trust) (fails v : Nat) (ok : Bool) : State :=
  endingJob (doing (wireless t 0 fails) .c0 0x64 1 [6, 7] (.comparing 6 v)) (.ctx .c0) (.compare 6 [7]) (.matched ok)

/-- The digest of a VERIFIER for slot 4, at its end, under a reservation. -/
def preparing (t : Trust) (r : Reservation) (n : NewCred) (rest : List NewCred) : State :=
  endingJob (reserving (doing (wireless t 0 0) .c0 0x63 1 [] (.preparing [] n 9 rest)) .c0 r) (.ctx .c0) (.digest [] [] true)
    (.digest 5)

theorem witness_CredentialJobsEnd :
    (∀ t n v ok, Executing (comparing t n v ok) .c0 0x64 1 [6, 7] (.comparing 6 v) ∧
      JobEnding (comparing t n v ok) (.ctx .c0) (.compare 6 [7]) (.matched ok)) ∧
    ((comparing .verified 0 3 true).store.working.creds[(6 : Fin 32)].version = 3 ∧
      (comparing .verified 0 3 true).store.working.failCounts[(6 : Fin 32)] = 0 ∧
      (comparing .verified 4 3 true).store.working.failCounts[(6 : Fin 32)] ≠ 0 ∧
      (comparing .verified 0 3 true).creds.lockouts[(6 : Fin 32)] = none ∧
      (comparing .verified 0 3 true).store.working.creds[(7 : Fin 32)].content = none ∧
      ((comparing .verified 0 3 true).store.working.creds[(6 : Fin 32)].content.map
        fun x => (comparing .verified 0 3 true).releaseAnswer (some true) x) = some none) ∧
    (∀ t r n rest, Executing (preparing t r n rest) .c0 0x63 1 [] (.preparing [] n 9 rest) ∧
      JobEnding (preparing t r n rest) (.ctx .c0) (.digest [] [] true) (.digest 5) ∧
      (preparing t r n rest).reservation .c0 = r) ∧
    (((condRecord 4 true 2 false).set && (condRecord 4 true 2 false).verifier) = true ∧
      ((condRecord 5 false 2 false).set && (condRecord 5 false 2 false).verifier) = false ∧
      (preparing .degraded .none (condRecord 4 true 2 false) []).trustFails 4 2 = true ∧
      (preparing .verified .none (condRecord 4 true 2 false) []).trustFails 4 2 = false ∧
      (preparing .verified .none (condRecord 4 true 2 true) []).windowFails 4 true = true ∧
      (preparing .verified .none (condRecord 4 true 2 true) []).windowFails 4 false = false) :=
  ⟨fun _ _ _ _ => ⟨⟨rfl, rfl, rfl⟩, jobEnding _ _ _ _ rfl⟩, by decide,
    fun _ _ _ _ => ⟨⟨rfl, rfl, rfl⟩, jobEnding _ _ _ _ rfl, rfl⟩, by decide⟩

/-- A part with an identity, at its last stamp. -/
def signed (x : Stamp) (tick : Nat) : State := retain (stamped x tick) fun r => { r with identity := some ⟨1, 2⟩ }

/-- Its quote, in the wait list. -/
def quoteWaits (x : Stamp) (tick : Nat) : State :=
  let s := doing (signed x tick) .c0 0x22 1 [0xFF] .quoting
  { s with time := { s.time with waiting := [.quote .c0] } }

theorem witness_QuotesTakeTheirStamp :
    (∀ x n, (ask (signed x n) .c0 0x22 1 (0xFF :: zeros 64)).EngineFed ∧
      Routed (ask (signed x n) .c0 0x22 1 (0xFF :: zeros 64)) .c0 0x22 1 (0xFF :: zeros 64) ∧
      (ask (signed x n) .c0 0x22 1 (0xFF :: zeros 64)).store.working.identity ≠ none ∧
      (quoteWaits x n).EngineFed ∧ Executing (quoteWaits x n) .c0 0x22 1 [0xFF] .quoting ∧
      (quoteWaits x n).time.waiting = [.quote .c0]) ∧
    (∀ fields : Stamp → List Byte, ∃ record : Stamp → List Byte, ∀ x, record x = fields x) ∧
    (zeros 64).length ≤ 64 ∧ worked.store.working.identity = none ∧
    (signed ⟨42, 9, 65535⟩ 9).nextStamp = none ∧ (signed ⟨42, 9, 65535⟩ 9).stampsExhausted = false ∧
    (signed ⟨42, 9, 65534⟩ 9).nextStamp = some ⟨42, 9, 65535⟩ ∧
    (signed ⟨42, 0xFFFFFFFFFFFF, 65535⟩ 0xFFFFFFFFFFFF).stampsExhausted = true ∧
    (quoteWaits ⟨42, 9, 65535⟩ 9).nextStamp = none ∧ (quoteWaits ⟨42, 9, 65535⟩ 10).nextStamp = some ⟨42, 10, 0⟩ := by
  refine ⟨fun x n => ⟨fun _ => rfl, routed_ask _ _ _ _ _ rfl, by simp [ask, signed, retain, State.setCtx], fun _ => rfl, ⟨rfl, rfl, rfl⟩, rfl⟩,
    fun f => ⟨f, fun _ => rfl⟩, by decide, by decide, by decide, by decide, by decide, by decide, by decide, by decide⟩

/-- A quote of context 0 whose record is being signed. -/
def signing (record : List Byte) (x : JobResult) : State :=
  let s := (doing (signed ⟨42, 9, 0⟩ 9) .c0 0x22 1 [0] .quoting).setQuote .c0 (.signing record)
  endingJob s (.ctx .c0) (.signing record) x

/-- A discarded job of context 0 runs, the other context's quote waits behind it, and a job of context 0 waits outside. -/
def crowded (queue : List Job) (x : JobKind) : State :=
  { signed ⟨42, 9, 0⟩ 9 with crypto := ⟨some ⟨⟨.ctx .c0, .signing []⟩, .noKey, true⟩, queue, [⟨.ctx .c0, x⟩]⟩ }

/-- The order of R166, of two jobs. -/
theorem signsAfter_iff (a b : Job) :
    (∃ r q, a.kind = .signing r ∧ b.kind = .signing q ∧
      numAt q 22 6 * 0x10000 + numAt q 28 2 < numAt r 22 6 * 0x10000 + numAt r 28 2) ↔ a.signsAfter b = true := by
  unfold Job.signsAfter JobKind.quoteStamp
  cases a.kind <;> cases b.kind <;> simp

theorem witness_QuotesAreSigned :
    (∀ record x, Executing (signing record x) .c0 0x22 1 [0] .quoting ∧ ((signing record x).ctx .c0).quote = .signing record ∧
      JobEnding (signing record x) (.ctx .c0) (.signing record) x) ∧
    (∃ (s : State) (j : RunningJob), s.running = true ∧ s.crypto = ⟨some j, [⟨.ctx .c1, .signing [1]⟩], []⟩ ∧
      j.discarded = true ∧ s.store.working.identity = some ⟨1, 2⟩) ∧
    (∀ queue x, (crowded queue x).running = true ∧ (crowded queue x).crypto.deferred = [⟨.ctx .c0, x⟩] ∧
      ∃ j, (crowded queue x).crypto.running = some j ∧ j.discarded = true ∧ j.job.requester = .ctx .c0) ∧
    (Job.mk (.ctx .c1) (.signing (zeros 28 ++ [2, 0]))).signsAfter ⟨.ctx .c0, .signing (zeros 28 ++ [1, 0])⟩ = true ∧
    (Job.mk (.ctx .c1) (.signing (zeros 28 ++ [1, 0]))).signsAfter ⟨.ctx .c0, .signing (zeros 28 ++ [1, 0])⟩ = false :=
  ⟨fun _ _ => ⟨⟨rfl, rfl, rfl⟩, rfl, jobEnding _ _ _ _ rfl⟩,
    ⟨{ signed ⟨42, 9, 0⟩ 9 with crypto := ⟨some ⟨⟨.restart, .digest [] [] true⟩, .digest 5, true⟩, [⟨.ctx .c1, .signing [1]⟩], []⟩ },
      _, rfl, rfl, rfl, rfl⟩,
    fun _ _ => ⟨rfl, rfl, _, rfl, rfl, rfl⟩, by decide, by decide⟩

/-- A request of context 0 on a session in a state. -/
def sessionAsked (st : SessionState) (owner c : Ctx) (code : Nat) (body : List Byte) : State :=
  ask (staging (up .a .verified 9) st owner 0) c code 1 body

theorem witness_UpdateOpenAndStagingBank :
    (∀ s : State, s.running = true → ∀ body, Routed (ask s .c0 0x30 1 body) .c0 0x30 1 body) ∧
      factory.store.working.stage = .manufacture ∧ worked.store.working.stage = .field ∧
      (worked.intake.session.state ≠ .idle ∧ worked.intake.session.state ≠ .failed) ∧
      ((held 3).store.working.records.get (held 3).store.working.selector).state = .trial ∧
      ((up .a .verified 9).intake.session.state = .idle ∧ (up .a .verified 9).intake.session.claim = none) ∧
      ((up .a .verified 9).store.working.records.get (up .a .verified 9).store.working.selector).state ≠ .trial ∧
      (∀ st o c body, Routed (sessionAsked st o c 0x31 body) c 0x31 1 body) ∧
      (sessionAsked .receiving .c0 .c0 0x31 []).xlat.inForce = .table .a reference ∧
      ofLe (le 4 0xA00000) % 0x10000 = 0 ∧
      0xC00000 < ofLe (le 4 0xA10000) + reference.stagingLength ∧
      ofLe (le 4 0xA00000) + reference.stagingLength = 0xC00000 ∧ worked.slotSize = 0xC00000 :=
  ⟨fun _ h _ => routed_ask _ _ _ _ _ h, by decide, by decide, by decide, by decide, by decide, by decide,
    fun _ _ _ _ => routed_ask _ _ _ _ _ rfl, by decide, by decide, by decide, by decide, by decide⟩

theorem witness_UpdateFinishAndStatus :
    (∀ st o c, Routed (sessionAsked st o c 0x32 []) c 0x32 1 [] ∧ Routed (sessionAsked st o c 0x33 []) c 0x33 1 [] ∧
      (sessionAsked st o c 0x32 []).intake.session.state = st ∧ (sessionAsked st o c 0x32 []).intake.session.owner = some o) ∧
    ((∀ f, (sessionAsked .receiving .c0 .c0 0x32 []).storage.forward = some f → f.staging = none) ∧
      Routed (stagingBusy (sessionAsked .receiving .c0 .c0 0x32 [])) .c0 0x32 1 [] ∧
      ∃ f, (stagingBusy (sessionAsked .receiving .c0 .c0 0x32 [])).storage.forward = some f ∧ f.staging ≠ none) ∧
    (sessionAsked .receiving .c0 .c0 0x33 []).store.working.header = some reference ∧
    ∀ d, (sessionAsked .receiving .c0 .c0 0x33 []).intake.session.deadline = some d → d ≤ 0xFFFFFFFFFFFF := by
  refine ⟨fun st o c => ?_, ⟨(fun _ h => by cases h), ⟨rfl, rfl, rfl⟩, _, rfl, by decide⟩, by decide, fun d h => ?_⟩
  · cases c <;> exact ⟨routed_ask _ _ _ _ _ rfl, routed_ask _ _ _ _ _ rfl, rfl, rfl⟩
  · cases h; decide

/-- The verification of the staged slot, with key slot 2 in a state, every sector of the slot in another, and the place of the
next stream byte. -/
def verifying (key : KeyState) (v : SectorState) (expected : Nat) (w : IntakeWork) : State :=
  let s := retain (staging (up .a .verified 9) .verifying .c0 0) fun r =>
    { r with updateKeys := r.updateKeys.set 0 ⟨key, .injected, 5⟩ }
  { s with
    intake :=
      { s.intake with
        session := { s.intake.session with expected := expected }
        tracker := List.replicate 0xC00 v
        work := w } }

/-- A manifest that revokes its own signer, and one that adds a key it already adds. -/
def revoking : Manifest := { manifest 5 8 with changes := ⟨[0], []⟩ }
def adding : Manifest := { manifest 5 8 with changes := ⟨[], [(1, 7), (2, 7)]⟩ }

theorem witness_StagedManifestIsChecked :
    (∀ key v n w bytes, ∃ block, ReadEnding (endingRead (verifying key v n w) .update bytes) .update block ∧
      (endingRead (verifying key v n w) .update bytes).intake.work = w ∧
      (endingRead (verifying key v n w) .update bytes).intake.buffer = [] ∧
      (endingRead (verifying key v n w) .update bytes).intake.streamJob = false) ∧
    (∃ s : State, JobEnding s .intake (.digest [] [1] false) (.absorbed [1]) ∧ s.intake.streamJob = true ∧
      s.intake.session.broken = false ∧ s.intake.work = .flush [2]) ∧
    (∀ key v n w k x, JobEnding (endingJob (verifying key v n w) .intake k x) .intake k x ∧
      (endingJob (verifying key v n w) .intake k x).intake.work = w ∧
      (endingJob (verifying key v n w) .intake k x).intake.streamJob = false ∧
      (endingJob (verifying key v n w) .intake k x).intake.buffer = [] ∧
      (endingJob (verifying key v n w) .intake k x).intake.session.broken = false ∧
      (endingJob (verifying key v n w) .intake k x).intake.session.expected = n ∧
      (endingJob (verifying key v n w) .intake k x).store.working.updateKeys[(0 : Fin 4)].state = key) ∧
    Manifest.parse [] = none ∧ (∃ m, Manifest.parse sector = some m ∧ m.signer = 0) ∧
    (∀ key v n w, LengthInRange (verifying key v n w) (manifestFor 0xBFF000) ∧
      ¬ LengthInRange (verifying key v n w) (manifestFor 0xBFF001) ∧
      (verifying key v n w).xlat.inForce = .table .a reference) ∧
    (reference.firstFailure = none ∧ ({ reference with descriptors := [] } : Table).firstFailure.isSome = true ∧
      ({ reference with slotSize := 0xBF0000 } : Table).firstFailure = none) ∧
    revoking.signer ∈ revoking.changes.revocations ∧ ¬ (adding.changes.additions.map (·.2)).Nodup ∧
    (∃ i, i * 0x1000 < 0x1000 + (manifestFor 0x1000).length ∧ (List.replicate 0xC00 SectorState.stale).getD i .stale = .stale) ∧
    ∀ i, i * 0x1000 < 0x1000 + (manifestFor 0xBFF000).length → (List.replicate 0xC00 SectorState.written).getD i .stale ≠ .stale := by
  refine ⟨fun _ _ _ _ bytes => ⟨_, readEnding _ _ bytes rfl, rfl, rfl, rfl⟩, ?_,
    fun key _ _ _ _ _ => ⟨jobEnding _ _ _ _ rfl, rfl, rfl, rfl, rfl, rfl, ?_⟩, by decide +kernel, ⟨_, sector_parses, rfl⟩,
    fun _ _ _ _ => ⟨⟨by decide, show 0xBFF000 + 0x1000 ≤ 0xC00000 by decide⟩,
      fun h => absurd (show 0xBFF001 + 0x1000 ≤ 0xC00000 from h.2) (by decide), rfl⟩, by decide, by decide, by decide +kernel,
    ⟨0, by decide, rfl⟩, fun i h => ?_⟩
  · let s := verifying .active .written 0 (.flush [2])
    exact ⟨endingJob { s with intake := { s.intake with streamJob := true } } .intake _ _, jobEnding _ _ _ _ rfl, rfl, rfl, rfl⟩
  · cases key <;> rfl
  · have h : i * 0x1000 < 0x1000 + 0xBFF000 := h
    have l : i < 0xC00 := by omega
    rw [List.getD_eq_getElem?_getD, List.getElem?_replicate, if_pos l]
    decide

theorem witness_StagedImageIsChecked :
    (∀ n w bytes, ∃ block, ReadEnding (endingRead (verifying .active .written n w) .update bytes) .update block ∧
      (endingRead (verifying .active .written n w) .update bytes).intake.work = w) ∧
    (∀ n w k x, JobEnding (endingJob (verifying .active .written n w) .intake k x) .intake k x ∧
      (endingJob (verifying .active .written n w) .intake k x).intake.work = w ∧
      (endingJob (verifying .active .written n w) .intake k x).intake.streamJob = false ∧
      (endingJob (verifying .active .written n w) .intake k x).intake.buffer = [] ∧
      (endingJob (verifying .active .written n w) .intake k x).store.working.floor = 0) ∧
    (∃ s : State, JobEnding s .intake (.digest [] [] true) (.digest 5) ∧ s.intake.work = .finishStream (manifest 5 8) 1 ∧
      s.intake.streamJob = false ∧ s.intake.buffer = [] ∧ (manifest 5 8).version < s.store.working.floor) ∧
    (manifest 6 8).digest ≠ 5 ∧ (manifest 5 8).digest = 5 := by
  refine ⟨fun _ _ bytes => ⟨_, readEnding _ _ bytes rfl, rfl⟩, fun _ _ _ _ => ⟨jobEnding _ _ _ _ rfl, rfl, rfl, rfl, rfl⟩, ?_,
    by decide, by decide⟩
  let s := retain (verifying .active .written 0 (.finishStream (manifest 5 8) 1)) fun r => { r with floor := 9 }
  exact ⟨endingJob s .intake _ _, jobEnding _ _ _ _ rfl, rfl, rfl, rfl, by decide⟩

/-- A session with its manifest verified. -/
def committing (o c : Ctx) (flag : Byte) : State :=
  let s := sessionAsked .verified o c 0x34 [flag]
  { s with intake := { s.intake with session := { s.intake.session with manifest := some ⟨8, 1, true, ⟨[], []⟩, none⟩ } } }

theorem witness_UpdateCommitAndAbort :
    (∀ o c flag, Routed (committing o c flag) c 0x34 1 [flag] ∧ (committing o c flag).intake.session.state = .verified ∧
      (committing o c flag).intake.session.manifest = some ⟨8, 1, true, ⟨[], []⟩, none⟩ ∧
      (committing o c flag).intake.session.owner = some o) ∧
    1 < (2 : Byte).toNat ∧ (1 : Byte).toNat ≤ 1 ∧
    (∀ st o c, Routed (sessionAsked st o c 0x35 []) c 0x35 1 [] ∧
      (sessionAsked st o c 0x35 []).intake.session.state = st) := by
  refine ⟨fun o c flag => ?_, by decide, by decide, fun st o c => ?_⟩
  · cases c <;> exact ⟨⟨rfl, rfl, rfl⟩, rfl, rfl, rfl⟩
  · cases c <;> exact ⟨routed_ask _ _ _ _ _ rfl, rfl⟩

theorem witness_ContextResetCleansItsContext :
    (∀ st o c, Routed (sessionAsked st o c 0x02 []) c 0x02 1 []) ∧
      (sessionAsked .receiving .c0 .c0 0x02 []).discardedWrite .c0 = false ∧
      (∀ st user running, ∃ s j, Routed s .c0 0x02 1 [] ∧ s.intake.session.owner = some .c0 ∧ s.intake.session.state = st ∧
        s.storage.job = some j ∧ j.user = user ∧ j.running = running) ∧
      ∃ s, Routed s .c0 0x02 1 [] ∧ s.discardedWrite .c0 = true := by
  refine ⟨fun st o c => routed_ask _ _ _ _ _ rfl, by decide, fun st user running => ?_, ?_⟩
  · exact ⟨let s := sessionAsked st .c0 .c0 0x02 []
      { s with storage := { s.storage with link := .background, job := some ⟨user, 0, 2, 1, [0], running⟩ } }, _,
      ⟨rfl, rfl, rfl⟩, rfl, rfl, rfl, rfl, rfl⟩
  exact ⟨let s := ask worked .c0 0x02 1 []
    { s with store := { s.store with queue := [⟨.ctx .c0, .wipe, false⟩] } }, ⟨rfl, rfl, rfl⟩, by decide⟩

/-- A part in MANUFACTURE with two contexts that ask, and the claim. -/
def claiming (s : State) (claim : Option Ctx) (queue : List Ctx) : State :=
  { s with requests := { s.requests with claim := claim, claimQueue := queue } }

theorem witness_ProvisioningTakesTheClaim :
    (0x45, Instr.lifecycleAdvance .c1) ∈ [(0x11, Instr.regionLoad .c1), (0x40, .identityGenerate .c1), (0x41, .certStore .c1),
      (0x42, .keyInject .c1), (0x45, .lifecycleAdvance .c1)] ∧
    (Routed (ask worked .c1 0x45 1 [1]) .c1 0x45 1 [1] ∧ (ask worked .c1 0x45 1 [1]).requests.claim = none ∧
      (ask worked .c1 0x45 1 [1]).requests.claimQueue = [] ∧ worked.store.working.stage = .field) ∧
    (Routed (claiming (ask factory .c1 0x45 1 [1]) (some .c0) []) .c1 0x45 1 [1] ∧
      (claiming (ask factory .c1 0x45 1 [1]) (some .c0) []).requests.claim ≠ none) ∧
    (Executing (claiming (doing factory .c1 0x45 1 [1] .awaitClaim) none [.c1]) .c1 0x45 1 [1] .awaitClaim ∧
      (claiming (doing factory .c1 0x45 1 [1] .awaitClaim) none [.c1]).requests.claim = none ∧
      (claiming (doing factory .c1 0x45 1 [1] .awaitClaim) none [.c1]).requests.claimQueue = [.c1]) :=
  ⟨by decide, ⟨routed_ask _ _ _ _ _ rfl, by decide, by decide, by decide⟩, ⟨⟨rfl, rfl, rfl⟩, by decide⟩, ⟨rfl, rfl, rfl⟩, rfl, rfl⟩

/-- The factory part with all that LIFECYCLE_ADVANCE asks for. -/
def provisioned : State :=
  retain factory fun r =>
    { r with
      identity := some ⟨1, 2⟩, derivation := some 3, certificate := some [4], tables := ⟨some reference, some reference⟩
      updateKeys := r.updateKeys.set 0 ⟨.active, .injected, 5⟩ }

theorem witness_ProvisioningChecks :
    (∀ code body, Routed (ask factory .c0 code 1 body) .c0 code 1 body ∧ Routed (ask provisioned .c0 code 1 body) .c0 code 1 body ∧
      (ask provisioned .c0 code 1 body).requests.claim = none ∧ (ask provisioned .c0 code 1 body).requests.claimQueue = []) ∧
    (factory.store.working.stage = .manufacture ∧ provisioned.store.working.stage = .manufacture) ∧
    (reference.bytes.length = 16 + 12 * byteAt reference.bytes 12 ∧ (Table.ofBytes reference.bytes).valid = true) ∧
    (Table.ofBytes (zeros 12 ++ [1] ++ zeros 15)).firstFailure.isSome = true ∧
    (zeros 2048).length ≤ 2048 ∧ factory.store.working.identity = none ∧
    ((5 :: zeros 64).length = 65 ∧ byteAt (5 :: zeros 64) 0 = (3 : Fin 4).val + 2) ∧
    (provisioned.store.working.updateKeys[(0 : Fin 4)].state ≠ .empty ∧
      provisioned.store.working.updateKeys[(0 : Fin 4)].pub = wide ((3 :: zeros 63 ++ [5]).drop 1)) ∧
    (∃ j : Fin 4, provisioned.store.working.updateKeys[j].state = .active) ∧
    (Executing (claiming (doing factory .c0 0x40 1 [] .drawing) (some .c0) []) .c0 0x40 1 [] .drawing ∧
      (claiming (doing factory .c0 0x40 1 [] .drawing) (some .c0) []).requests.claim = some .c0) :=
  ⟨fun _ _ => ⟨routed_ask _ _ _ _ _ rfl, routed_ask _ _ _ _ _ rfl, rfl, rfl⟩, by decide, by decide, by decide +kernel,
    by decide +kernel, by decide, by decide +kernel, by decide +kernel, by decide +kernel, ⟨rfl, rfl, rfl⟩, rfl⟩

/-- The restart's read of a manifest sector, at its last byte. -/
def manifestReading : State :=
  let s := reading 0xFFF true
  { s with
    restart := { s.restart with phase := .checking, work := .readManifest ⟨.a, false⟩ }
    storage := { s.storage with job := s.storage.job.map fun j => { j with user := .restart } } }

theorem witness_CapacityAndBackgroundReads :
    (State.reset.running = true ∧ State.reset.storage.capacity = none ∧ State.reset.flash.busy = none ∧
      worked.storage.capacity ≠ none) ∧
    (∃ s : State, s.running = true ∧ s.storage.capacity = none ∧ s.flash.busy = some (.eraseSector 0x1914000) ∧
      s.FlashCanonical ∧ s.flash.mem ≠ []) ∧
    (∃ s : State, s.running = true ∧ s.storage.capacity = none ∧ s.restart.work = .held true ∧ s.time.bootCounted = true) ∧
    ((reading 0 false).storage.job.isSome ∧ (reading 0 false).storage.link = .idle ∧
      (reading 0 false).storage.capacity ≠ none ∧ 0x1000 + 0x1000 ≤ 0x2000000) ∧
    (∃ (s : State) (j : BackgroundJob), s.storage.job = some j ∧ s.running = true ∧ j.running = true ∧
      s.storage.capacity ≠ none ∧ 0x2000000 < j.start + j.length) ∧
    ∃ j, manifestReading.running = true ∧ manifestReading.storage.job = some j ∧ j.running = true ∧ j.user = .restart ∧
      manifestReading.restart.work = .readManifest ⟨.a, false⟩ :=
  ⟨by decide,
    ⟨{ State.reset with flash := ⟨[(0x1914000, 2)], some (.eraseSector 0x1914000)⟩ }, by decide, rfl, rfl,
      show Memory.wf [(0x1914000, 2)] by decide, by decide⟩,
    ⟨{ State.reset with time := { State.reset.time with bootCounted := true } }, by decide⟩, by decide,
    ⟨{ worked with storage := { worked.storage with job := some ⟨.update, 0x1FFF001, 0x1000, 0x1FFF001, [], true⟩ } }, _, rfl,
      by decide, rfl, by decide, by decide⟩, _, by decide, rfl, rfl, rfl, rfl⟩

/-- A forward whose last operation is this one, over flash with one byte written in front of it and one in its first cell. -/
def ending (op : FlashOp) : State :=
  { programming with
    storage := { programming.storage with forward := some ⟨.program, 0xC90000, [op], 0, [(0xC90, some 5)], none, true⟩ }
    flash := ⟨[(0x190FFFF, 1), (0x1910000, 2)], some op⟩ }

/-- The first and the last address that each kind of operation covers, and those beside them. -/
theorem operations_cover_their_addresses :
    ((FlashOp.eraseSector 0x1910000).Covers 0x1910000 ∧ (FlashOp.eraseSector 0x1910000).Covers 0x1910FFF ∧
      ¬ (FlashOp.eraseSector 0x1910000).Covers 0x190FFFF ∧ ¬ (FlashOp.eraseSector 0x1910000).Covers 0x1911000) ∧
    ((FlashOp.eraseBlock 0x1910000).Covers 0x1910000 ∧ (FlashOp.eraseBlock 0x1910000).Covers 0x191FFFF ∧
      ¬ (FlashOp.eraseBlock 0x1910000).Covers 0x190FFFF ∧ ¬ (FlashOp.eraseBlock 0x1910000).Covers 0x1920000) ∧
    (FlashOp.program [(0x1910000, 0), (0x1910001, 5)]).Covers 0x1910001 ∧
      ¬ (FlashOp.program [(0x1910000, 0), (0x1910001, 5)]).Covers 0x1910002 := by
  simp [FlashOp.Covers]

/-- The page program of `programming` under a watch table of one entry. -/
def watchedOnce : State :=
  { programming with watch := { programming.watch with table := [⟨0xC90, 1, false, true, false, false, false⟩] } }

theorem witness_HostForwardSteps :
    (∃ f, (erasing [(0x1914000, 2)]).running = true ∧ (erasing [(0x1914000, 2)]).storage.forward = some f ∧
      (erasing [(0x1914000, 2)]).flash.busy = some (.eraseSector 0x1914000) ∧
      f.ops[f.completed + 1]? = some (.eraseSector 0x1915000) ∧ (erasing [(0x1914000, 2)]).FlashCanonical) ∧
    (∀ op, ∃ f, (ending op).running = true ∧ (ending op).FlashCanonical ∧ (ending op).storage.forward = some f ∧
      (ending op).flash.busy = some op ∧ f.ops.length ≤ f.completed + 1) ∧
    (∀ v : Byte, Memory.read (ending (.program [(0x1910000, 0), (0x1910001, v)])).flash.mem 0x1910000 ≠ 0xFF ∧
      Memory.read (ending (.program [(0x1910000, 0), (0x1910001, v)])).flash.mem 0x1910001 = 0xFF ∧
      [(0x1910000, 0), (0x1910001, v)] = [(0x1910000, 0)] ++ (0x1910001, v) :: ([] : List (Nat × Byte)) ∧
      ∀ c ∈ [(0x1910000, (0 : Byte))] ++ ([] : List (Nat × Byte)), c.1 ≠ 0x1910001) ∧
    (∃ f, programming.running = true ∧ programming.EngineFed ∧ programming.storage.forward = some f ∧
      programming.flash.busy = some (.program [(0x1910000, 0x00)]) ∧ f.ops.length ≤ f.completed + 1 ∧ f.staging = none ∧
      programming.xlat.loadWaits = false ∧ f.reported = true) ∧
    ∃ f w, watchedOnce.storage.forward = some f ∧ watchedOnce.watch.table = [w] ∧ StampFree watchedOnce ⟨42, 8001, 0⟩ ∧
      f.granules = [(0xC90, some 5)] ∧ w.watches f.kind = true ∧ w.base ≤ 0xC90 ∧ 0xC90 < w.base + w.length ∧
      w.alert = false ∧ w.degrade = false :=
  ⟨⟨_, by decide, rfl, rfl, rfl, by unfold State.FlashCanonical; decide⟩,
    fun _ => ⟨_, rfl, show Memory.wf [(0x190FFFF, 1), (0x1910000, 2)] by decide, rfl, rfl, Nat.le_refl _⟩,
    fun _ => ⟨show (2 : Byte) ≠ 0xFF by decide, rfl, rfl, by decide⟩,
    ⟨_, by decide, fun _ => rfl, rfl, rfl, by decide, rfl, rfl, rfl⟩, _, _, rfl, rfl,
    ⟨rfl, rfl, by decide, by decide⟩, rfl, by decide, by decide, by decide, rfl, rfl⟩

/-- The end of `programming` under one entry with its actions, for the reservation of context 0. -/
def acting (t : Trust) (alert degrade : Bool) (r : Reservation) : State :=
  let s := reserving (retain programming fun x =>
    { x with creds := x.creds.set 4 ⟨some (content (.secret [1])), 12⟩ }) .c0 r
  { s with
    watch := { s.watch with trust := t, table := [⟨0xC90, 1, false, true, false, alert, degrade⟩] } }

/-- The same end, of a forward that an entry into HELD overtook, and of one that a loaded table waits for. -/
def overtaken : State :=
  { programming with storage := { programming.storage with forward := programming.storage.forward.map HostForward.overtaken } }

def loadWaiting : State :=
  let s := doing programming .c0 0x11 1 [] .awaitForce
  { s with
    xlat := { s.xlat with loadWaits := true }
    watch := { s.watch with table := [] }
    requests := { s.requests with claim := some .c0 } }

theorem witness_ForwardHitsAct :
    (∀ t a d r, ∃ f w, (acting t a d r).running = true ∧ (acting t a d r).EngineFed ∧
      (acting t a d r).storage.forward = some f ∧ (acting t a d r).flash.busy = some (.program [(0x1910000, 0x00)]) ∧
      f.ops.length ≤ f.completed + 1 ∧ f.reported = true ∧ f.staging = none ∧ (acting t a d r).xlat.loadWaits = false ∧
      (acting t a d r).watch.table = [w] ∧ StampFree (acting t a d r) ⟨42, 8001, 0⟩ ∧ f.granules = [(0xC90, some 5)] ∧
      w.watches f.kind = true ∧ w.inRange 0xC90 = true ∧ w.alert = a ∧ w.degrade = d ∧ (acting t a d r).watch.trust = t ∧
      (acting t a d r).reservation .c0 = r ∧
      1 < (acting t a d r).store.working.creds[(4 : Fin 32)].minTrust) ∧
    (∃ f, overtaken.storage.forward = some f ∧ overtaken.EngineFed ∧ overtaken.flash.busy ≠ none ∧
      f.ops.length ≤ f.completed + 1 ∧ f.reported = false ∧ overtaken.xlat.loadWaits = false) ∧
    ∃ f, loadWaiting.storage.forward = some f ∧ loadWaiting.EngineFed ∧ f.ops.length ≤ f.completed + 1 ∧ f.staging = none ∧
      loadWaiting.watch.table = [] ∧ loadWaiting.watch.waiting = [] ∧ loadWaiting.xlat.loadWaits = true ∧
      loadWaiting.restart.phase = .released ∧
      Executing loadWaiting .c0 0x11 1 [] .awaitForce ∧ loadWaiting.requests.claim = some .c0 ∧
      ∀ q, (loadWaiting.ctx (otherCtx .c0)).request = some q → q.work ≠ .awaitForce :=
  ⟨fun _ _ _ _ => ⟨_, _, rfl, fun _ => rfl, rfl, rfl, by decide, rfl, rfl, rfl, rfl, ⟨rfl, rfl, rfl, rfl⟩, rfl, rfl, rfl,
      rfl, rfl, rfl, rfl, show 1 < 2 by decide⟩,
    ⟨_, rfl, fun _ => rfl, by decide, by decide, rfl, rfl⟩,
    ⟨_, rfl, fun _ => rfl, by decide, rfl, rfl, rfl, rfl, rfl, ⟨rfl, rfl, rfl⟩, rfl, fun _ h => by cases h⟩⟩

/-- A program or an erase of the STAGING region, at the end of its busy period: its report, the place of the next stream byte,
whether the stream is broken, and the buffer. -/
def staged (st : SessionState) (r : StagingReport) (expected : Nat) (broken : Bool) (buffer : List Byte) : State :=
  let s := staging (up .b .degraded 0) st .c0 0
  { s with
    storage :=
      { s.storage with
        link := .hostForward, forward := some ⟨.program, 0x980000, [.program []], 0, [], some r, true⟩ }
    intake :=
      { s.intake with
        session := { s.intake.session with expected := expected, broken := broken }
        tracker := .written :: .written :: List.replicate 0xBFE .stale
        buffer := buffer }
    flash := ⟨[], some (.program [])⟩ }

theorem witness_StagingForwardsAreAccounted :
    (∀ st r n b buffer, ∃ f, (staged st r n b buffer).running = true ∧ (staged st r n b buffer).EngineFed ∧
      (staged st r n b buffer).storage.forward = some f ∧ (staged st r n b buffer).flash.busy = some (.program []) ∧
      f.ops.length ≤ f.completed + 1 ∧ f.reported = true ∧ f.staging = some r ∧
      (staged st r n b buffer).xlat.loadWaits = false ∧ (staged st r n b buffer).watch.table = [] ∧
      (staged st r n b buffer).watch.waiting = [] ∧ (staged st r n b buffer).intake.session.state = st ∧
      (staged st r n b buffer).intake.session.broken = b ∧ (staged st r n b buffer).intake.session.expected = n ∧
      (staged st r n b buffer).intake.buffer = buffer ∧ NoJob (staged st r n b buffer) .intake) ∧
    ((zeros 4095).length + ([1] : List Byte).length ≤ 4096 ∧ 4096 < (zeros 4096).length + ([1] : List Byte).length) ∧
    (0x1000 / 0x1000 = 0x10F0 / 0x1000 ∧ 0x1000 ≤ 0x1000 ∧ 0x1000 < 0x10F0) ∧
    ∀ st r b buffer, (staged st r 0x1001 b buffer).intake.tracker[1]? = some .written ∧ 1 * 0x1000 < 0x1001 :=
  ⟨fun _ _ _ _ _ => ⟨_, rfl, fun _ => rfl, rfl, rfl, Nat.le_refl _, rfl, rfl, rfl, rfl, rfl, rfl, rfl, rfl, rfl,
    fun _ h => by cases h⟩, by decide +kernel, by decide, fun _ _ _ _ => ⟨rfl, by decide⟩⟩

/-- A part whose write queue holds one write of context 0 that has asked for it. -/
def queued (k : WriteKind) (live : Bool) (r : Reservation) : State :=
  let s := reserving (doing (wireless .verified 0 0) .c0 0x63 1 [] .awaitWrite) .c0 r
  { s with store := { s.store with queue := [⟨.ctx .c0, k, live⟩] } }

/-- A mismatch of a slot, found at version 2, whose write has its turn. -/
def mismatched (k : Fin 32) (lockout : Option Nat) : State :=
  let s := doing (wireless .trial 0 0) .c0 0x64 1 [6, 7] .awaitWrite
  { s with
    store := { s.store with queue := [⟨.ctx .c0, .mismatch k 2, true⟩] }
    creds := { s.creds with lockouts := s.creds.lockouts.set k lockout } }

/-- The key changes of a TRIAL slot: an addition at key slot 3 and revocations of it and of slot 2. -/
def changing : Retained :=
  let r := (held 1).store.working
  { r with
    updateKeys := r.updateKeys.set 0 ⟨.active, .injected, 5⟩
    records := r.records.set .b { r.records.b with changes := ⟨[0, 1], [(1, 7)]⟩ } }

theorem witness_RetainedWritesAreTakenInOrder :
    (∀ k live r, (queued k live r).running = true ∧ (queued k live r).EngineFed ∧
      (queued k live r).store.queue = [⟨.ctx .c0, k, live⟩] ∧ (queued k live r).store.taken = none ∧
      ((queued k live r).ctx .c0).response = .pending 1 0x63) ∧
    (queued (.mismatch 6 3) true .none).store.working.creds[(6 : Fin 32)].version = 3 ∧
    (queued (.mismatch 6 2) false .none).store.working.creds[(6 : Fin 32)].version ≠ 2 ∧
    (∀ k l, Executing (mismatched k l) .c0 0x64 1 [6, 7] .awaitWrite ∧ (mismatched k l).running = true ∧
      (mismatched k l).EngineFed ∧ (mismatched k l).store.taken = none ∧
      (mismatched k l).store.queue = [⟨.ctx .c0, .mismatch k 2, true⟩] ∧ (mismatched k l).creds.lockouts[k] = l) ∧
    (mismatched 6 none).store.working.creds[(6 : Fin 32)].version ≠ 2 ∧
    (mismatched 31 none).store.working.creds[(31 : Fin 32)].version ≠ 2 ∧
    ((mismatched 6 none).store.working.creds[(6 : Fin 32)].content.map fun x =>
      ((mismatched 6 none).releaseAnswer (some true) x, (mismatched 6 none).releaseAnswer (some false) x)) =
      some (none, some .wrongClass) ∧
    (mismatched 31 none).store.working.creds[(31 : Fin 32)].content = none ∧
    (queued (.credGroup []) true (.valid [(4, 12)])).reservationHolds .c0 = true ∧
    (queued (.credGroup []) true (.lost [(4, 12)])).reservationHolds .c0 = false ∧
    (queued (.credGroup []) true (.valid [(4, 11)])).reservationHolds .c0 = false ∧
    (writing worked .restart .bootCount).store.taken ≠ none ∧
    ((changing.records.get changing.selector).changes.additions = [] ++ (1, 7) :: [] ∧
      (0 : Fin 4) ∉ (changing.records.get changing.selector).changes.additions.map (·.1) ∧
      (0 : Fin 4) ∈ (changing.records.get changing.selector).changes.revocations ∧
      changing.updateKeys[(0 : Fin 4)].state = .active ∧ changing.updateKeys[(2 : Fin 4)].state ≠ .active) ∧
    (([(4, none), (5, some (content (.secret [])))] : List (Fin 32 × Option CredContent)).map (·.1)).Nodup := by
  refine ⟨fun _ _ _ => ⟨rfl, fun _ => rfl, rfl, rfl, rfl⟩, by decide, by decide,
    fun _ _ => ⟨⟨rfl, rfl, rfl⟩, rfl, fun _ => rfl, rfl, rfl, ?_⟩, by decide, by decide, by decide, by decide, by decide,
    by decide, by decide, by simp [writing], by decide +kernel, by decide⟩
  simp [mismatched]

/-- The write of an executing request of context 0 at its completion. -/
def completing (k : WriteKind) (fails : Nat) : State :=
  let s := claiming (doing (wireless .verified 0 fails) .c0 0x63 1 [] .awaitWrite) (some .c0) []
  writing { s with intake := { s.intake with session := { s.intake.session with claim := some 0 } } } (.ctx .c0) k

/-- The same in a phase, with a link that may hold a host forward, and with a reservation of the other context. -/
def completingIn (p : Phase) (x : Storage) (r : Reservation) (k : WriteKind) : State :=
  let s := reserving (completing k 0) .c1 r
  { s with restart := { s.restart with phase := p }, storage := x }

/-- The write of a request that a reset frame has discarded, at its completion, with the queue behind it and the CONTEXT_RESET of
its context at this work. -/
def dropped (p : Phase) (k : WriteKind) (queue : List Write) (work : ExecWork) : State :=
  let s := doing (completingIn p worked.storage .none k) .c0 0x02 1 [] work
  { s with
    store :=
      { s.store with
        queue := queue, taken := s.store.taken.map fun w => { w with write := { w.write with live := false } } } }

/-- The last write of the discarded request ends, and the CONTEXT_RESET that waits for it is answered (R178, R182). -/
theorem test_discarded_wipe_answers_the_reset :
    (let t := after .retainedWriteComplete (dropped .released .wipe [] .awaitDiscarded)
     (answerOf t .c0, t.store.working.ownerEpoch - (dropped .released .wipe [] .awaitDiscarded).store.working.ownerEpoch)) =
      (.ready 1 0x02 .ok 0 [], 1) := by decide

theorem witness_CompletedWritesTellTheirBlock :
    (∀ p k queue work, (dropped p k queue work).running = true ∧ (dropped p k queue work).EngineFed ∧
      (∃ w, (dropped p k queue work).store.taken = some w ∧ w.write.owner = .ctx .c0 ∧ w.write.live = false ∧
        w.write.kind = k) ∧
      (∀ q, ((dropped p k queue work).ctx (otherCtx .c0)).request = some q → q.work ≠ .awaitDiscarded) ∧
      (dropped p k queue work).store.queue = queue ∧ (dropped p k queue work).restart.phase = p ∧
      Executing (dropped p k queue work) .c0 0x02 1 [] work) ∧
    (∀ x ∈ ([⟨.ctx .c0, .wipe, true⟩, ⟨.ctx .c1, .wipe, false⟩] : List Write), x.owner = .ctx .c0 → x.live = true) ∧
    (∃ x ∈ ([⟨.ctx .c0, .clearPending, false⟩] : List Write), x.owner = .ctx .c0 ∧ x.live = false) ∧
    (∀ k ∈ [WriteKind.wipe, .confirm, .identity ⟨1, 2⟩ 3, .openSession 1, .commit ⟨8, 1, true, ⟨[], []⟩, none⟩ none true,
      .advance false], k ≠ .bootCount ∧ k.selects = false ∧ k.records = false) ∧
    (∀ p x r k, (completingIn p x r k).EngineFed ∧
      (∃ w, (completingIn p x r k).store.taken = some w ∧ w.write.owner = .ctx .c0 ∧ w.write.live = true ∧ w.write.kind = k) ∧
      Executing (completingIn p x r k) .c0 0x63 1 [] .awaitWrite ∧
      (∀ q, ((completingIn p x r k).ctx (otherCtx .c0)).request = some q → q.work ≠ .awaitDiscarded) ∧
      (completingIn p x r k).requests.claim = some .c0 ∧ (completingIn p x r k).restart.phase = p ∧
      (completingIn p x r k).storage = x ∧ (completingIn p x r k).reservation (otherCtx .c0) = r) ∧
    (programming.storage.forward ≠ none ∧ worked.storage.forward = none) ∧
    (∀ k n, (completing k n).running = true ∧ (completing k n).EngineFed ∧
      (∃ w, (completing k n).store.taken = some w ∧ w.write.owner = .ctx .c0 ∧ w.write.live = true ∧ w.write.kind = k) ∧
      Executing (completing k n) .c0 0x63 1 [] .awaitWrite ∧
      (∀ r, ((completing k n).ctx (otherCtx .c0)).request = some r → r.work ≠ .awaitDiscarded) ∧
      (completing k n).requests.claim = some .c0 ∧ (completing k n).restart.phase = .released ∧
      (completing k n).intake.session.claim = some 0) ∧
    ((WriteKind.mismatch 6 3).values (wireless .verified 0 3).store.working).failCounts[(6 : Fin 32)] < 5 ∧
    5 ≤ ((WriteKind.mismatch 6 3).values (wireless .verified 0 4).store.working).failCounts[(6 : Fin 32)] :=
  ⟨fun _ _ _ _ => ⟨rfl, fun _ => rfl, ⟨_, rfl, rfl, rfl, rfl⟩, (fun _ h => by cases h), rfl, rfl, ⟨rfl, rfl, rfl⟩⟩,
    by decide, by decide, by decide,
    fun _ _ _ _ => ⟨fun _ => rfl, ⟨_, rfl, rfl, rfl, rfl⟩, ⟨rfl, rfl, rfl⟩, (fun _ h => by cases h), rfl, rfl, rfl, rfl⟩,
    by decide,
    fun _ _ => ⟨rfl, fun _ => rfl, ⟨_, rfl, rfl, rfl, rfl⟩, ⟨rfl, rfl, rfl⟩, (fun _ h => by cases h), rfl, rfl, rfl⟩, by decide,
    by decide⟩

/-- A write of the restart controller at its completion, with the controller's work, the capacity known, and the waiting hits. -/
def restarting (w : RestartWork) (cap : Option Nat) (waiting : List PendingHit) (k : WriteKind) : State :=
  let s := recorded ⟨.b, false⟩ k id
  { s with
    restart := { s.restart with work := w }
    storage := { s.storage with capacity := cap }
    time := { s.time with waiting := waiting.map fun _ => .hit, lastStamp := none, bootCounted := false }
    watch := { s.watch with waiting := waiting } }

theorem witness_RestartWritesTellTheirBlock :
    (∀ w cap h k, (restarting w cap h k).running = true ∧ (restarting w cap h k).EngineFed ∧
      (∃ x, (restarting w cap h k).store.taken = some x ∧ x.write.kind = k) ∧
      (∀ c r, ((restarting w cap h k).ctx c).request = some r → r.work ≠ .awaitDiscarded) ∧
      (restarting w cap h k).restart.work = w ∧ (restarting w cap h k).storage.capacity = cap ∧
      (restarting w cap h k).watch.waiting = h ∧ (restarting w cap h k).time.waiting = h.map (fun _ => .hit) ∧
      (restarting w cap h k).time.lastStamp = none) ∧
    0x1FFFFFF < 0x2000000 ∧ (restarting (.held true) none [] .bootCount).time.tick ≠ 0xFFFFFFFFFFFF ∧
    (WriteKind.bootCount.values (restarting (.held true) none [] .bootCount).store.working).bootCount ≠ 0xFFFFFFFF := by
  refine ⟨fun _ _ _ _ => ⟨rfl, fun _ => rfl, ⟨_, rfl, rfl⟩, ?_, rfl, rfl, rfl, rfl, rfl⟩, by decide, by decide, by decide⟩
  intro c r h; cases c <;> cases h

/-! ### The laws -/

/-- A command in front of an otherwise empty queue. -/
def fronted (i : Instr) (s : State) : State := { s with pending := [i] }

/-- A step that completes. -/
def Steps (i : Instr) (s : State) : Prop := ∃ t, step (fronted i s) = .next t

theorem witness_FlashChangesOnlyByItsOperations :
    (fronted (.hostForwardComplete true) programming).FlashCanonical ∧ Steps (.hostForwardComplete true) programming ∧
      (after (.hostForwardComplete true) programming).flash.mem ≠ programming.flash.mem :=
  ⟨by unfold State.FlashCanonical; decide, ⟨_, rfl⟩, by decide⟩

/-- A BOOT_CONFIRM's group at its completion. -/
def confirming : State := writing (doing (onTrial 9 99) .c0 0x36 1 [] .awaitWrite) (.ctx .c0) .confirm

theorem witness_TablesStayValid : (fronted .retainedWriteComplete confirming).TablesValid ∧
    Steps .retainedWriteComplete confirming := by
  have ok : ∀ t, some reference = some t → t.valid = true := fun t h => by cases h; decide
  refine ⟨⟨⟨ok, ok⟩, ⟨ok, ok⟩, ?_, ?_, trivial, ?_, ?_⟩, ⟨_, rfl⟩⟩
  · intro w h; cases h; exact ⟨ok, ok⟩
  · intro w h; cases h
  · intro m h; cases h
  · intro k t h
    have h : InForce.table .b reference = .table k t := h
    cases h; decide

theorem witness_FloorNeverFalls : (fronted .retainedWriteComplete confirming).FloorSound ∧
    Steps .retainedWriteComplete confirming := by
  refine ⟨⟨rfl, ?_⟩, ⟨_, rfl⟩⟩
  intro w h; cases h; exact ⟨by decide, fun h => absurd rfl h⟩

theorem witness_TrustRisesAndWindowOpensOnlyAtRelease :
    (∃ t, exec .retainedWriteComplete confirming = .next t ∧ confirming.watch.trust.level < t.watch.trust.level) ∧
      (∃ t, exec .cryptoJobEnd (releasing .extend2 .trial) = .next t ∧
        (releasing .extend2 .trial).watch.trust.level < t.watch.trust.level ∧
        (releasing .extend2 .trial).restart.bootWindow = false ∧ t.restart.bootWindow = true) ∧
      ∃ t, exec (.hostForwardComplete true) (behindForward (.release .force .trial)) = .next t ∧
        (behindForward (.release .force .trial)).watch.trust.level < t.watch.trust.level ∧
        (behindForward (.release .force .trial)).restart.bootWindow = false ∧ t.restart.bootWindow = true :=
  ⟨⟨_, rfl, by decide⟩, ⟨_, rfl, by decide, by decide, by decide⟩, _, rfl, by decide, by decide, by decide⟩

theorem witness_StampsAscend : (fronted (.chipErase (.transaction [] 0)) (stamped ⟨42, 5, 7⟩ 6)).StampSound ∧
    Steps (.chipErase (.transaction [] 0)) (stamped ⟨42, 5, 7⟩ 6) := by
  refine ⟨⟨?_, by decide, rfl, ?_⟩, ⟨_, rfl⟩⟩
  · intro x h; cases h; exact ⟨rfl, rfl, by decide⟩
  · intro w h; cases h

theorem witness_EngineRunsWhileJobsWait :
    (fronted .cryptoJobEnd (releasing .extend0 .trial)).EngineFed ∧ Steps .cryptoJobEnd (releasing .extend0 .trial) :=
  ⟨(fun h => by cases h), ⟨_, rfl⟩⟩

theorem witness_RestartWorkFitsItsWrites :
    (fronted .retainedWriteComplete (recorded ⟨.b, false⟩ (.slotReject .b 1) id)).RestartSound ∧
      Steps .retainedWriteComplete (recorded ⟨.b, false⟩ (.slotReject .b 1) id) := by
  refine ⟨⟨?_, rfl, _, rfl, rfl⟩, _, rfl⟩
  intro w h
  have h : w ∈ [(⟨.restart, .slotReject .b 1, true⟩ : Write)] := h
  rw [List.mem_singleton.1 h]

theorem witness_ValidTablesSpareTheActiveSlot :
    (reference.valid = true ∧ reference.descriptors[5]? = some ⟨5, 3, 0, 1, 0xC90, 0x300, 0x1910000⟩ ∧
      (⟨5, 3, 0, 1, 0xC90, 0x300, 0x1910000⟩ : Descriptor).covers 0xF8F = true ∧
      0xA00000 + reference.stagingLength ≤ reference.slotSize) ∧
    worked.xlat.inForce = .table .b reference ∧ worked.intake.session.bank + reference.stagingLength ≤ reference.slotSize ∧
      (worked.translateWrite false 0x9A3000).verdict = .forward 0x423000 := by decide

end Sys2Proof.Tests
end

section
/-! # Rules about the state's operations

What a command that needs a running part does, what an executing request's command is given, and what the hit list, the stamps and
the alert unit hold after each shared operation. The proofs of the statements below go through these rules. -/

namespace Sys2Proof.Machine

open Sys2Proof

/-! ## Commands of a running part, and commands of a request -/

theorem whenRunning_eq {s : State} (h : s.running = true) (f : State → State) : whenRunning s f = .next (f s) := by
  simp [whenRunning, h]

/-- What holds of the state and of the effect's answer holds of the next state. -/
theorem whenRunning_keeps {P : State → Prop} {s t : State} {f : State → State} (hs : P s) (hf : P (f s))
    (h : whenRunning s f = .next t) : P t := by
  unfold whenRunning at h
  cases h
  split
  · exact hf
  · exact hs

/-- What holds of the state and of the owner's work on any body holds after the owner's command. -/
theorem State.onRequest_keeps {P : State → Prop} {s : State} {c : Ctx} {code : Nat} {f : List Byte → State → State} (hs : P s)
    (hf : ∀ body, P (f body s)) : P (s.onRequest c code f) := by
  unfold State.onRequest
  split
  · exact hf _
  · exact hs

/-- The owner of a routed request is given its body (R177). -/
theorem Routed.onRequest {s : State} {c : Ctx} {code tag : Nat} {body : List Byte} (h : Routed s c code tag body)
    (f : List Byte → State → State) : s.onRequest c code f = f body s := by
  obtain ⟨-, hreq, -⟩ := h
  simp [State.onRequest, State.routed?, hreq]

/-- A request's command, on its routed request. -/
theorem Routed.exec_eq {s : State} {c : Ctx} {code tag : Nat} {body : List Byte} (h : Routed s c code tag body)
    (f : List Byte → State → State) : (whenRunning s fun s => s.onRequest c code f) = .next (f body s) := by
  rw [whenRunning_eq h.1, h.onRequest]

theorem Executing.work? {s : State} {c : Ctx} {code tag : Nat} {body : List Byte} {w : ExecWork}
    (h : Executing s c code tag body w) : s.work? c = some w := by
  obtain ⟨-, hreq, -⟩ := h
  simp [State.work?, hreq]

/-- Noting how far the request has come changes its work alone. -/
theorem Executing.setWork_goesOn {s : State} {c : Ctx} {code tag : Nat} {body : List Byte} {w : ExecWork}
    (h : Executing s c code tag body w) (w' : ExecWork) : GoesOn s (s.setWork c w') c code tag body w' := by
  obtain ⟨-, hreq, -⟩ := h
  exact ⟨by simp [State.setWork, hreq], by simp [State.setWork]⟩

@[simp] theorem PerCtx.set_get {α : Type} (p : PerCtx α) (c : Ctx) : p.set c (p.get c) = p := by cases c <;> rfl

@[simp] theorem PerCtx.set_set {α : Type} (p : PerCtx α) (c : Ctx) (x y : α) : (p.set c x).set c y = p.set c y := by
  cases c <;> rfl

/-! ## The crypto engine -/

/-- Where no job waits behind an idle engine, nothing starts (R118). -/
theorem State.startNext_fed {s : State} (h : s.EngineFed) : s.startNext = s := by
  unfold State.startNext
  split
  · rename_i hr hq
    rw [h hr] at hq
    cases hq
  · rfl

theorem Crypto.holds_iff (x : Crypto) (r : Requester) : x.holds r = true ↔ ∃ j ∈ x.fifo, j.requester = r := by
  unfold Crypto.holds Crypto.fifo
  cases x.running <;> simp

theorem NoJob.holds {s : State} {r : Requester} (h : NoJob s r) : s.crypto.holds r = false :=
  Bool.eq_false_iff.mpr fun e => by
    obtain ⟨j, hj, hr⟩ := (Crypto.holds_iff _ _).1 e
    exact h j hj hr

theorem holds_of_not_noJob {s : State} {r : Requester} (h : ¬ NoJob s r) : s.crypto.holds r = true := by
  rw [Crypto.holds_iff]
  unfold NoJob at h
  push Not at h
  exact h

/-- A start takes the front of the FIFO's queue into the engine: the FIFO is as before (R118). -/
theorem State.startNext_fifo (s : State) : s.startNext.crypto.fifo = s.crypto.fifo := by
  unfold State.startNext
  split
  · rename_i hr hq
    simp [Crypto.fifo, hr, hq]
  · rfl

theorem State.startNext_deferred (s : State) : s.startNext.crypto.deferred = s.crypto.deferred := by
  unfold State.startNext; split <;> rfl

/-- A submission joins the FIFO, or waits outside it while its requester's discarded job still runs (R118, R119). -/
theorem State.enqueueJob_queues (s : State) (r : Requester) (k : JobKind) : QueuesJob s (s.enqueueJob r k) r k := by
  refine ⟨fun h => ?_, fun h => ?_⟩
  · simp [State.enqueueJob, h.holds, Crypto.fifo]
  · simp [State.enqueueJob, holds_of_not_noJob h, Crypto.fifo]

theorem QueuesJob.startNext {s t : State} {r : Requester} {k : JobKind} (h : QueuesJob s t r k) :
    QueuesJob s t.startNext r k := by
  unfold QueuesJob at *
  rwa [t.startNext_fifo, t.startNext_deferred]

/-! ## Stamps and hits -/

theorem StampFree.waiting {s : State} {x : Stamp} (h : StampFree s x) : s.watch.waiting = [] := h.2.1

/-- No hit is handed over, and none waits. -/
theorem State.takeHits_nil {s : State} (h : s.watch.waiting = []) : s.takeHits [] = s := by
  unfold State.takeHits
  simp only [List.append_nil, h, List.length_nil, State.pumpHits]
  rw [← h]

/-- A hit that has its stamp at once is recorded (R79, R137). -/
theorem State.takeHits_stamped {s : State} {x : Stamp} (h : StampFree s x) (p : PendingHit) :
    s.takeHits [p] = (s.issue x).recordHit p x := by
  obtain ⟨ht, hw, he, hn⟩ := h
  have hsame : ({ s with watch := { s.watch with waiting := [] } } : State) = s := by rw [← hw]
  have hexh : ({ s with watch := { s.watch with waiting := [p] } } : State).stampsExhausted = false := he
  have hnext : ({ s with watch := { s.watch with waiting := [p] } } : State).nextStamp = some x := hn
  simp [State.takeHits, hw, State.pumpHits, ht, hexh, hnext, hsame]

/-- A hit that cannot have a stamp yet waits for it, and no hit behind it (R79, R138). -/
theorem State.takeHits_waits {s : State} (hw : s.watch.waiting = []) (he : s.stampsExhausted = false)
    (hnot : StampRequest.hit ∉ s.time.waiting) (h : s.time.waiting ≠ [] ∨ s.nextStamp = none) (p : PendingHit) :
    s.takeHits [p] = State.waitStamp { s with watch := { s.watch with waiting := [p] } } .hit := by
  have hexh : ({ s with watch := { s.watch with waiting := [p] } } : State).stampsExhausted = false := he
  have hnext : ({ s with watch := { s.watch with waiting := [p] } } : State).nextStamp = s.nextStamp := rfl
  simp only [State.takeHits, hw, List.nil_append, List.length_singleton, State.pumpHits, List.contains_eq_mem, hnot, hexh,
    decide_false, Bool.false_eq_true, if_false, hnext]
  split
  · rename_i hx hy
    rcases h with h | h
    · exact absurd hx h
    · rw [h] at hy; cases hy
  · rfl

/-! ## What a hit does (R79, R81, R85, R86) -/

/-- The trust level falls at a DEGRADE hit (R85). -/
def PendingHit.falls (h : PendingHit) (level : Nat) : Bool := h.degrade && decide (1 < level)

/-- The reservations after a fall of the trust level to DEGRADED (R86, R152). -/
def Creds.onFall (x : Creds) (creds : Vector CredRecord 32) : Creds :=
  { x with
    reservations :=
      ⟨x.reservations.c0.onFall creds Trust.degraded.level, x.reservations.c1.onFall creds Trust.degraded.level⟩ }

theorem Creds.onFall_none {x : Creds} (h : x.reservations = ⟨.none, .none⟩) (creds : Vector CredRecord 32) :
    x.onFall creds = x := by
  obtain ⟨_, _, _, _, _, _⟩ := x
  subst h
  rfl

theorem State.degrade_falls {s : State} (h : 1 < s.watch.trust.level) :
    s.degrade =
      { s with
        watch := { s.watch with trust := .degraded }
        alert := (s.raise sourceTrustDrop).alert
        creds := s.creds.onFall s.wc.creds } := by
  unfold State.degrade
  exact if_pos (c := Trust.degraded.level < s.watch.trust.level) h

theorem State.degrade_stays {s : State} (h : ¬ 1 < s.watch.trust.level) : s.degrade = s := by
  unfold State.degrade
  exact if_neg (c := Trust.degraded.level < s.watch.trust.level) h

theorem State.degrade_watch (s : State) :
    s.degrade.watch = { s.watch with trust := if 1 < s.watch.trust.level then .degraded else s.watch.trust } := by
  by_cases h : 1 < s.watch.trust.level
  · rw [State.degrade_falls h, if_pos h]
  · rw [State.degrade_stays h, if_neg h]

theorem State.degrade_creds (s : State) :
    s.degrade.creds = if 1 < s.watch.trust.level then s.creds.onFall s.wc.creds else s.creds := by
  by_cases h : 1 < s.watch.trust.level
  · rw [State.degrade_falls h, if_pos h]
  · rw [State.degrade_stays h, if_neg h]

theorem State.alertAction_watch (s : State) (b : Bool) : (if b then s.raise sourceWatch else s).watch = s.watch := by
  cases b <;> rfl

/-- The alert unit after a hit's ALERT action. -/
theorem State.alertAction_step (s : State) (b : Bool) :
    AlertStep s.time.tick 0 (if b then sourceWatch else 0) s.alert (if b then s.raise sourceWatch else s).alert := by
  cases b
  · exact AlertStep.refl _ _
  · exact s.raise_step _

/-- The state after a hit's ALERT and DEGRADE actions, the entry into HELD aside. -/
def State.afterActions (s : State) (h : PendingHit) : State :=
  let s := if h.alert then s.raise sourceWatch else s
  if h.degrade then s.degrade else s

theorem State.hitActions_eq (s : State) (h : PendingHit) :
    s.hitActions h =
      if h.endsHold ∧ (s.afterActions h).watch.holdDeferred then (s.afterActions h).holdClear else s.afterActions h := rfl

theorem State.afterActions_watch (s : State) (h : PendingHit) :
    (s.afterActions h).watch =
      { s.watch with trust := if h.falls s.watch.trust.level then .degraded else s.watch.trust } := by
  unfold State.afterActions PendingHit.falls
  rw [← s.alertAction_watch h.alert]
  cases h.degrade
  · simp
  · simp [State.degrade_watch]

theorem State.afterActions_creds (s : State) (h : PendingHit) :
    (s.afterActions h).creds = if h.falls s.watch.trust.level then s.creds.onFall s.wc.creds else s.creds := by
  unfold State.afterActions PendingHit.falls
  have hw := s.alertAction_watch h.alert
  have hc : (if h.alert then s.raise sourceWatch else s).creds = s.creds := by split <;> rfl
  have hs : (if h.alert then s.raise sourceWatch else s).wc = s.wc := by split <;> rfl
  rw [← hw, ← hc, ← hs]
  cases h.degrade
  · simp
  · simp [State.degrade_creds]

theorem State.afterActions_alert (s : State) (h : PendingHit) :
    AlertSteps s.time.tick
      [(0, if h.alert then sourceWatch else 0), (0, if h.falls s.watch.trust.level then sourceTrustDrop else 0)] s.alert
      (s.afterActions h).alert := by
  refine ⟨_, s.alertAction_step h.alert, (s.afterActions h).alert, ?_, rfl⟩
  unfold State.afterActions
  have hw := s.alertAction_watch h.alert
  have ht : (if h.alert then s.raise sourceWatch else s).time = s.time := by split <;> rfl
  generalize (if h.alert then s.raise sourceWatch else s) = u at hw ht ⊢
  rw [← ht, ← hw]
  unfold PendingHit.falls
  cases h.degrade
  · exact AlertStep.refl _ _
  · by_cases hl : 1 < u.watch.trust.level
    · simp only [if_true, u.degrade_falls hl, Bool.true_and, decide_eq_true hl]
      exact u.raise_step _
    · simp only [if_true, u.degrade_stays hl, Bool.true_and, decide_eq_false hl]
      exact AlertStep.refl _ _

theorem State.hitActions_watch (s : State) (h : PendingHit) :
    (s.hitActions h).watch =
      if h.endsHold ∧ s.watch.holdDeferred then
        { s.watch with table := [], trust := .unverified, hitsSince := 0, holdDeferred := false }
      else { s.watch with trust := if h.falls s.watch.trust.level then .degraded else s.watch.trust } := by
  have hd : (s.afterActions h).watch.holdDeferred = s.watch.holdDeferred := by rw [s.afterActions_watch]
  rw [s.hitActions_eq, hd]
  by_cases hold : h.endsHold ∧ s.watch.holdDeferred
  · rw [if_pos hold, if_pos hold, State.holdClear, s.afterActions_watch]
  · rw [if_neg hold, if_neg hold, s.afterActions_watch]

theorem State.hitActions_creds (s : State) (h : PendingHit) :
    (s.hitActions h).creds = if h.falls s.watch.trust.level then s.creds.onFall s.wc.creds else s.creds := by
  rw [← s.afterActions_creds, s.hitActions_eq]
  split <;> rfl

theorem State.hitActions_alert (s : State) (h : PendingHit) :
    AlertSteps s.time.tick
      [(0, if h.alert then sourceWatch else 0), (0, if h.falls s.watch.trust.level then sourceTrustDrop else 0)] s.alert
      (s.hitActions h).alert := by
  have hsame : (s.hitActions h).alert = (s.afterActions h).alert := by rw [s.hitActions_eq]; split <;> rfl
  rw [hsame]
  exact s.afterActions_alert h

/-- A hit's actions touch the watch unit, the alert unit and the reservations. -/
theorem State.hitActions_frame (s : State) (h : PendingHit) :
    { s.hitActions h with watch := s.watch, alert := s.alert, creds := s.creds } = s := by
  obtain ⟨_, _, _, e⟩ := s.hitActions_touches h
  rw [e]

/-- A hit without ALERT and DEGRADE that ends no hold has no action. -/
theorem State.hitActions_none (s : State) {h : PendingHit} (ha : h.alert = false) (hd : h.degrade = false)
    (he : h.endsHold = false) : s.hitActions h = s := by
  simp [State.hitActions, ha, hd, he]

/-- A watch hit without ALERT and DEGRADE, or a refusal: its record at the front of the list, and its stamp. -/
theorem State.takeHits_recorded {s : State} {x : Stamp} (hx : StampFree s x) {h : PendingHit} (ha : h.alert = false)
    (hd : h.degrade = false) (he : h.endsHold = false) :
    s.takeHits [h] =
      { s with
        watch := s.watch.add ⟨x, h.start, h.kind, h.region, h.entry⟩
        time := { s.time with lastStamp := some x } } := by
  rw [State.takeHits_stamped hx]
  exact State.hitActions_none _ ha hd he

/-- A hit that has its stamp at once: its record, its stamp and its actions, where it ends no hold (R79, R85, R86). -/
theorem State.takeHits_acts {s : State} {x : Stamp} (hx : StampFree s x) {h : PendingHit}
    (hold : s.watch.holdDeferred = false ∨ h.endsHold = false) :
    (s.takeHits [h]).time = { s.time with lastStamp := some x } ∧
      (s.takeHits [h]).watch =
        { s.watch.add ⟨x, h.start, h.kind, h.region, h.entry⟩ with
          trust := if h.falls s.watch.trust.level then .degraded else s.watch.trust } ∧
      AlertSteps s.time.tick
        [(0, if h.alert then sourceWatch else 0), (0, if h.falls s.watch.trust.level then sourceTrustDrop else 0)] s.alert
        (s.takeHits [h]).alert ∧
      (s.takeHits [h]).creds = (if h.falls s.watch.trust.level then s.creds.onFall s.wc.creds else s.creds) ∧
      { s.takeHits [h] with time := s.time, watch := s.watch, alert := s.alert, creds := s.creds } = s := by
  rw [State.takeHits_stamped hx, State.recordHit]
  have hframe := ((s.issue x).addHit h x).hitActions_frame h
  have hnot : ¬ (h.endsHold = true ∧ ((s.issue x).addHit h x).watch.holdDeferred = true) := by
    rintro ⟨he, hd⟩
    have hd : s.watch.holdDeferred = true := hd
    rcases hold with hold | hold
    · rw [hold] at hd; cases hd
    · rw [hold] at he; cases he
  have hwatch := ((s.issue x).addHit h x).hitActions_watch h
  rw [if_neg hnot] at hwatch
  exact ⟨congrArg (·.time) hframe, hwatch, ((s.issue x).addHit h x).hitActions_alert h,
    ((s.issue x).addHit h x).hitActions_creds h,
    congrArg (fun t : State => { t with time := s.time, watch := s.watch }) hframe⟩

/-! ## What the taking of hits and the serving of stamps leave alone -/

/-- The clock, the registers and the altered flags are as before, and so is the watch table, where no entry into HELD waits to
empty it. -/
def HitFrame (s t : State) : Prop :=
  t.time.tick = s.time.tick ∧ t.time.wall = s.time.wall ∧ t.watch.registers = s.watch.registers ∧
    t.watch.altered = s.watch.altered ∧
    (s.watch.holdDeferred = false → t.watch.holdDeferred = false ∧ t.watch.table = s.watch.table)

theorem HitFrame.refl (s : State) : HitFrame s s := ⟨rfl, rfl, rfl, rfl, fun h => ⟨h, rfl⟩⟩

theorem HitFrame.trans {s t u : State} (h : HitFrame s t) (h' : HitFrame t u) : HitFrame s u := by
  obtain ⟨a, b, c, d, e⟩ := h
  obtain ⟨a', b', c', d', e'⟩ := h'
  refine ⟨a'.trans a, b'.trans b, c'.trans c, d'.trans d, fun hd => ?_⟩
  obtain ⟨hd1, ht1⟩ := e hd
  obtain ⟨hd2, ht2⟩ := e' hd1
  exact ⟨hd2, ht2.trans ht1⟩

theorem State.hitActions_hitFrame (s : State) (h : PendingHit) : HitFrame s (s.hitActions h) := by
  have ht : (s.hitActions h).time = s.time := congrArg (·.time) (s.hitActions_frame h)
  unfold HitFrame
  rw [ht, s.hitActions_watch h]
  refine ⟨rfl, rfl, ?_⟩
  by_cases hold : h.endsHold ∧ s.watch.holdDeferred
  · rw [if_pos hold]
    exact ⟨rfl, rfl, fun hd => absurd hold.2 (by simp [hd])⟩
  · rw [if_neg hold]
    exact ⟨rfl, rfl, fun hd => ⟨hd, rfl⟩⟩

theorem State.recordHit_hitFrame (s : State) (h : PendingHit) (x : Stamp) : HitFrame s (s.recordHit h x) :=
  HitFrame.trans (t := s.addHit h x) (HitFrame.refl s) (State.hitActions_hitFrame _ h)

theorem State.pumpHits_hitFrame (n : Nat) (s : State) : HitFrame s (s.pumpHits n) := by
  induction n generalizing s with
  | zero => exact HitFrame.refl s
  | succ n ih =>
    unfold State.pumpHits
    split
    · exact HitFrame.refl s
    · split
      · exact HitFrame.refl s
      · rename_i h rest _
        have hpop : HitFrame s { s with watch := { s.watch with waiting := rest } } := HitFrame.refl s
        dsimp only
        split
        · exact hpop.trans ((State.recordHit_hitFrame _ h _).trans (ih _))
        · split
          · rename_i x _ _
            exact HitFrame.trans (t := State.issue { s with watch := { s.watch with waiting := rest } } x) (HitFrame.refl s)
              ((State.recordHit_hitFrame _ h x).trans (ih _))
          · exact HitFrame.refl s

theorem State.takeHits_hitFrame (s : State) (hs : List PendingHit) : HitFrame s (s.takeHits hs) :=
  HitFrame.trans (t := { s with watch := { s.watch with waiting := s.watch.waiting ++ hs } }) (HitFrame.refl s)
    (State.pumpHits_hitFrame _ _)

theorem State.assembleQuote_hitFrame (s : State) (c : Ctx) (x : Stamp) : HitFrame s (s.assembleQuote c x) := by
  obtain ⟨_, _, e⟩ := s.assembleQuote_touches c x
  rw [e]
  exact HitFrame.refl s

theorem State.serveHit_hitFrame (s : State) (h : PendingHit) (x : Stamp) : HitFrame s (s.serveHit h x) := by
  unfold State.serveHit
  dsimp only
  split
  · split
    · refine HitFrame.trans ?_ (State.hitActions_hitFrame _ h)
      exact HitFrame.trans (HitFrame.refl s) (State.assembleQuote_hitFrame _ _ _)
    · exact HitFrame.trans (HitFrame.refl s) (State.hitActions_hitFrame _ h)
  · exact State.recordHit_hitFrame (s.issue x) h x

theorem State.serveStamps_hitFrame (n : Nat) (s : State) : HitFrame s (s.serveStamps n) := by
  induction n generalizing s with
  | zero => exact HitFrame.refl s
  | succ n ih =>
    unfold State.serveStamps
    split
    · exact HitFrame.refl s
    · rename_i r rest _
      have hpop : HitFrame s { s with time := { s.time with waiting := rest } } := HitFrame.refl s
      dsimp only
      split
      · cases r with
        | quote c => exact hpop.trans (ih _)
        | hit => exact hpop.trans ((State.pumpHits_hitFrame _ _).trans (ih _))
      · split
        · exact HitFrame.refl s
        · rename_i x _
          cases r with
          | quote c =>
            have hissued := hpop.trans (HitFrame.refl (State.issue { s with time := { s.time with waiting := rest } } x))
            exact hissued.trans ((State.assembleQuote_hitFrame _ c _).trans (ih _))
          | hit =>
            dsimp only
            split
            · exact hpop.trans (ih _)
            · rename_i h hs _
              have htaken : HitFrame s { s with time := { s.time with waiting := rest }, watch := { s.watch with waiting := hs } } :=
                HitFrame.refl s
              exact htaken.trans ((State.serveHit_hitFrame _ h x).trans ((State.pumpHits_hitFrame _ _).trans (ih _)))

end Sys2Proof.Machine
end

section
/-! # The entry into HELD

One rule for each step of R51, and from them `State.enterHeld_entersHeld`: all that an entry into HELD does and keeps, at whichever
trigger. -/

namespace Sys2Proof.Machine

open Sys2Proof

/-! ## The end of a read -/

/-- The storage link after the end of a host's physical read (R39). -/
def State.closeRead (s : State) : State :=
  if s.storage.link = .hostRead then { s with storage := { s.storage with link := .idle, readAt := none } } else s

/-- The hits of the read in progress, the last one marked where it ends a hold (R76, R80). -/
def State.endHits (s : State) (endsHold : Bool) : List PendingHit :=
  let hs := readHits s.watchInForce s.link.decoder.start s.link.decoder.returned
  if endsHold then hs.dropLast ++ (hs.getLast?.map fun h => { h with endsHold := true }).toList else hs

theorem State.endRead_eq (s : State) (b : Bool) :
    s.endRead b = if s.link.decoder.returned = [] then s.closeRead else s.closeRead.takeHits (s.endHits b) := by
  have hw : s.closeRead.watchInForce = s.watchInForce := by unfold State.closeRead; split <;> rfl
  unfold State.endRead State.endHits
  rw [← hw]
  rfl

theorem State.closeRead_touches (s : State) : ∃ x, s.closeRead = { s with storage := x } := by
  unfold State.closeRead; split <;> exact ⟨_, rfl⟩

theorem State.closeRead_storage (s : State) :
    s.closeRead.storage =
      { s.storage with
        readAt := if s.storage.link = .hostRead then none else s.storage.readAt
        link := if s.storage.link = .hostRead then .idle else s.storage.link } := by
  unfold State.closeRead; split <;> rfl

theorem State.endRead_storage (s : State) (b : Bool) : (s.endRead b).storage = s.closeRead.storage := by
  rw [s.endRead_eq]
  split
  · rfl
  · obtain ⟨_, _, _, _, e⟩ := s.closeRead.takeHits_touches (s.endHits b)
    rw [e]

/-- A read that returned nothing, or whose report gives no hit and finds none waiting, is not reported (R76). -/
theorem State.endRead_silent {s : State} {b : Bool}
    (h : s.link.decoder.returned = [] ∨ s.watch.waiting = [] ∧ s.endHits b = []) : s.endRead b = s.closeRead := by
  rw [s.endRead_eq]
  rcases h with h | ⟨hw, hh⟩
  · rw [if_pos h]
  · split
    · rfl
    · obtain ⟨x, e⟩ := s.closeRead_touches
      rw [hh, e]
      exact State.takeHits_nil hw

/-- A read report of bytes that no READ entry's range holds gives no hit (R76). -/
theorem readHits_nil {table : List WatchEntry} {start : Nat} {returned : List (Nat × Option Nat)}
    (h : ∀ w ∈ table, w.onRead = true → ∀ b ∈ returned, w.inRange (b.1 / 0x1000) = false) :
    readHits table start returned = [] := by
  unfold readHits
  rw [List.filterMap_eq_nil_iff]
  intro e he
  have hmem : e.1 ∈ table := by
    obtain ⟨w, i⟩ := e
    exact List.fst_mem_of_mem_zipIdx he
  split
  · rename_i hr
    have hnone : returned.find? (fun b => e.1.inRange (b.1 / 0x1000)) = none :=
      List.find?_eq_none.2 fun b hb => by simp [h _ hmem hr b hb]
    simp [hnone]
  · rfl

/-- A read report against one READ entry: one hit, with the region of the first byte in its range (R76). -/
theorem readHits_single {w : WatchEntry} {start l : Nat} {r : Option Nat} {pre post : List (Nat × Option Nat)}
    (hr : w.onRead = true) (hin : w.inRange (l / 0x1000) = true) (hpre : ∀ b ∈ pre, w.inRange (b.1 / 0x1000) = false) :
    readHits [w] start (pre ++ (l, r) :: post) = [w.hit start .read r 0] := by
  have hfind : (pre ++ (l, r) :: post).find? (fun b => w.inRange (b.1 / 0x1000)) = some (l, r) := by
    rw [List.find?_append, List.find?_eq_none.2 fun b hb => by simp [hpre b hb]]
    simp [hin]
  simp only [readHits, List.zipIdx_cons, List.zipIdx_nil, List.filterMap_cons, List.filterMap_nil, hr, if_true, hfind,
    Option.map_some]

theorem State.endHits_nil {s : State} {b : Bool}
    (h : ∀ w ∈ s.watch.table, w.onRead = true → ∀ x ∈ s.link.decoder.returned, w.inRange (x.1 / 0x1000) = false) :
    s.endHits b = [] := by
  have hn : readHits s.watchInForce s.link.decoder.start s.link.decoder.returned = [] := by
    unfold State.watchInForce
    split
    · rfl
    · exact readHits_nil h
  unfold State.endHits
  cases b <;> simp [hn]

theorem State.endHits_single {s : State} {b : Bool} {w : WatchEntry} {l : Nat} {r : Option Nat} {pre post : List (Nat × Option Nat)}
    (ht : s.watch.table = [w]) (hd : s.watch.holdDeferred = false) (hr : w.onRead = true)
    (he : s.link.decoder.returned = pre ++ (l, r) :: post) (hin : w.inRange (l / 0x1000) = true)
    (hpre : ∀ b ∈ pre, w.inRange (b.1 / 0x1000) = false) :
    s.endHits b = [⟨s.link.decoder.start, .read, r, some 0, w.alert, w.degrade, b⟩] := by
  have h1 : readHits s.watchInForce s.link.decoder.start s.link.decoder.returned = [w.hit s.link.decoder.start .read r 0] := by
    rw [State.watchInForce, hd, he]
    simpa [ht] using readHits_single hr hin hpre
  unfold State.endHits
  rw [h1]
  cases b <;> rfl

/-! ## The steps of the entry -/

/-- The read that step 1 of the entry ends (R33, R51). -/
def State.abandonRead (s : State) : State := if s.hostReading then s.endRead true else s

theorem State.holdLink_eq (s : State) :
    s.holdLink =
      { s.abandonRead with
        link := ⟨{ Decoder.after s.link.decoder.out with
          state := if s.link.decoder.state = .idle then .idle else .ignoring }, false, false⟩ } := by
  unfold State.holdLink State.abandonRead State.hostReading
  rcases hc : s.link.decoder.cmd with _ | cmd
  · simp [hc, Decoder.after]
  · by_cases hi : s.link.decoder.state = .idle
    · simp [hi, Decoder.after]
    · cases cmd <;> simp [hc, hi, LinkCmd.isRead, Decoder.after]

theorem State.abandonRead_touches (s : State) :
    ∃ x w a c t, s.abandonRead = { s with storage := x, watch := w, alert := a, creds := c, time := t } := by
  unfold State.abandonRead
  split
  · exact s.endRead_touches true
  · exact ⟨_, _, _, _, _, rfl⟩

theorem State.abandonRead_storage (s : State) :
    s.abandonRead.storage =
      { s.storage with
        readAt := if s.hostReading ∧ s.storage.link = .hostRead then none else s.storage.readAt
        link := if s.hostReading ∧ s.storage.link = .hostRead then .idle else s.storage.link } := by
  unfold State.abandonRead
  by_cases h : s.hostReading = true
  · simp [h, s.endRead_storage, s.closeRead_storage]
  · simp [h]

theorem State.abandonRead_hitFrame (s : State) : HitFrame s s.abandonRead := by
  unfold State.abandonRead
  split
  · obtain ⟨x, e⟩ := s.closeRead_touches
    rw [s.endRead_eq, e]
    split
    · exact HitFrame.refl s
    · exact HitFrame.trans (t := { s with storage := x }) (HitFrame.refl s) (State.takeHits_hitFrame _ _)
  · exact HitFrame.refl s

/-- The storage link after the intake's background read has been cancelled (R45). -/
def Storage.withoutUpdate (x : Storage) : Storage :=
  { x with
    job := x.job.filter fun j => j.user ≠ .update
    link := if x.job.any (fun j => j.user = .update && j.running) then .idle else x.link }

theorem State.cancelRead_update_eq (s : State) : s.cancelRead .update = { s with storage := s.storage.withoutUpdate } := by
  obtain ⟨_, _, _, _, ⟨link, readAt, forward, job, capacity⟩, _, _, _, _, _, _, _, _, _, _, _⟩ := s
  rcases job with _ | j
  · rfl
  · by_cases hu : j.user = .update <;> simp [State.cancelRead, Storage.withoutUpdate, Option.filter, hu]

/-- The crypto engine without a requester's jobs (R119). -/
def Crypto.without (x : Crypto) (r : Requester) : Crypto :=
  ⟨x.running.map fun j => if j.job.requester = r then { j with discarded := true } else j,
    x.queue.filter (fun j => j.requester ≠ r), x.deferred.filter (fun j => j.requester ≠ r)⟩

theorem State.removeJobs_eq (s : State) (r : Requester) : s.removeJobs r = { s with crypto := s.crypto.without r } := rfl

theorem State.dropIntakeWork_eq (s : State) :
    s.dropIntakeWork =
      { s with
        storage := s.storage.withoutUpdate
        crypto := s.crypto.without .intake
        intake := { s.intake with work := .none, buffer := [], absorbed := [], streamJob := false } } := by
  unfold State.dropIntakeWork
  rw [s.cancelRead_update_eq]
  rfl

/-- The engine keeps the restart controller's jobs alone (R52, R119). -/
theorem Crypto.without_all (x : Crypto) :
    (((x.without .intake).without (.ctx .c0)).without (.ctx .c1)).without .intake =
      ⟨x.running.map fun j => if j.job.requester = .restart then j else { j with discarded := true },
        x.queue.filter (fun j => j.requester = .restart), x.deferred.filter (fun j => j.requester = .restart)⟩ := by
  have only (r : Requester) :
      ((r ≠ .intake ∧ r ≠ .ctx .c1) ∧ r ≠ .ctx .c0) ∧ r ≠ .intake ↔ r = .restart := by
    rcases r with _ | _ | c
    · simp
    · simp
    · cases c <;> simp
  have hfilter (q : List Job) :
      (((q.filter (fun j => j.requester ≠ .intake)).filter (fun j => j.requester ≠ .ctx .c0)).filter
        (fun j => j.requester ≠ .ctx .c1)).filter (fun j => j.requester ≠ .intake) =
      q.filter (fun j => j.requester = .restart) := by
    simp only [List.filter_filter]
    congr 1
    funext j
    have := only j.requester
    simp only [← Bool.decide_and, decide_eq_decide]
    tauto
  unfold Crypto.without
  simp only [hfilter, Crypto.mk.injEq, and_true, Option.map_map]
  congr 1
  funext j
  obtain ⟨⟨r, k⟩, x, d⟩ := j
  rcases r with _ | _ | c
  · simp
  · simp
  · cases c <;> simp

theorem State.holdSession_eq (s : State) :
    s.holdSession =
      { s with
        xlat := { s.xlat with inForce := .none }
        storage := { s.storage.withoutUpdate with forward := s.storage.forward.map HostForward.overtaken }
        crypto := s.crypto.without .intake
        intake :=
          { s.intake with
            work := .none, buffer := [], absorbed := [], streamJob := false
            session := if s.intake.session.state = .commitPending then s.intake.session else Session.resting } } := by
  unfold State.holdSession
  simp only [State.dropIntakeWork_eq]
  split <;> rfl

/-- The watch unit's part of the entry: at once, or behind the hits of an abandoned read (R80). -/
theorem State.holdWatch_eq (s : State) :
    s.holdWatch =
      { s with
        watch :=
          if s.watch.waiting.any (·.endsHold) then
            { s.watch with registers := Vector.replicate 8 0, altered := 0, holdDeferred := true }
          else WatchHeld s.watch } := by
  unfold State.holdWatch
  dsimp only
  split <;> rfl

/-- The alert unit's part of the entry (R184; log entry 46). -/
theorem State.holdAlert_held (s : State) : AlertHeld s.time.tick s.alert s.holdAlert.alert := by
  rintro x rfl
  have hmask : ~~~(sourceTrial ||| sourcePresence ||| responseSource .c0 ||| responseSource .c1) =
      sourceWatch ||| sourceUpdate ||| sourceLockout ||| sourceTrustDrop := by decide
  unfold State.holdAlert
  rw [hmask]
  refine ⟨fun hp hm => s.judged_unchanged _ hp hm.symm, fun h => s.judged_judged _ fun e => ?_⟩
  rcases h with h | h
  · exact h e.1
  · exact h e.2.symm

/-- A judgement with interval 0 arms no timer (R186). -/
theorem Alert.judge_timer {now : Nat} {a : Alert} (hi : a.interval = 0) (ht : a.timer = none) : (a.judge now).timer = none := by
  unfold Alert.judge realertTimer
  split
  · rfl
  · split
    · simp
    · exact ht

theorem State.holdAlert_settings (s : State) :
    s.holdAlert.alert.mask = 0xFF ∧ s.holdAlert.alert.interval = 0 ∧ s.holdAlert.alert.timer = none := by
  refine ⟨s.judged_mask _, s.judged_interval _, ?_⟩
  unfold State.holdAlert State.judged
  dsimp only
  split
  · rfl
  · exact Alert.judge_timer rfl rfl

/-- The stamp requests that an entry into HELD leaves: those of hits (R140). -/
theorem State.unwait_quotes (w : List StampRequest) :
    (w.filter (· ≠ .quote .c0)).filter (· ≠ .quote .c1) = w.filter (· = .hit) := by
  rw [List.filter_filter]
  congr 1
  funext r
  rcases r with _ | c
  · rfl
  · cases c <;> rfl

/-- All that an entry into HELD makes of the state, the read it abandons having been reported. -/
theorem State.enterHeld_eq (s : State) (cause : Cause) :
    s.enterHeld cause =
      { s.abandonRead with
        link := ⟨{ Decoder.after s.link.decoder.out with
          state := if s.link.decoder.state = .idle then .idle else .ignoring }, false, false⟩
        xlat := { s.xlat with inForce := .none }
        storage := { s.abandonRead.storage.withoutUpdate with forward := s.storage.forward.map HostForward.overtaken }
        restart := ⟨.held, Outcome.fresh cause s.active, false, none, 0, .held false⟩
        watch :=
          if s.abandonRead.watch.waiting.any (·.endsHold) then
            { s.abandonRead.watch with registers := Vector.replicate 8 0, altered := 0, holdDeferred := true }
          else WatchHeld s.abandonRead.watch
        intake :=
          { s.intake with
            work := .none, buffer := [], absorbed := [], streamJob := false
            session := if s.intake.session.state = .commitPending then s.intake.session else Session.resting }
        crypto := (((s.crypto.without .intake).without (.ctx .c0)).without (.ctx .c1)).without .intake
        time := { s.abandonRead.time with
          waiting := (s.abandonRead.time.waiting.filter (· ≠ .quote .c0)).filter (· ≠ .quote .c1) }
        creds := Creds.reset
        requests := ⟨⟨Context.reset, Context.reset⟩, none, []⟩
        alert := s.abandonRead.holdAlert.alert
        store :=
          { s.store with
            queue := [], taken := s.store.taken.map fun w => { w with write := { w.write with live := false } } } } := by
  have hforward : s.abandonRead.storage.forward = s.storage.forward := by rw [s.abandonRead_storage]
  unfold State.enterHeld
  simp only [State.holdLink_eq, State.holdSession_eq, State.holdWatch_eq]
  rw [← hforward]
  obtain ⟨x, w, a, c, t, e⟩ := s.abandonRead_touches
  rw [e]
  rfl

/-! ## The read that the entry abandons (R80) -/

theorem State.endRead_alert_silent {s : State} (h : s.abandonRead = s.closeRead ∨ s.abandonRead = s) :
    s.abandonRead.watch = s.watch ∧ s.abandonRead.time = s.time ∧ s.abandonRead.alert = s.alert := by
  obtain ⟨x, e⟩ := s.closeRead_touches
  rcases h with h | h
  · rw [h, e]; exact ⟨rfl, rfl, rfl⟩
  · rw [h]; exact ⟨rfl, rfl, rfl⟩

/-- The report of the read that an entry into HELD abandons (R33, R80). -/
theorem State.enterHeld_reports (s : State) (cause : Cause) : ReportsAbandonedRead s (s.enterHeld cause) := by
  refine ⟨fun h => ?_, ?_⟩
  · have hsilent : s.abandonRead = s.closeRead ∨ s.abandonRead = s := by
      unfold State.abandonRead
      by_cases hr : s.hostReading = true
      · rw [if_pos hr]
        left
        apply State.endRead_silent
        rcases h with h | h | ⟨hw, h⟩
        · simp [hr] at h
        · exact .inl h
        · exact .inr ⟨hw, State.endHits_nil h⟩
      · rw [if_neg hr]
        exact .inr rfl
    obtain ⟨hw, ht, ha⟩ := State.endRead_alert_silent hsilent
    have halert := s.abandonRead.holdAlert_held
    rw [ht, ha] at halert
    rw [s.enterHeld_eq]
    refine ⟨by simp only [ht, State.unwait_quotes], halert, fun hn => ?_⟩
    have hany : s.watch.waiting.any (·.endsHold) = false := by
      rw [List.any_eq_false]
      intro p hp
      have := List.all_eq_true.1 hn p hp
      simpa using this
    simp only [hw, hany, Bool.false_eq_true, if_false]
  · intro w l r pre post hreading htable hdef hwaiting hon hret hin hpre
    have hits := State.endHits_single (b := true) htable hdef hon hret hin hpre
    have hne : s.link.decoder.returned ≠ [] := by rw [hret]; simp
    obtain ⟨x, hclose⟩ := s.closeRead_touches
    generalize hp : (⟨s.link.decoder.start, .read, r, some 0, w.alert, w.degrade, true⟩ : PendingHit) = p at hits ⊢
    have habandon : s.abandonRead = State.takeHits { s with storage := x } [p] := by
      rw [State.abandonRead, if_pos hreading, s.endRead_eq, if_neg hne, hits, hclose]
    have halert := s.abandonRead.holdAlert_held
    rw [s.enterHeld_eq]
    refine ⟨fun y hy => ?_, fun he hnot hcannot => ?_⟩
    · obtain ⟨ht, hw, ha, -, -⟩ := State.takeHits_acts (s := { s with storage := x }) hy (h := p) (.inl hdef)
      rw [← habandon] at ht hw ha
      rw [ht] at halert
      have hstamps : s.time.waiting = [] := hy.1
      refine ⟨?_, ?_, s.abandonRead.alert, ?_, halert⟩
      · simp [ht, hstamps]
      · subst hp
        simp [hw, Watch.add, hwaiting, WatchHeld]
      · subst hp
        simpa [PendingHit.falls] using ha
    · rw [State.takeHits_waits (s := { s with storage := x }) hwaiting he hnot hcannot] at habandon
      rw [habandon] at halert ⊢
      have hquotes : s.time.waiting.filter (· = .hit) = [] := List.filter_eq_nil_iff.2 fun q hq => by
        simp only [decide_eq_true_eq]
        rintro rfl
        exact hnot hq
      refine ⟨?_, halert, ?_⟩
      · rw [State.unwait_quotes]
        simp [State.waitStamp, hquotes]
      · subst hp
        rfl

/-- The storage link at the entry (R19, R39, R41, R45). -/
theorem State.enterHeld_storage (s : State) :
    ({ s.abandonRead.storage.withoutUpdate with forward := s.storage.forward.map HostForward.overtaken } : Storage) =
      { s.storage with
        forward := s.storage.forward.map fun f => { f with ops := f.ops.take (f.completed + 1), reported := false }
        job := s.storage.job.filter fun j => j.user ≠ .update
        readAt := if s.hostReading ∧ s.storage.link = .hostRead then none else s.storage.readAt
        link :=
          if s.hostReading ∧ s.storage.link = .hostRead ∨ s.storage.job.any (fun j => j.user = .update && j.running) then .idle
          else s.storage.link } := by
  rw [s.abandonRead_storage]
  unfold Storage.withoutUpdate
  by_cases hr : s.hostReading = true ∧ s.storage.link = .hostRead
  · simp only [hr, and_self, true_or, if_true, ite_self]
    rfl
  · simp only [hr, false_or]
    rfl

/-- All that an entry into HELD does and keeps (R51, R52). -/
theorem State.enterHeld_entersHeld (s : State) (cause : Cause) : EntersHeld s (s.enterHeld cause) cause := by
  obtain ⟨hmask, hinterval, htimer⟩ := s.abandonRead.holdAlert_settings
  obtain ⟨htick, hwall, -, -, -⟩ := s.abandonRead_hitFrame
  have hfixed : s.abandonRead.flash = s.flash ∧ s.abandonRead.pending = s.pending ∧ s.abandonRead.draws = s.draws := by
    obtain ⟨x, w, a, c, t, e⟩ := s.abandonRead_touches
    rw [e]
    exact ⟨rfl, rfl, rfl⟩
  obtain ⟨hflash, hpending, hdraws⟩ := hfixed
  have hreports := s.enterHeld_reports cause
  rw [s.enterHeld_eq] at hreports ⊢
  refine ⟨⟨rfl, rfl, rfl, rfl, rfl, rfl, rfl⟩, rfl, rfl, s.enterHeld_storage, rfl, rfl, rfl, Crypto.without_all _, rfl, ?_, ?_,
    hmask, hinterval, htimer, htick, hwall, hreports, hflash, hpending, hdraws⟩
  · dsimp only
    split <;> rfl
  · dsimp only
    split <;> rfl

theorem State.enterHeld_pins (s : State) (cause : Cause) : (s.enterHeld cause).pins = s.pins := by
  obtain ⟨x, w, a, c, t, e⟩ := s.abandonRead_touches
  rw [s.enterHeld_eq, e]

/-! ## The triggers (R48 to R50, R66) -/

/-- A read report that an entry into HELD left waiting is served: the table and the trust level go after its actions (R80, R138). -/
theorem State.serveHold {s : State} {h : PendingHit} {x : Stamp} (hfed : s.EngineFed)
    (hw : s.watch.waiting = [h]) (ht : s.time.waiting = [.hit]) (he : s.stampsExhausted = false)
    (hn : s.nextStamp = some x) :
    s.serveAllStamps.startNext =
      State.recordHit
        { s with
          watch := { s.watch with waiting := [] }
          time := { s.time with waiting := [], lastStamp := some x } } h x := by
  generalize hu : ({ s with
    watch := { s.watch with waiting := [] }
    time := { s.time with waiting := [], lastStamp := some x } } : State) = u
  have hwatch : (u.recordHit h x).watch.waiting = [] := by
    rw [State.recordHit, State.hitActions_watch, ← hu]
    split <;> rfl
  have hframe := (u.addHit h x).hitActions_frame h
  have htime : (u.recordHit h x).time.waiting = [] := by
    rw [State.recordHit, congrArg (·.time) hframe, ← hu]
    rfl
  have hfed' : (u.recordHit h x).EngineFed := by
    rw [State.EngineFed, State.recordHit, congrArg (·.crypto) hframe, ← hu]
    exact hfed
  have hserve : State.serveHit { s with watch := { s.watch with waiting := [] }, time := { s.time with waiting := [] } } h x =
      u.recordHit h x := by
    rw [← hu]
    rfl
  have hall : s.serveAllStamps = u.recordHit h x := by
    simp only [State.serveAllStamps, ht, hw, List.length_singleton, Nat.reduceAdd, State.serveStamps, he, hn,
      Bool.false_eq_true, if_false, hserve, hwatch, htime, List.length_nil, State.pumpHits]
  rw [hall, State.startNext_fed hfed']

/-- Settles O4: each trigger is the entry into HELD, of which `State.enterHeld_entersHeld` says everything; a read report that waits
for its stamp is served by `State.serveHold`. -/
theorem platformRestartEntersHeld : Obligations.PlatformRestartEntersHeld := by
  refine ⟨fun s => ⟨fun h => ?_, fun h hp => ?_, rfl⟩, fun s hrun hrel hreq => ?_, fun s d hrun hrel hd hdue => ?_,
    fun c tag s hr hrel => ?_, fun s h x hrun hfed hdef hends hw ht he hn => ?_⟩
  · show execRestartLine s = _
    simp [execRestartLine, h]
  · show execRestartLine s = _
    simp [execRestartLine, h, State.trigger, hp]
  · refine ⟨State.enterHeld { s with pins := { s.pins with rstReq := true } } .restartLine, ?_,
      State.enterHeld_entersHeld _ _, State.enterHeld_pins _ _⟩
    show execRestartLine s = _
    rw [execRestartLine, if_neg (by simp [hreq])]
    dsimp only
    rw [if_pos hrun, State.trigger, if_pos hrel]
  · refine ⟨s.enterHeld .trialExpiry, ?_, s.enterHeld_entersHeld _, s.enterHeld_pins _⟩
    show execTrialExpiry s = _
    rw [execTrialExpiry, whenRunning_eq hrun]
    simp [hrel, hd, due, hdue]
  · refine ⟨s.enterHeld .restartRequest, ?_, s.enterHeld_entersHeld _, s.enterHeld_pins _⟩
    show execRestart c s = _
    rw [execRestart, hr.exec_eq]
    simp [State.whenEmpty, hrel]
  · have hexec : exec .stampWaitServe s = .next s.serveAllStamps.startNext :=
      whenRunning_eq hrun fun s => s.serveAllStamps.startNext
    rw [State.serveHold hfed hw ht he hn, State.recordHit] at hexec
    generalize hu : State.addHit ({ s with
      watch := { s.watch with waiting := [] }
      time := { s.time with waiting := [], lastStamp := some x } } : State) h x = u at hexec
    have hframe := u.hitActions_frame h
    have hwatch := u.hitActions_watch h
    have hcreds := u.hitActions_creds h
    have halert := u.hitActions_alert h
    have hdef' : u.watch.holdDeferred = true := by rw [← hu]; exact hdef
    rw [if_pos ⟨hends, hdef'⟩] at hwatch
    refine ⟨_, hexec, ?_, ?_, ?_, fun hres => ?_, ?_⟩
    · rw [congrArg (·.time) hframe, ← hu]
      rfl
    · rw [hwatch, ← hu]
      rfl
    · rw [← hu] at halert ⊢
      simpa [PendingHit.falls, State.addHit, Watch.add] using halert
    · have hcreds' : u.creds = s.creds := by rw [← hu]; rfl
      rw [hcreds, hcreds', Creds.onFall_none hres, ite_self]
    · have hback := congrArg (fun t : State => { t with time := s.time, watch := s.watch }) hframe
      rw [← hu] at hback ⊢
      exact hback

end Sys2Proof.Machine
end

section
/-! # Every step keeps the region tables valid

`State.TablesValid` speaks of the store, of the intake's work and verified manifest, and of the table in force. Each operation that
touches one of these has its rule here, in the order of the model; the others keep the invariant by computation. -/

namespace Sys2Proof.Machine

open Sys2Proof

namespace State.TablesValid

variable {s : State}

theorem ite {p : Prop} [Decidable p] {a b : State} (ha : a.TablesValid) (hb : b.TablesValid) :
    (if p then a else b).TablesValid := by
  split
  · exact ha
  · exact hb

/-! ## The retained store -/

theorem enqueueWrite (h : s.TablesValid) (r : Requester) {k : WriteKind} (hk : k.tablesOk) : (s.enqueueWrite r k).TablesValid := by
  obtain ⟨hw, hn, ht, hq, hrest⟩ := h
  refine ⟨hw, hn, ht, fun w hmem => ?_, hrest⟩
  rcases List.mem_append.1 hmem with hmem | hmem
  · exact hq w hmem
  · rw [List.mem_singleton.1 hmem]
    exact hk

theorem requestWrite (h : s.TablesValid) (c : Ctx) {k : WriteKind} (hk : k.tablesOk) : (s.requestWrite c k).TablesValid :=
  h.enqueueWrite (.ctx c) hk

theorem discardWrites (h : s.TablesValid) (c : Ctx) : (s.discardWrites c).TablesValid := by
  obtain ⟨hw, hn, ht, hq, hrest⟩ := h
  refine ⟨hw, hn, fun w hmem => ?_, fun w hmem => ?_, hrest⟩
  · obtain ⟨v, hv, rfl⟩ := Option.map_eq_some_iff.1 hmem
    have := ht v hv
    split <;> exact this
  · obtain ⟨v, hv, e⟩ := List.mem_filterMap.1 hmem
    have hok := hq v hv
    split at e
    · split at e
      · cases e; exact hok
      · cases e
    · cases e; exact hok

end State.TablesValid

/-- Putting credential records in place touches nothing else (R155). -/
theorem Retained.putCreds_frame (r : Retained) (rs : List (Fin 32 × Option CredContent)) :
    { r.putCreds rs with creds := r.creds, failCounts := r.failCounts } = r := by
  induction rs generalizing r with
  | nil => rfl
  | cons x rs ih =>
    obtain ⟨i, y⟩ := x
    exact congrArg (fun t : Retained => { t with creds := r.creds, failCounts := r.failCounts })
      (ih { r with creds := r.creds.set i ⟨y, satInc 0xFFFFFFFF r.creds[i].version⟩, failCounts := r.failCounts.set i 0 })

theorem Retained.tablesOk_set {r : Retained} (h : r.tablesOk) (k : Slot) {o : Option Table}
    (ho : ∀ t, o = some t → t.valid = true) : { r with tables := r.tables.set k o }.tablesOk := by
  obtain ⟨ha, hb⟩ := h
  cases k
  · exact ⟨ho, hb⟩
  · exact ⟨ha, ho⟩

theorem Retained.tablesOk_get {r : Retained} (h : r.tablesOk) {k : Slot} {t : Table} (ht : r.tables.get k = some t) :
    t.valid = true := by
  obtain ⟨ha, hb⟩ := h
  cases k
  · exact ha t ht
  · exact hb t ht

/-- A write's values hold valid tables where the records before it and the write itself do. -/
theorem WriteKind.values_tablesOk {k : WriteKind} {r : Retained} (hr : r.tablesOk) (hk : k.tablesOk) : (k.values r).tablesOk := by
  cases k with
  | commit m table restart =>
    obtain ⟨hm, ht⟩ := hk
    refine Retained.tablesOk_set (r := r) hr r.selector.other fun t e => ?_
    rcases Option.or_eq_some_iff.1 e with e | ⟨-, e⟩
    · exact hm t e
    · exact ht t e
  | loadTable u => exact ⟨fun t e => by cases e; exact hk, fun t e => by cases e; exact hk⟩
  | credGroup rs =>
    have htables : (r.putCreds rs).tables = r.tables := congrArg (·.tables) (r.putCreds_frame rs)
    unfold Retained.tablesOk at *
    rwa [← htables] at hr
  | _ => exact hr

namespace State.TablesValid

variable {s : State}

theorem startWrite (h : s.TablesValid) {w : Write} (hk : w.kind.tablesOk) : (s.startWrite w).TablesValid := by
  obtain ⟨hw, hn, -, hq, hrest⟩ := h
  refine ⟨hw, hn, fun v e => ?_, hq, hrest⟩
  cases e
  exact WriteKind.values_tablesOk hw hk

theorem complete (h : s.TablesValid) {w : TakenWrite} (hw : s.store.taken = some w) :
    State.TablesValid { s with store := { s.store with working := w.values, nonvolatile := w.values, taken := none } } := by
  obtain ⟨-, -, ht, hq, hrest⟩ := h
  exact ⟨ht w hw, ht w hw, (fun v (e : none = some v) => nomatch e), hq, hrest⟩

theorem cold (h : s.TablesValid) (pins : Pins) (flash : Flash) : (s.cold pins flash).TablesValid := by
  obtain ⟨-, hn, -⟩ := h
  refine ⟨hn, hn, (fun w (e : none = some w) => nomatch e), (fun w (e : w ∈ []) => nomatch e), trivial, fun m e => ?_,
    (fun k t (e : InForce.none = .table k t) => nomatch e)⟩
  unfold State.cold State.volatileReset at e
  dsimp only at e
  split at e <;> exact nomatch (e : none = some m)

theorem startPowerClass (h : s.TablesValid) (cause : Cause) (hcs : Bool) : (s.startPowerClass cause hcs).TablesValid := by
  obtain ⟨hw, hn, ht, -, hrest⟩ := h
  refine ⟨hw, hn, ht, fun w e => ?_, hrest⟩
  rw [List.mem_singleton.1 e]
  trivial

/-! ## The translation unit -/

theorem setXlat (h : s.TablesValid) {x : Translation} (hx : ∀ k t, x.inForce = .table k t → t.valid = true) :
    State.TablesValid { s with xlat := x } := by
  obtain ⟨hw, hn, ht, hq, hi, hm, -⟩ := h
  exact ⟨hw, hn, ht, hq, hi, hm, hx⟩

theorem releaseTable (h : s.TablesValid) (k : Slot) (t : Table) (e : s.releaseTable = .table k t) : t.valid = true := by
  obtain ⟨hw, -⟩ := h
  unfold State.releaseTable at e
  split at e
  · rename_i u hu
    cases e
    exact Retained.tablesOk_get hw hu
  · split at e <;> cases e

theorem finishRelease (h : s.TablesValid) (trust : Trust) : (s.finishRelease trust).TablesValid :=
  h.setXlat (x := ⟨s.releaseTable, false⟩) h.releaseTable

theorem forceLoaded (h : s.TablesValid) : s.forceLoaded.TablesValid :=
  h.setXlat (x := ⟨s.releaseTable, false⟩) h.releaseTable

theorem tableInForce (h : s.TablesValid) (t : Table) (e : s.tableInForce = some t) : t.valid = true := by
  obtain ⟨-, -, -, -, -, -, hx⟩ := h
  unfold State.tableInForce at e
  split at e
  · rename_i k u hu
    cases e
    exact hx k t hu
  · cases e

/-! ## The update intake -/

theorem setIntakeWork (h : s.TablesValid) {w : IntakeWork} (hw : w.tablesOk) : (s.setIntakeWork w).TablesValid := by
  obtain ⟨h1, h2, h3, h4, -, h6, h7⟩ := h
  exact ⟨h1, h2, h3, h4, hw, h6, h7⟩

theorem setSession (h : s.TablesValid) {x : Session} (hx : ∀ m, x.manifest = some m → ∀ t, m.table = some t → t.valid = true) :
    (s.setSession x).TablesValid := by
  obtain ⟨h1, h2, h3, h4, h5, -, h7⟩ := h
  exact ⟨h1, h2, h3, h4, h5, hx, h7⟩

/-- A session record whose verified manifest is the one held. -/
theorem sameManifest (h : s.TablesValid) {x : Session} (hx : x.manifest = s.intake.session.manifest) :
    (s.setSession x).TablesValid :=
  h.setSession (by rw [hx]; exact h.2.2.2.2.2.1)

/-- A session record without a verified manifest. -/
theorem noManifest (h : s.TablesValid) {x : Session} (hx : x.manifest = none) : (s.setSession x).TablesValid :=
  h.setSession fun m e => by rw [hx] at e; cases e

theorem enqueueJob (h : s.TablesValid) (r : Requester) (k : JobKind) : (s.enqueueJob r k).TablesValid := by
  obtain ⟨_, e⟩ := s.enqueueJob_touches r k
  rw [e]
  exact h

theorem startNext (h : s.TablesValid) : s.startNext.TablesValid := by
  obtain ⟨_, _, e⟩ := s.startNext_touches
  rw [e]
  exact h

theorem cancelRead (h : s.TablesValid) (u : JobUser) : (s.cancelRead u).TablesValid := by
  obtain ⟨_, e⟩ := s.cancelRead_touches u
  rw [e]
  exact h

theorem dropIntakeWork (h : s.TablesValid) : s.dropIntakeWork.TablesValid :=
  State.TablesValid.setIntakeWork (h.cancelRead .update) trivial

theorem restSession (h : s.TablesValid) : s.restSession.TablesValid := h.dropIntakeWork.noManifest rfl

theorem failSession (h : s.TablesValid) (reason : FailReason) (detail : Nat) : (s.failSession reason detail).TablesValid :=
  h.dropIntakeWork.sameManifest rfl

theorem kickStream (h : s.TablesValid) : s.kickStream.TablesValid := by
  unfold State.kickStream
  split
  · obtain ⟨_, e⟩ := s.enqueueJob_touches .intake (.digest s.intake.absorbed s.intake.buffer false)
    rw [e]
    exact h
  · exact h

theorem breakStream (h : s.TablesValid) (off : Nat) : (s.breakStream off).TablesValid := by
  unfold State.breakStream
  dsimp only
  split <;> exact h

theorem streamRun (h : s.TablesValid) (run : Nat × List Byte) : (s.streamRun run).TablesValid := by
  unfold State.streamRun
  dsimp only
  split
  · exact h
  · split
    · exact State.TablesValid.kickStream h
    · split
      · exact h
      · exact (h.breakStream run.1).sameManifest rfl

theorem stagingComplete (h : s.TablesValid) (r : StagingReport) : (s.stagingComplete r).TablesValid := by
  have runs (l : List (Nat × List Byte)) {u : State} (hu : u.TablesValid) : (l.foldl State.streamRun u).TablesValid := by
    induction l generalizing u with
    | nil => exact hu
    | cons x l ih => exact ih (hu.streamRun x)
  unfold State.stagingComplete
  split
  · exact h
  · cases r with
    | erase sectors =>
      dsimp only
      split
      · exact h.breakStream _
      · exact h
    | program l => exact runs l h

theorem pipeRead (h : s.TablesValid) (u : JobUser) (base : Nat) (p : Pipe) : (s.pipeRead u base p).1.TablesValid := by
  unfold State.pipeRead
  split <;> exact h

theorem pipeDigest (h : s.TablesValid) (r : Requester) (u : JobUser) (base : Nat) (p : Pipe) (block : List Byte) :
    (s.pipeDigest r u base p block).1.TablesValid := (h.enqueueJob r _).pipeRead u base _

theorem pipeBlock (h : s.TablesValid) (r : Requester) (u : JobUser) (base : Nat) (p : Pipe) (block : List Byte) :
    (s.pipeBlock r u base p block).1.TablesValid := by
  unfold State.pipeBlock
  split
  · exact h
  · exact h.pipeDigest r u base p block

theorem pipeAbsorbed (h : s.TablesValid) (r : Requester) (u : JobUser) (base : Nat) (p : Pipe) (bytes : List Byte) :
    (s.pipeAbsorbed r u base p bytes).1.TablesValid := by
  unfold State.pipeAbsorbed
  dsimp only
  split
  · exact h.pipeDigest r u base _ _
  · exact h

theorem checkManifest (h : s.TablesValid) (block : List Byte) (md : Digest) : (s.checkManifest block md).TablesValid := by
  unfold State.checkManifest
  split
  · exact h.failSession _ _
  · split
    · exact h.failSession _ _
    · exact (h.enqueueJob _ _).setIntakeWork trivial

/-- A manifest that passes check 5 carries a valid table or none (R100). -/
theorem checkStaged {m : Manifest} (e : s.checkStaged m = none) (t : Table) (ht : m.table = some t) : t.valid = true := by
  have hcarried : s.checkCarried m = none := by
    unfold State.checkStaged at e
    split at e
    · cases e
    · split at e
      · cases e
      · assumption
  unfold State.checkCarried at hcarried
  rw [ht] at hcarried
  dsimp only at hcarried
  split at hcarried
  · cases hcarried
  · rename_i hvalid
    simp [Table.valid, hvalid]

theorem setPath (h : s.TablesValid) (p : DigestPath) : (s.setSession { s.intake.session with path := p }).TablesValid :=
  h.sameManifest rfl

theorem choosePath (h : s.TablesValid) {m : Manifest} (hm : ∀ t, m.table = some t → t.valid = true) (md : Digest) :
    (s.choosePath m md).TablesValid := by
  unfold State.choosePath
  dsimp only
  split
  · exact ((h.setPath .stream).enqueueJob .intake _).setIntakeWork (w := .finishStream m md) hm
  · exact ((h.setPath .readBack).pipeRead _ _ _).setIntakeWork (w := .readBack m md _) hm

theorem checkSignature (h : s.TablesValid) (m : Manifest) (md : Digest) (ok : Bool) : (s.checkSignature m md ok).TablesValid := by
  unfold State.checkSignature
  split
  · exact h.failSession _ _
  · split
    · exact h.failSession _ _
    · rename_i e
      exact h.choosePath (checkStaged e) md

theorem checkImage (h : s.TablesValid) {m : Manifest} (hm : ∀ t, m.table = some t → t.valid = true) (md d : Digest) :
    (s.checkImage m md d).TablesValid := by
  unfold State.checkImage
  split
  · exact h.failSession _ _
  · split
    · exact h.failSession _ _
    · refine State.TablesValid.setSession (h.setIntakeWork (w := .none) trivial) fun v e => ?_
      cases e
      exact hm

theorem tryManifestDigest (h : s.TablesValid) : s.tryManifestDigest.TablesValid := by
  unfold State.tryManifestDigest
  split
  · split
    · exact (h.enqueueJob _ _).setIntakeWork trivial
    · exact h
  · exact h

theorem setProgress (h : s.TablesValid) (n : Nat) : (s.setProgress n).TablesValid := h.sameManifest rfl

theorem intakeBlock (h : s.TablesValid) (block : List Byte) : (s.intakeBlock block).TablesValid := by
  have hwork := h.2.2.2.2.1
  unfold State.intakeBlock
  split
  · exact (h.setIntakeWork (w := .flush block) trivial).tryManifestDigest
  · rename_i m md p e
    rw [e] at hwork
    exact (h.pipeBlock _ _ _ _ _).setIntakeWork (w := .readBack m md _) hwork
  · exact h

theorem intakeJob (h : s.TablesValid) (result : JobResult) : (s.intakeJob result).TablesValid := by
  have hwork := h.2.2.2.2.1
  unfold State.intakeJob
  split
  · split
    · refine State.TablesValid.tryManifestDigest (State.TablesValid.kickStream ?_)
      exact h
    · exact h
  · split
    · exact h.checkManifest _ _
    · exact h.checkSignature _ _ _
    · rename_i e
      rw [e] at hwork
      exact h.checkImage hwork _ _
    · rename_i m md p bytes e
      rw [e] at hwork
      exact ((h.setProgress bytes.length).pipeAbsorbed _ _ _ _ _).setIntakeWork (w := .readBack m md _) hwork
    · rename_i m md p d e
      rw [e] at hwork
      exact (h.setProgress m.length).checkImage hwork _ _
    · exact h

/-! ## The restart controller -/

theorem enterHeld (h : s.TablesValid) (cause : Cause) : (s.enterHeld cause).TablesValid := by
  obtain ⟨hw, hn, ht, -, -, hm, -⟩ := h
  rw [s.enterHeld_eq]
  refine ⟨hw, hn, fun w e => ?_, (fun w (e : w ∈ []) => nomatch e), trivial, fun m e => ?_,
    (fun k t (e : InForce.none = .table k t) => nomatch e)⟩
  · obtain ⟨v, hv, rfl⟩ := Option.map_eq_some_iff.1 e
    exact ht v hv
  · dsimp only at e
    split at e
    · exact hm m e
    · exact nomatch (e : none = some m)

theorem trigger (h : s.TablesValid) (cause : Cause) : (s.trigger cause).TablesValid := ite (h.enterHeld cause) h

theorem releaseJob (h : s.TablesValid) (stage : ReleaseStage) (trust : Trust) (d : Digest) :
    (s.releaseJob stage trust d).TablesValid := by
  cases stage with
  | extend0 => exact State.TablesValid.enqueueJob (s := s.setRegister 0 d) h _ _
  | tableDigest => exact h.enqueueJob _ _
  | extend1 => exact State.TablesValid.enqueueJob (s := s.setRegister 1 d) h _ _
  | outcomeDigest => exact h.enqueueJob _ _
  | extend2 => exact ite (a := (s.setRegister 2 d).setRestartWork _) h (State.TablesValid.finishRelease (s := s.setRegister 2 d) h trust)
  | force => exact h

theorem beginRelease (h : s.TablesValid) (trust : Trust) (halt : HaltReason) : (s.beginRelease trust halt).TablesValid :=
  State.TablesValid.enqueueJob (s := s.completeOutcome trust halt) h _ _

theorem tryHaltFlash (h : s.TablesValid) : s.tryHaltFlash.TablesValid := by
  unfold State.tryHaltFlash
  split
  · exact ite h h
  · exact h

theorem rejectSlot (h : s.TablesValid) (v : Verify) (md : Digest) (reason : SlotResult) :
    (s.rejectSlot v md reason).TablesValid :=
  State.TablesValid.enqueueWrite (s := (s.cancelRead .restart).setResult v.slot reason) (h.cancelRead .restart) _ trivial

theorem passSlot (h : s.TablesValid) (v : Verify) (m : Manifest) (md : Digest) : (s.passSlot v m md).TablesValid :=
  State.TablesValid.enqueueWrite (s := s.setResult v.slot .pass) h _ trivial

theorem verifyManifest (h : s.TablesValid) (v : Verify) (block : List Byte) (md : Digest) :
    (s.verifyManifest v block md).TablesValid := by
  unfold State.verifyManifest
  split
  · exact h.rejectSlot _ _ _
  · split
    · exact h.rejectSlot _ _ _
    · dsimp only
      refine State.TablesValid.enqueueJob ?_ _ _
      split
      · exact h.pipeRead _ _ _
      · exact h

theorem verifySignature (h : s.TablesValid) (v : Verify) (m : Manifest) (md : Digest) (p : Pipe) (ok : Bool) :
    (s.verifySignature v m md p ok).TablesValid := by
  unfold State.verifySignature
  split
  · exact h.rejectSlot _ _ _
  · split
    · exact h.rejectSlot _ _ _
    · split
      · exact h.pipeDigest _ _ _ _ _
      · exact h

theorem verifyImage (h : s.TablesValid) (v : Verify) (m : Manifest) (md d : Digest) : (s.verifyImage v m md d).TablesValid :=
  ite (h.rejectSlot _ _ _) (ite (h.rejectSlot _ _ _) (h.passSlot _ _ _))

theorem restartBlock (h : s.TablesValid) (block : List Byte) : (s.restartBlock block).TablesValid := by
  unfold State.restartBlock
  split
  · exact h.enqueueJob _ _
  · exact h
  · exact h.pipeBlock _ _ _ _ _
  · exact h

theorem restartJob (h : s.TablesValid) (result : JobResult) : (s.restartJob result).TablesValid := by
  unfold State.restartJob
  split
  · exact h.verifyManifest _ _ _
  · exact h.verifySignature _ _ _ _ _
  · exact h.pipeAbsorbed _ _ _ _ _
  · exact h.verifyImage _ _ _ _
  · exact h.releaseJob _ _ _
  · exact h

theorem selectSlot (h : s.TablesValid) : s.selectSlot.TablesValid := by
  unfold State.selectSlot
  split
  · exact h.enqueueWrite _ trivial
  · split
    · exact ite (h.enqueueWrite _ trivial) (h.enqueueWrite _ trivial)
    · exact h

theorem afterReject (h : s.TablesValid) (v : Verify) : (s.afterReject v).TablesValid := by
  unfold State.afterReject State.noSlot
  split
  · exact h
  · exact ite h (h.beginRelease _ _)

theorem afterPass (h : s.TablesValid) (v : Verify) : (s.afterPass v).TablesValid := by
  unfold State.afterPass
  split
  · exact State.TablesValid.beginRelease (s := s.setOutcome { s.restart.outcome with fallback := true }) h _ _
  · exact h.beginRelease _ _

theorem reconcileSession (h : s.TablesValid) : s.reconcileSession.TablesValid := by
  unfold State.reconcileSession
  split
  · exact ite h (h.noManifest rfl)
  · exact h.noManifest rfl

/-! ## The request assembler and the upstream link -/

theorem discardRequest (h : s.TablesValid) (c : Ctx) : (s.discardRequest c).TablesValid := by
  have hopen : (s.discardOpen c).TablesValid := by
    unfold State.discardOpen
    dsimp only
    split
    · exact h
    · exact ite h h
  have hclaim : ((s.discardOpen c).discardClaim c).TablesValid := by
    unfold State.discardClaim State.dropClaim
    exact ite hopen (ite hopen hopen)
  exact hclaim.discardWrites c

theorem placed (h : s.TablesValid) (c : Ctx) (buffer : List Byte) : (s.placed c buffer).TablesValid := by
  obtain ⟨_, _, e⟩ := s.placed_touches c buffer
  rw [e]
  exact h

theorem deliver (h : s.TablesValid) {page off : Nat} {bytes : List Byte} {t : State} (e : s.deliver page off bytes = some t) :
    t.TablesValid := by
  unfold State.deliver at e
  dsimp only at e
  split at e
  · cases e
  · split at e
    · split at e
      · cases e
        exact h.discardRequest _
      · cases e
    · split at e <;> cases e
      · exact h.placed _ _
      · exact h
    · split at e
      · cases e
        exact h.placed _ _
      · split at e <;> cases e
        · exact h.placed _ _
        · exact h

theorem deliverAll (h : s.TablesValid) (page base : Nat) (runs : List (Nat × List Byte)) :
    (s.deliverAll page base runs).1.TablesValid := by
  induction runs generalizing s with
  | nil => exact h
  | cons run runs ih =>
    unfold State.deliverAll
    split
    · exact ih h
    · rename_i e
      exact ih (h.deliver e)

theorem deliverProgram (h : s.TablesValid) (page base : Nat) (runs : List (Nat × List Byte)) :
    (s.deliverProgram page base runs).1.TablesValid := by
  have hall := h.deliverAll page base runs
  obtain ⟨_, _, e⟩ := (s.deliverAll page base runs).1.answerUnlisted_touches (pageCtx page)
  unfold State.deliverProgram
  refine ite hall ?_
  rw [e]
  exact hall

theorem refuse (h : s.TablesValid) (start : Nat) (kind : AccessKind) (region : Option Nat) :
    (s.refuse start kind region).TablesValid := by
  obtain ⟨_, _, _, _, _, e⟩ := s.refuse_touches start kind region
  rw [e]
  exact h

theorem performProgram (h : s.TablesValid) (start n : Nat) (bytes : List Byte) : (s.performProgram start n bytes).TablesValid := by
  unfold State.performProgram
  dsimp only
  split
  · have hout := State.TablesValid.deliverProgram (s := s.clearWel) h
    exact ite ((hout _ _ _).refuse _ _ _) (hout _ _ _)
  · split <;> exact h
  · refine State.TablesValid.refuse ?_ _ _ _
    unfold State.countRefused
    exact ite h h

theorem forwardErase (h : s.TablesValid) (start : Nat) (ops : List FlashOp) (rs : List (Nat × Record)) :
    (s.forwardErase start ops rs).TablesValid := ite h h

theorem performSectorErase (h : s.TablesValid) (start : Nat) : (s.performSectorErase start).TablesValid := by
  unfold State.performSectorErase
  dsimp only
  split
  · obtain ⟨_, _, e⟩ := s.clearWel.eraseAperture_touches _
    rw [e]
    exact h
  · exact State.TablesValid.forwardErase (s := s.clearWel) h _ _ _
  · exact State.TablesValid.refuse (s := s.clearWel) h _ _ _

theorem performBlockErase (h : s.TablesValid) (start : Nat) : (s.performBlockErase start).TablesValid := by
  unfold State.performBlockErase
  dsimp only
  split
  · exact State.TablesValid.refuse (s := s.clearWel) h _ _ _
  · exact State.TablesValid.forwardErase (s := s.clearWel) h _ _ _

theorem endRead (h : s.TablesValid) (b : Bool) : (s.endRead b).TablesValid := by
  obtain ⟨_, _, _, _, _, e⟩ := s.endRead_touches b
  rw [e]
  exact h

theorem perform (h : s.TablesValid) (cmd : LinkCmd) (stray : Nat) : (s.perform cmd stray).TablesValid := by
  cases cmd with
  | read => exact h.endRead false
  | fastRead => exact h.endRead false
  | quadRead => exact h.endRead false
  | writeEnable => exact ite h h
  | writeDisable => exact ite h h
  | chipErase => exact ite (State.TablesValid.refuse (s := s.clearWel) h _ _ _) h
  | sectorErase => exact ite (h.performSectorErase _) h
  | blockErase => exact ite (h.performBlockErase _) h
  | pageProgram => exact ite (h.performProgram _ _ _) h
  | _ => exact h

theorem clockAll (h : s.TablesValid) (cmd : LinkCmd) (bytes : List Byte) : (s.clockAll cmd bytes).TablesValid := by
  obtain ⟨_, _, _, e⟩ := State.clockAll_touches cmd bytes s
  rw [e]
  exact h

theorem select (h : s.TablesValid) : s.select.TablesValid := ite h h

theorem takeCommand (h : s.TablesValid) (cmd : LinkCmd) : (s.takeCommand cmd).TablesValid := ite h h

theorem linkStep (h : s.TablesValid) (cmd : LinkCmd) (step : LinkStep) : (s.linkStep cmd step).TablesValid := by
  cases step with
  | select => exact h.select
  | command => exact h.takeCommand cmd
  | clock bytes => exact ite (h.clockAll cmd bytes) h
  | release stray => exact ite (h.perform cmd stray) h
  | transaction bytes stray => exact ite (((h.select.takeCommand cmd).clockAll cmd bytes).perform cmd stray) h

/-! ## The retained store's steps -/

theorem serveAllStamps (h : s.TablesValid) : s.serveAllStamps.TablesValid := by
  obtain ⟨_, _, _, _, _, _, _, e⟩ := s.serveAllStamps_touches
  rw [e]
  exact h

theorem compareCheck (h : s.TablesValid) (c : Ctx) (slot : Fin 32) : (s.compareCheck c slot).1.TablesValid := by
  unfold State.compareCheck
  split
  · exact h
  · split <;> exact h

theorem submitCompare (h : s.TablesValid) (c : Ctx) (slot : Fin 32) : (s.submitCompare c slot).TablesValid := h.enqueueJob _ _

theorem tryCompare (h : s.TablesValid) (c : Ctx) (slot : Fin 32) : (s.tryCompare c slot).TablesValid :=
  ite ((h.compareCheck c slot).submitCompare c slot) (h.compareCheck c slot)

theorem decideWrite (h : s.TablesValid) {w : Write} (hk : w.kind.tablesOk) : (s.decideWrite w).TablesValid := by
  unfold State.decideWrite
  split
  · exact ite (h.startWrite hk) (ite (h.tryCompare _ _) h)
  · split
    · exact h.startWrite hk
    · exact ite h h
  · exact h.startWrite hk

theorem answerWrite (h : s.TablesValid) (w : Write) (st : Status) (detail : Nat) (body : List Byte) :
    (s.answerWrite w st detail body).TablesValid := by
  unfold State.answerWrite
  split
  · exact ite h h
  · exact h

theorem dropClaim (h : s.TablesValid) (c : Ctx) : (s.dropClaim c).TablesValid := ite h h

theorem dropWriteClaim (h : s.TablesValid) (w : Write) : (s.dropWriteClaim w).TablesValid := by
  unfold State.dropWriteClaim
  split
  · exact h.dropClaim _
  · exact h

theorem loadDone (h : s.TablesValid) (w : Write) : (s.loadDone w).TablesValid := by
  unfold State.loadDone
  split
  · exact State.TablesValid.dropWriteClaim
      (State.TablesValid.answerWrite (s := { s with xlat := { s.xlat with loadWaits := s.xlat.loadWaits || s.forwarding } }) h
        _ _ _ _) w
  · split
    · dsimp only
      split
      · exact ite h (State.TablesValid.dropClaim (s := { s with xlat := { s.xlat with loadWaits := true } }) h _)
      · exact h
    · exact (h.forceLoaded.answerWrite _ _ _ _).dropWriteClaim _

theorem openDone (h : s.TablesValid) (w : Write) (n : Nat) : (s.openDone w n).TablesValid := by
  unfold State.openDone
  split
  · refine State.TablesValid.answerWrite ?_ _ _ _ _
    obtain ⟨h1, h2, h3, h4, -, -, h7⟩ := h
    exact ⟨h1, h2, h3, h4, trivial, (fun m (e : none = some m) => nomatch e), h7⟩
  · exact h.answerWrite _ _ _ _

theorem confirmDone (h : s.TablesValid) (w : Write) : (s.confirmDone w).TablesValid := by
  unfold State.confirmDone
  refine answerWrite ?_ _ _ _ _
  dsimp only
  split <;> exact h

theorem mismatchDone (h : s.TablesValid) (w : Write) (slot : Fin 32) : (s.mismatchDone w slot).TablesValid := by
  unfold State.mismatchDone
  refine answerWrite ?_ _ _ _ _
  dsimp only
  split <;> exact h

theorem credGroupDone (h : s.TablesValid) (w : Write) (rs : List (Fin 32 × Option CredContent)) :
    (s.credGroupDone w rs).TablesValid := by
  unfold State.credGroupDone
  dsimp only
  split
  · exact h
  · refine answerWrite ?_ _ _ _ _
    exact h

theorem recordDone (h : s.TablesValid) (passed : Bool) : (s.recordDone passed).TablesValid := by
  unfold State.recordDone
  split
  · exact ite (h.afterPass _) (h.afterReject _)
  · exact h

theorem writeDone (h : s.TablesValid) (w : Write) : (s.writeDone w).TablesValid := by
  unfold State.writeDone
  split
  · exact (State.TablesValid.serveAllStamps (s := { s with time := { s.time with bootCounted := true } }) h).tryHaltFlash
  · exact State.TablesValid.noManifest (s := s.setOutcome _) h rfl
  · exact h
  · exact h
  · exact h.recordDone _
  · exact h.recordDone _
  · exact h.openDone _ _
  · exact ite ((h.answerWrite _ _ _ _).trigger _) (h.answerWrite _ _ _ _)
  · exact h.answerWrite _ _ _ _
  · exact h.confirmDone _
  · exact h.loadDone _
  · exact (h.answerWrite _ _ _ _).dropWriteClaim _
  · exact (h.answerWrite _ _ _ _).dropWriteClaim _
  · exact (h.answerWrite _ _ _ _).dropWriteClaim _
  · exact (h.answerWrite _ _ _ _).trigger _
  · exact h.answerWrite _ _ _ _
  · exact h.mismatchDone _ _
  · exact h.credGroupDone _ _
  · refine answerWrite ?_ _ _ _ _
    exact h

theorem finishReset (h : s.TablesValid) (c : Ctx) : (s.finishReset c).TablesValid := ite h h

/-! ## The crypto engine and the storage link -/

theorem queueGroup (h : s.TablesValid) (c : Ctx) (rs : List (Fin 32 × Option CredContent)) (again : Bool) :
    (s.queueGroup c rs again).TablesValid := by
  unfold State.queueGroup
  split
  · unfold State.condRefuse
    split <;> exact h
  · exact h.requestWrite c (k := .credGroup rs) trivial

theorem prepare (h : s.TablesValid) (c : Ctx) (done : List (Fin 32 × Option CredContent)) (again : Bool) (rs : List NewCred) :
    (s.prepare c done again rs).TablesValid := by
  induction rs generalizing done with
  | nil => exact h.queueGroup c done again
  | cons n rs ih =>
    unfold State.prepare
    split
    · exact State.TablesValid.enqueueJob (s := { s with draws := s.draws + 1 }) h _ _
    · exact ih _

theorem compareDone (h : s.TablesValid) (c : Ctx) (slot : Fin 32) (version : Nat) (matched : Bool) :
    (s.compareDone c slot version matched).TablesValid := by
  unfold State.compareDone State.compareStands
  refine ite (h.compareCheck c slot) (ite (h.submitCompare c slot) (ite (ite h ?_) ?_))
  · exact h.requestWrite c (k := .resetFails slot) trivial
  · exact h.requestWrite c (k := .mismatch slot version) trivial

theorem ctxJob (h : s.TablesValid) (c : Ctx) (result : JobResult) : (s.ctxJob c result).TablesValid := by
  unfold State.ctxJob
  generalize s.work? c = w
  rcases w with _ | w
  · exact h
  · cases w with
    | extending n =>
      cases result with
      | digest d => exact ite h h
      | _ => exact h
    | deriving_ =>
      cases result with
      | digest d => exact ite h h
      | _ => exact h
    | comparing slot version =>
      cases result with
      | matched ok => exact h.compareDone _ _ _ _
      | _ => exact h
    | preparing done n salt rest =>
      cases result with
      | digest d => exact h.prepare _ _ _ _
      | _ => exact h
    | quoting =>
      cases result with
      | signature sig => dsimp only; split <;> exact h
      | _ => exact h
    | _ => exact h

theorem handResult (h : s.TablesValid) (j : RunningJob) : (s.handResult j).TablesValid := by
  unfold State.handResult
  split
  · exact h
  · split
    · exact h.restartJob _
    · exact h.intakeJob _
    · exact h.ctxJob _ _

theorem jobEnd (h : s.TablesValid) (j : RunningJob) :
    (if j.job.requester = .intake then
      ((State.handResult { s with crypto := { s.crypto with running := none } } j).enterDeferred j.job.requester).kickStream
      else (State.handResult { s with crypto := { s.crypto with running := none } } j).enterDeferred
        j.job.requester).startNext.TablesValid := by
  have hres := State.TablesValid.handResult (s := { s with crypto := { s.crypto with running := none } }) h j
  have hin : ((State.handResult { s with crypto := { s.crypto with running := none } } j).enterDeferred
    j.job.requester).TablesValid := hres
  exact (ite hin.kickStream hin).startNext

theorem reportForward (h : s.TablesValid) (f : HostForward) : (s.reportForward f).TablesValid := by
  unfold State.reportForward
  obtain ⟨_, _, _, _, e⟩ := s.reportCompletion_touches f
  have hreport : (s.reportCompletion f).TablesValid := by rw [e]; exact h
  split
  · dsimp only
    split
    · exact hreport.stagingComplete _
    · exact hreport
  · exact h

theorem answerClaimed (h : s.TablesValid) (c : Ctx) (st : Status) (detail : Nat) (body : List Byte) :
    (s.answerClaimed c st detail body).TablesValid := State.TablesValid.dropClaim (s := s.answer c st detail body) h c

theorem loadAfterForward (h : s.TablesValid) : s.loadAfterForward.TablesValid := by
  unfold State.loadAfterForward
  split
  · split
    · have hone := ite (p := s.forceLoaded.work? .c0 = some .awaitForce) (h.forceLoaded.answerClaimed .c0 .ok 0 []) h.forceLoaded
      exact ite (hone.answerClaimed .c1 .ok 0 []) hone
    · split
      · exact h.finishRelease _
      · exact h
  · exact h

/-! ## Requests -/

theorem checkRegionLoad (h : s.TablesValid) (c : Ctx) (body : List Byte) : (s.checkRegionLoad c body).TablesValid := by
  unfold State.checkRegionLoad
  refine ite (h.answerClaimed _ _ _ _) (ite (h.answerClaimed _ _ _ _) (ite (h.answerClaimed _ _ _ _)
    (ite (h.answerClaimed _ _ _ _) ?_)))
  split
  · exact h.answerClaimed _ _ _ _
  · rename_i hvalid
    exact h.requestWrite c (k := .loadTable (Table.ofBytes body)) (by simp [WriteKind.tablesOk, Table.valid, hvalid])

theorem checkInject (h : s.TablesValid) (c : Ctx) (body : List Byte) : (s.checkInject c body).TablesValid := by
  unfold State.checkInject
  refine ite (h.answerClaimed _ _ _ _) (ite (h.answerClaimed _ _ _ _) ?_)
  split
  · exact h.answerClaimed _ _ _ _
  · exact ite (h.answerClaimed _ _ _ _) (ite (h.answerClaimed _ _ _ _) (h.requestWrite c (k := .injectKey _ _) trivial))

theorem checkProvisioning (h : s.TablesValid) (c : Ctx) (code : Nat) (body : List Byte) :
    (s.checkProvisioning c code body).TablesValid := by
  have hclaimed (st : Status) (detail : Nat) : (s.answerClaimed c st detail []).TablesValid := h.answerClaimed c st detail []
  refine ite (h.checkRegionLoad c body) (ite ?_ (ite ?_ (ite (h.checkInject c body) (ite ?_ h))))
  · exact ite (hclaimed _ _) (ite (hclaimed _ _) h)
  · exact ite (hclaimed _ _) (ite (hclaimed _ _) (ite (hclaimed _ _) (h.requestWrite c (k := .certificate body) trivial)))
  · exact ite (hclaimed _ _) (ite (hclaimed _ _) (ite (hclaimed _ _) (ite (hclaimed _ _) (ite (hclaimed _ _)
      (ite (hclaimed _ _) (ite (hclaimed _ _) (h.requestWrite c (k := .advance _) trivial)))))))

theorem provision (h : s.TablesValid) (c : Ctx) (code : Nat) (body : List Byte) : (s.provision c code body).TablesValid := by
  unfold State.provision
  split
  · exact State.TablesValid.checkProvisioning (s := { s with requests := { s.requests with claim := some c } }) h c code body
  · exact h

theorem openRequest (h : s.TablesValid) (c : Ctx) (body : List Byte) : (s.openRequest c body).TablesValid :=
  ite h (ite h (ite h (ite h
    (State.TablesValid.requestWrite (s := s.setClaim s.intake.nextOpen) h c (k := .openSession s.intake.nextOpen) trivial))))

theorem commitSession (h : s.TablesValid) (c : Ctx) {m : VerifiedManifest} (hm : s.intake.session.manifest = some m)
    (restart : Bool) : (s.commitSession c m restart).TablesValid :=
  State.TablesValid.requestWrite (s := s.setSession { s.intake.session with state := .commitPending }) h c
    (k := .commit m s.tableInForce restart) ⟨h.2.2.2.2.2.1 m hm, h.tableInForce⟩

theorem abortSession (h : s.TablesValid) (c : Ctx) : (s.abortSession c).TablesValid :=
  ite (h.restSession.requestWrite c (k := .clearPending) trivial) h.restSession

theorem resetContext (h : s.TablesValid) (c : Ctx) : (s.resetContext c).TablesValid := by
  have hsession : ((s.setReservation c .none).resetSession c).TablesValid := by
    unfold State.resetSession
    exact ite (State.TablesValid.failSession (s := s.setReservation c .none) h _ _) h
  unfold State.resetContext
  exact ite hsession hsession

theorem askQuoteStamp (h : s.TablesValid) (c : Ctx) : (s.askQuoteStamp c).TablesValid := by
  obtain ⟨_, _, _, _, e⟩ := s.askQuoteStamp_touches c
  rw [e]
  exact h

theorem extendRequest (h : s.TablesValid) (c : Ctx) (body : List Byte) : (s.extendRequest c body).TablesValid := by
  unfold State.extendRequest
  refine ite h ?_
  split
  · exact h
  · rename_i n _
    refine ite h (ite h (State.TablesValid.startNext ?_))
    exact h.enqueueJob (.ctx c) (.extend n (digestOf (body.drop 1)))

theorem condRequest (h : s.TablesValid) (c : Ctx) (body : List Byte) : (s.condRequest c body).TablesValid := by
  unfold State.condRequest
  split
  · exact h
  · split
    · unfold State.condRefuse
      split <;> exact h
    · exact (h.prepare _ _ _ _).startNext


theorem whenEmpty (h : s.TablesValid) (c : Ctx) (body : List Byte) {t : State} (ht : t.TablesValid) :
    (s.whenEmpty c body t).TablesValid := ite ht h

end State.TablesValid

/-! ## The step -/

theorem tablesValid_event {s t : State} {f : State → State} (h : s.TablesValid) (e : whenRunning s f = .next t)
    (hf : (f s).TablesValid) : t.TablesValid := whenRunning_keeps h hf e

theorem tablesValid_request {s t : State} {c : Ctx} {code : Nat} {f : List Byte → State → State} (h : s.TablesValid)
    (e : (whenRunning s fun s => s.onRequest c code f) = .next t) (hf : ∀ body, (f body s).TablesValid) : t.TablesValid :=
  whenRunning_keeps h (State.onRequest_keeps h hf) e

theorem execTrialAlertRaise_tablesValid {s t : State} (h : s.TablesValid) (e : execTrialAlertRaise s = .next t) :
    t.TablesValid := by
  refine tablesValid_event h e ?_
  split
  · exact .ite h h
  · exact h

theorem execPresenceRelease_tablesValid {s t : State} (h : s.TablesValid) (e : execPresenceRelease s = .next t) :
    t.TablesValid := by
  refine tablesValid_event h e (.ite (State.TablesValid.startNext ?_) h)
  exact State.TablesValid.beginRelease (s := s.setOutcome { s.restart.outcome with cause := .presenceRelease }) h _ _

theorem execSubstituteEraseNext_tablesValid {s t : State} {took : Bool} (h : s.TablesValid) (e : execSubstituteEraseNext took s = .next t) :
    t.TablesValid := by
  refine tablesValid_event h e ?_
  split
  · exact h
  · split <;> exact h

theorem execHostForwardComplete_tablesValid {s t : State} {took : Bool} (h : s.TablesValid) (e : execHostForwardComplete took s = .next t) :
    t.TablesValid := by
  refine tablesValid_event h e ?_
  split
  · exact h
  · refine .ite h (State.TablesValid.startNext (State.TablesValid.loadAfterForward (State.TablesValid.reportForward ?_ _)))
    exact h

theorem execCapacityHandover_tablesValid {s t : State} {id : Byte} {took : Bool} (h : s.TablesValid) (e : execCapacityHandover id took s = .next t) :
    t.TablesValid := by
  refine tablesValid_event h e ?_
  split
  · exact h
  · refine State.TablesValid.tryHaltFlash ?_
    exact h

theorem execBackgroundJobRun_tablesValid {s t : State} {count : Nat} (h : s.TablesValid) (e : execBackgroundJobRun count s = .next t) :
    t.TablesValid := by
  unfold execBackgroundJobRun at e
  split at e
  · cases e; exact h
  · split at e
    · split at e <;> cases e
      exact h
    · cases e; exact h

theorem execBackgroundReadComplete_tablesValid {s t : State} (h : s.TablesValid) (e : execBackgroundReadComplete s = .next t) :
    t.TablesValid := by
  refine tablesValid_event h e ?_
  split
  · exact h
  · refine .ite (State.TablesValid.startNext ?_) h
    split
    · exact State.TablesValid.restartBlock (s := { s with storage := { s.storage with link := .idle, job := none } }) h _
    · exact State.TablesValid.intakeBlock (s := { s with storage := { s.storage with link := .idle, job := none } }) h _

theorem execCryptoJobEnd_tablesValid {s t : State} (h : s.TablesValid) (e : execCryptoJobEnd s = .next t) :
    t.TablesValid := by
  refine tablesValid_event h e ?_
  split
  · exact h
  · exact h.jobEnd _

theorem execRetainedWriteTake_tablesValid {s t : State} (h : s.TablesValid) (e : execRetainedWriteTake s = .next t) :
    t.TablesValid := by
  refine tablesValid_event h e ?_
  split
  · rename_i w rest _ hq
    obtain ⟨hw, hn, ht, hall, hrest⟩ := h
    rw [hq] at hall
    refine State.TablesValid.startNext (State.TablesValid.decideWrite ?_ (hall w List.mem_cons_self))
    exact ⟨hw, hn, ht, fun v hv => hall v (List.mem_cons_of_mem _ hv), hrest⟩
  · exact h

theorem execRetainedWriteComplete_tablesValid {s t : State} (h : s.TablesValid) (e : execRetainedWriteComplete s = .next t) :
    t.TablesValid := by
  refine tablesValid_event h e ?_
  split
  · exact h
  · rename_i w hw
    exact ((((h.complete hw).writeDone w.write).finishReset .c0).finishReset .c1).startNext

theorem execHeldEnd_tablesValid {s t : State} (h : s.TablesValid) (e : execHeldEnd s = .next t) :
    t.TablesValid := by
  refine tablesValid_event h e (.ite (State.TablesValid.startNext (.ite ?_ (h.reconcileSession.beginRelease _ _))) h)
  exact State.TablesValid.selectSlot (s := s.reconcileSession.setPhase .checking) h.reconcileSession

theorem execProvisioningClaimGrant_tablesValid {s t : State} (h : s.TablesValid) (e : execProvisioningClaimGrant s = .next t) :
    t.TablesValid := by
  refine tablesValid_event h e ?_
  split
  · split
    · rename_i c rest _ _ w _ _
      exact State.TablesValid.checkProvisioning
        (s := { s with requests := { s.requests with claim := some c, claimQueue := rest } }) h _ _ _
    · exact h
  · exact h

theorem execIdentityDrawDone_tablesValid {s t : State} (h : s.TablesValid) (e : execIdentityDrawDone s = .next t) :
    t.TablesValid := by
  refine tablesValid_event h e ?_
  split
  · exact .ite (State.TablesValid.requestWrite (s := { s with draws := s.draws + 2 }) h _ (k := .identity _ _) trivial) h
  · exact h

theorem State.TablesValid.acknowledge {s : State} (h : s.TablesValid) : s.acknowledge.TablesValid := by
  unfold State.acknowledge
  extract_lets u
  split <;> exact h

theorem State.TablesValid.setAlertUnit {s : State} (h : s.TablesValid) (a : Alert) : { s with alert := a }.TablesValid := h

theorem State.TablesValid.answerOk {s : State} (h : s.TablesValid) (c : Ctx) (out : List Byte) :
    (s.answerOk c out).TablesValid := h

theorem State.TablesValid.alertRead {s : State} (h : s.TablesValid) (c : Ctx) : (s.alertRead c).TablesValid := by
  unfold State.alertRead
  extract_lets u
  exact .ite ((h.acknowledge.answerOk c _).setAlertUnit _) (h.acknowledge.answerOk c _)

theorem execAlertRead_tablesValid {s t : State} {c : Ctx} (h : s.TablesValid) (e : execAlertRead c s = .next t) :
    t.TablesValid :=
  tablesValid_request h e fun body => h.whenEmpty c body (h.alertRead c)

theorem execAlertSet_tablesValid {s t : State} {c : Ctx} (h : s.TablesValid) (e : execAlertSet c s = .next t) :
    t.TablesValid := by
  refine tablesValid_request h e fun body => .ite h ?_
  exact State.TablesValid.ite (p := _) h h

theorem execUpdateFinish_tablesValid {s t : State} {c : Ctx} (h : s.TablesValid) (e : execUpdateFinish c s = .next t) :
    t.TablesValid := by
  refine tablesValid_request h e fun body => .ite h (.ite h (.ite h (.ite h ?_)))
  exact State.TablesValid.setIntakeWork (w := .readManifest)
    (s := (s.setSession { s.intake.session with state := .verifying, deadline := none }).submitRead .update s.stagedBase
      0x1000) h trivial

theorem execUpdateCommit_tablesValid {s t : State} {c : Ctx} (h : s.TablesValid) (e : execUpdateCommit c s = .next t) :
    t.TablesValid := by
  refine tablesValid_request h e fun body => .ite h (.ite h ?_)
  split
  · rename_i hm
    exact .ite h (h.commitSession c hm _)
  · exact h

/-- Every command keeps the tables valid (the law of R5). -/
theorem exec_tablesValid {i : Instr} {s t : State} (h : s.TablesValid) (e : exec i s = .next t) : t.TablesValid := by
  unfold exec at e
  cases i with
  | powerOn hcs rstReq => cases e; exact .ite (h.cold _ _) ((h.cold _ _).startPowerClass _ _)
  | resetNLow => cases e; exact h.cold _ _
  | lineReset hcs => cases e; exact .ite (.ite ((h.cold _ _).startPowerClass _ _) (h.cold _ _)) h
  | restartLine =>
    cases e
    exact .ite h (.ite (State.TablesValid.trigger (s := { s with pins := { s.pins with rstReq := true } }) h _) h)
  | tick presence => exact tablesValid_event h e (.ite h h)
  | trialExpiry => exact tablesValid_event h e (.ite (h.enterHeld _) h)
  | trialAlertRaise => exact execTrialAlertRaise_tablesValid h e
  | idleTimeout => exact tablesValid_event h e (.ite (h.failSession _ _) h)
  | timeout c => exact tablesValid_event h e (.ite h h)
  | requestBusyCapExpiry c => exact tablesValid_event h e (.ite h h)
  | presenceRelease => exact execPresenceRelease_tablesValid h e
  | presenceGrantOpen => exact tablesValid_event h e (.ite h h)
  | presenceGrantExpiry => exact tablesValid_event h e (.ite h h)
  | lockoutExpiry slot => exact tablesValid_event h e (.ite h h)
  | realertExpiry => exact tablesValid_event h e (.ite h h)
  | pulseEnd => exact tablesValid_event h e (.ite h h)
  | stampWaitServe => exact tablesValid_event h e h.serveAllStamps.startNext
  | read step => exact tablesValid_event h e (h.linkStep _ _)
  | fastRead step => exact tablesValid_event h e (h.linkStep _ _)
  | quadOutputFastRead step => exact tablesValid_event h e (h.linkStep _ _)
  | writeEnable step => exact tablesValid_event h e (h.linkStep _ _)
  | writeDisable step => exact tablesValid_event h e (h.linkStep _ _)
  | readStatus step => exact tablesValid_event h e (h.linkStep _ _)
  | readIdentification step => exact tablesValid_event h e (h.linkStep _ _)
  | pageProgram step => exact tablesValid_event h e (h.linkStep _ _)
  | sectorErase step => exact tablesValid_event h e (h.linkStep _ _)
  | blockErase step => exact tablesValid_event h e (h.linkStep _ _)
  | chipErase step => exact tablesValid_event h e (h.linkStep _ _)
  | unknownCommand code step => exact tablesValid_event h e (h.linkStep _ _)
  | substituteEraseNext took => exact execSubstituteEraseNext_tablesValid h e
  | hostForwardComplete took => exact execHostForwardComplete_tablesValid h e
  | capacityHandover id took => exact execCapacityHandover_tablesValid h e
  | backgroundJobRun count => exact execBackgroundJobRun_tablesValid h e
  | backgroundReadComplete => exact execBackgroundReadComplete_tablesValid h e
  | cryptoJobEnd => exact execCryptoJobEnd_tablesValid h e
  | retainedWriteTake => exact execRetainedWriteTake_tablesValid h e
  | retainedWriteComplete => exact execRetainedWriteComplete_tablesValid h e
  | heldEnd => exact execHeldEnd_tablesValid h e
  | provisioningClaimGrant => exact execProvisioningClaimGrant_tablesValid h e
  | identityDrawDone => exact execIdentityDrawDone_tablesValid h e
  | info c => exact tablesValid_request h e fun body => h.whenEmpty c body h
  | contextReset c => exact tablesValid_request h e fun body => h.whenEmpty c body (h.resetContext c)
  | restart c => exact tablesValid_request h e fun body => h.whenEmpty c body (.ite (h.enterHeld _) h)
  | alertRead c => exact execAlertRead_tablesValid h e
  | alertSet c => exact execAlertSet_tablesValid h e
  | closeBootWindow c => exact tablesValid_request h e fun body => h.whenEmpty c body h
  | regionRead c => exact tablesValid_request h e fun body => .ite h (.ite h h)
  | regionLoad c => exact tablesValid_request h e fun body => h.provision c _ body
  | watchLoad c =>
    refine tablesValid_request h e fun body => .ite h ?_
    split <;> exact h
  | watchRead c => exact tablesValid_request h e fun body => h.whenEmpty c body h
  | hitsRead c => exact tablesValid_request h e fun body => .ite h (.ite h (State.TablesValid.ite h h))
  | extend c => exact tablesValid_request h e fun body => h.extendRequest c body
  | measureRead c => exact tablesValid_request h e fun body => .ite h (.ite h h)
  | quote c =>
    refine tablesValid_request h e fun body => .ite h (.ite h (State.TablesValid.startNext ?_))
    exact State.TablesValid.askQuoteStamp (s := s.setWork c .quoting) h c
  | certRead c => exact tablesValid_request h e fun body => h.whenEmpty c body h
  | updateOpen c => exact tablesValid_request h e fun body => h.openRequest c body
  | stagingBank c => exact tablesValid_request h e fun body => .ite h (.ite h (.ite h (.ite h (.ite h (h.sameManifest rfl)))))
  | updateFinish c => exact execUpdateFinish_tablesValid h e
  | updateStatus c => exact tablesValid_request h e fun body => h.whenEmpty c body h
  | updateCommit c => exact execUpdateCommit_tablesValid h e
  | updateAbort c => exact tablesValid_request h e fun body => .ite h (.ite h (h.abortSession c))
  | bootConfirm c =>
    exact tablesValid_request h e fun body => .ite h (.ite h (.ite h (h.requestWrite c (k := .confirm) trivial)))
  | identityGenerate c => exact tablesValid_request h e fun body => h.provision c _ body
  | certStore c => exact tablesValid_request h e fun body => h.provision c _ body
  | keyInject c => exact tablesValid_request h e fun body => h.provision c _ body
  | keyRead c => exact tablesValid_request h e fun body => h.whenEmpty c body h
  | derive c =>
    refine tablesValid_request h e fun body => .ite h (.ite h ?_)
    exact State.TablesValid.startNext (s := (s.enqueueJob (.ctx c) (.derivation body)).setWork c .deriving_) (h.enqueueJob _ _)
  | lifecycleAdvance c => exact tablesValid_request h e fun body => h.provision c _ body
  | timeSet c => exact tablesValid_request h e fun body => .ite h (.ite h (.ite h h))
  | timeRead c => exact tablesValid_request h e fun body => h.whenEmpty c body h
  | credList c => exact tablesValid_request h e fun body => h.whenEmpty c body h
  | credRead c =>
    refine tablesValid_request h e fun body => .ite h ?_
    split
    · exact h
    · split <;> exact h
  | credReserve c =>
    refine tablesValid_request h e fun body => .ite h (.ite h ?_)
    split
    · exact h
    · split <;> exact h
  | credWriteCond c => exact tablesValid_request h e fun body => h.condRequest c body
  | credCompare c =>
    refine tablesValid_request h e fun body => .ite h ?_
    split
    · exact h
    · exact (h.tryCompare c _).startNext
  | ownerWipe c =>
    refine tablesValid_request h e fun body => h.whenEmpty c body (.ite ?_ h)
    exact h.requestWrite c (k := .wipe) trivial
  | powerLoss => cases e; exact h.cold _ _
  | rstReqNDeassert => cases e; exact h
  | ignoringTransactionEnd => exact tablesValid_event h e (.ite h h)

/-- Settles O54: a step is a command on the rest of the queue, and every command keeps the tables valid. -/
theorem tablesStayValid : Obligations.TablesStayValid := by
  intro s t h e
  unfold step at e
  split at e
  · cases e; exact h
  · rename_i rest _
    exact exec_tablesValid (s := { s with pending := rest }) h e

end Sys2Proof.Machine
end

section
/-! # Reports and provisioning

REGION_READ and HITS_READ (R9, R82); the provisioning claim and the checks of the five requests that take it (R8, R122 to R127). -/

namespace Sys2Proof.Machine

open Sys2Proof

/-! ## Reports -/

/-- An owner that answers its routed request at once does nothing else (R179). -/
theorem Routed.answered {s : State} {c : Ctx} {code tag : Nat} {body : List Byte} (h : Routed s c code tag body)
    (st : Status) (detail : Nat) (out : List Byte) : OnlyAnswers s (s.answer c st detail out) c code tag st detail out :=
  s.answer_only h.2.2 st detail out

theorem le_one (n : Nat) : le 1 n = [BitVec.ofNat 8 n] := rfl

theorem regionReply_some (b : Byte) (u : Table) : regionReply b (some u) = b :: u.bytes := rfl

theorem regionReply_none (b : Byte) : regionReply b none = b :: zeros 16 := rfl

theorem State.regionAnswer_inForce (s : State) :
    s.regionAnswer 0 =
      match s.xlat.inForce with
      | .table .a u => 0x01 :: u.bytes
      | .table .b u => 0x02 :: u.bytes
      | .identity => zeros 17
      | .none => zeros 17 := by
  unfold State.regionAnswer
  cases s.xlat.inForce with
  | table k u => cases k <;> rfl
  | identity => rfl
  | none => rfl

theorem State.regionAnswer_slot (s : State) (k : Slot) {sel : Byte} (h : sel = match k with | .a => 1 | .b => 2) :
    s.regionAnswer sel.toNat = regionReply sel (s.store.working.tables.get k) := by
  subst h
  cases k <;> rfl

theorem execRegionRead_eq {c : Ctx} {tag : Nat} {sel : Byte} {s : State} (h : Routed s c 0x10 tag [sel]) :
    exec (.regionRead c) s =
      .next (if 2 < sel.toNat then s.answerParameter c 0x01 else s.answerOk c (s.regionAnswer sel.toNat)) := by
  show execRegionRead c s = _
  rw [execRegionRead, h.exec_eq]
  rfl

theorem HitRecord.bytes_eq (h : HitRecord) :
    h.bytes =
      le 4 h.stamp.boot ++ le 6 h.stamp.tick ++ le 2 h.stamp.seq ++ le 3 h.start ++
        [match h.kind with | .read => (0x01 : Byte) | .program => 0x02 | .erase => 0x03] ++
        [BitVec.ofNat 8 (h.region.getD 0xFF), BitVec.ofNat 8 (h.entry.getD 0xFF)] := by
  obtain ⟨x, start, kind, region, entry⟩ := h
  cases kind <;> simp [HitRecord.bytes, Stamp.bytes, AccessKind.code, le_one]

theorem State.hitsBody_eq (s : State) :
    s.hitsBody =
      le 2 s.watch.drops ++ le 4 s.watch.hitsSince ++ [BitVec.ofNat 8 s.watch.hits.length] ++
        s.watch.hits.flatMap (fun h =>
          le 4 h.stamp.boot ++ le 6 h.stamp.tick ++ le 2 h.stamp.seq ++ le 3 h.start ++
            [match h.kind with | .read => (0x01 : Byte) | .program => 0x02 | .erase => 0x03] ++
            [BitVec.ofNat 8 (h.region.getD 0xFF), BitVec.ofNat 8 (h.entry.getD 0xFF)]) := by
  rw [State.hitsBody, le_one, funext HitRecord.bytes_eq]

theorem execHitsRead_eq {c : Ctx} {tag : Nat} {sel : Byte} {s : State} (h : Routed s c 0x14 tag [sel]) :
    exec (.hitsRead c) s =
      .next (if 1 < sel.toNat then s.answerParameter c 0x01
        else (if sel.toNat = 1 then s.clearHits else s).answerOk c s.hitsBody) := by
  show execHitsRead c s = _
  rw [execHitsRead, h.exec_eq]
  rfl

/-- HITS_READ with clear: the list, the drop count and WATCH go in the step that answers (R82). -/
theorem State.clearHits_answers (s : State) {c : Ctx} {code tag : Nat} (h : (s.ctx c).response = .pending tag code)
    (body : List Byte) :
    Answers s (s.clearHits.answerOk c body) c code tag .ok 0 body ∧
      (s.clearHits.answerOk c body).watch = { s.watch with hits := [], drops := 0 } ∧
      AlertChange s (s.clearHits.answerOk c body) sourceWatch (responseSource c) ∧
      { s.clearHits.answerOk c body with requests := s.requests, watch := s.watch, alert := s.alert } = s := by
  obtain ⟨hans, ⟨_, hnone, _, hraise, hlast⟩, -⟩ := s.clearHits.answer_only (c := c) h .ok 0 body
  refine ⟨hans, rfl, ?_, rfl⟩
  have hsame := hnone.1 (by rw [not_clear, raise_nothing])
  subst hsame
  exact ⟨_, State.clearSource_step { s with watch := { s.watch with hits := [], drops := 0 } } sourceWatch, _, hraise, hlast⟩

/-- Settles O26: each report is the answer that the owner computes from its registers. -/
theorem regionAndHitsReports : Obligations.RegionAndHitsReports := by
  refine ⟨fun c tag sel s h => ⟨_, execRegionRead_eq h, fun hsel => ?_, ?_, fun k hk => ?_⟩,
    fun c tag sel s report h hreport => ⟨_, execHitsRead_eq h, fun hsel => ?_, ?_, ?_⟩⟩
  · rw [if_pos hsel]
    exact h.answered _ _ _
  · rintro rfl
    rw [if_neg (by decide)]
    exact s.regionAnswer_inForce ▸ h.answered .ok 0 (s.regionAnswer 0)
  · have hsel : ¬ 2 < sel.toNat := by subst hk; cases k <;> decide
    rw [if_neg hsel, s.regionAnswer_slot k hk]
    refine ⟨fun u hu => ?_, fun hu => ⟨sel, ?_⟩⟩
    · rw [hu]
      exact h.answered _ _ _
    · rw [hu]
      exact h.answered _ _ _
  · rw [if_pos hsel]
    exact h.answered _ _ _
  · rintro rfl
    rw [hreport.trans s.hitsBody_eq.symm]
    exact h.answered _ _ _
  · rintro rfl
    rw [hreport.trans s.hitsBody_eq.symm]
    exact s.clearHits_answers h.2.2 s.hitsBody

end Sys2Proof.Machine
end

section
/-! # Provisioning

The claim, and the checks of the five requests that take it (R8, R122 to R127). -/

namespace Sys2Proof.Machine

open Sys2Proof

/-! ## The claim -/

/-- The codes of the requests that take the claim (R122). -/
def provisioningCodes : List Nat := [0x11, 0x40, 0x41, 0x42, 0x45]

theorem Routed.exec_provision {s : State} {c : Ctx} {code tag : Nat} {body : List Byte} {i : Instr}
    (h : Routed s c code tag body)
    (hi : (code, i) ∈ [(0x11, Instr.regionLoad c), (0x40, .identityGenerate c), (0x41, .certStore c), (0x42, .keyInject c),
      (0x45, .lifecycleAdvance c)]) : exec i s = .next (s.provision c code body) := by
  simp only [List.mem_cons, Prod.mk.injEq, List.not_mem_nil, or_false] at hi
  rcases hi with ⟨rfl, rfl⟩ | ⟨rfl, rfl⟩ | ⟨rfl, rfl⟩ | ⟨rfl, rfl⟩ | ⟨rfl, rfl⟩ <;> exact h.exec_eq _

/-- The state in which a provisioning request of context `c` is checked (R122). -/
def State.claimed (s : State) (c : Ctx) : State := { s with requests := { s.requests with claim := some c } }

theorem State.provision_claimed {s : State} (hc : s.requests.claim = none) (hq : s.requests.claimQueue = []) (c : Ctx)
    (code : Nat) (body : List Byte) : s.provision c code body = (s.claimed c).checkProvisioning c code body :=
  if_pos ⟨hc, hq⟩

theorem State.answerClaimed_clears (s : State) (c : Ctx) (st : Status) (detail : Nat) (body : List Byte) :
    (s.claimed c).answerClaimed c st detail body =
      { s.answer c st detail body with requests := { (s.answer c st detail body).requests with claim := none } } := by
  unfold State.answerClaimed State.dropClaim
  exact if_pos rfl

/-- A provisioning request that is answered at once leaves the claim clear, as it found it (R122). -/
theorem Routed.answerClaimed {s : State} {c : Ctx} {code tag : Nat} {body : List Byte} (h : Routed s c code tag body)
    (hc : s.requests.claim = none) (st : Status) (detail : Nat) (out : List Byte) :
    OnlyAnswers s ((s.claimed c).answerClaimed c st detail out) c code tag st detail out := by
  obtain ⟨⟨hctx, hother, -, hqueue⟩, halert, hframe⟩ := h.answered st detail out
  rw [s.answerClaimed_clears]
  exact ⟨⟨hctx, hother, hc.symm, hqueue⟩, halert, hframe⟩

theorem State.checkProvisioning_inField {s : State} (h : s.store.working.stage = .field) (c : Ctx) {code : Nat}
    (hcode : code ∈ provisioningCodes) (body : List Byte) :
    s.checkProvisioning c code body = s.answerClaimed c .wrongLifecycle 0 [] := by
  have hin : s.inField = true := decide_eq_true h
  simp only [provisioningCodes, List.mem_cons, List.not_mem_nil, or_false] at hcode
  rcases hcode with rfl | rfl | rfl | rfl | rfl
  · simp [State.checkProvisioning, State.checkRegionLoad, hin]
  · simp [State.checkProvisioning, State.checkIdentity, hin]
  · simp [State.checkProvisioning, State.checkCertificate, hin]
  · simp [State.checkProvisioning, State.checkInject, hin]
  · simp [State.checkProvisioning, State.checkAdvance, hin]

/-! ## How far the request had come does not matter to its checks -/

@[simp] theorem State.setWork_setWork (s : State) (c : Ctx) (w w' : ExecWork) :
    (s.setWork c w).setWork c w' = s.setWork c w' := by
  simp [State.setWork, State.setCtx, State.ctx, Option.map_map, Function.comp_def]

@[simp] theorem State.setWork_answer (s : State) (c : Ctx) (w : ExecWork) (st : Status) (detail : Nat) (body : List Byte) :
    (s.setWork c w).answer c st detail body = s.answer c st detail body := by
  simp [State.answer, State.ready, State.setWork, State.setCtx, State.ctx]

@[simp] theorem State.setWork_answerClaimed (s : State) (c : Ctx) (w : ExecWork) (st : Status) (detail : Nat)
    (body : List Byte) : (s.setWork c w).answerClaimed c st detail body = s.answerClaimed c st detail body := by
  simp [State.answerClaimed]

@[simp] theorem State.setWork_requestWrite (s : State) (c : Ctx) (w : ExecWork) (k : WriteKind) :
    (s.setWork c w).requestWrite c k = s.requestWrite c k :=
  (s.enqueueWrite (.ctx c) k).setWork_setWork c w .awaitWrite

theorem State.setWork_inField (s : State) (c : Ctx) (w : ExecWork) : (s.setWork c w).inField = s.inField := rfl

theorem State.setWork_working (s : State) (c : Ctx) (w : ExecWork) : (s.setWork c w).wc = s.wc := rfl

theorem State.setWork_checkProvisioning (s : State) (c : Ctx) (w : ExecWork) {code : Nat} (hcode : code ∈ provisioningCodes)
    (body : List Byte) : (s.setWork c w).checkProvisioning c code body = s.checkProvisioning c code body := by
  simp only [provisioningCodes, List.mem_cons, List.not_mem_nil, or_false] at hcode
  rcases hcode with rfl | rfl | rfl | rfl | rfl
  · simp [State.checkProvisioning, State.checkRegionLoad, State.setWork_inField]
  · simp [State.checkProvisioning, State.checkIdentity, State.setWork_inField]
  · simp [State.checkProvisioning, State.checkCertificate, State.setWork_inField, State.setWork_working]
  · simp [State.checkProvisioning, State.checkInject, State.setWork_inField, State.setWork_working]
  · simp [State.checkProvisioning, State.checkAdvance, State.setWork_inField, State.setWork_working]

theorem Executing.setWork_eq {s : State} {c : Ctx} {code tag : Nat} {body : List Byte} {w : ExecWork}
    (h : Executing s c code tag body w) (w' : ExecWork) :
    s.setWork c w' = s.setCtx c { s.ctx c with request := some ⟨code, tag, body, w'⟩ } := by
  obtain ⟨-, hreq, -⟩ := h
  simp [State.setWork, hreq]

theorem provisioning_code {c : Ctx} {code : Nat} {i : Instr}
    (hi : (code, i) ∈ [(0x11, Instr.regionLoad c), (0x40, .identityGenerate c), (0x41, .certStore c), (0x42, .keyInject c),
      (0x45, .lifecycleAdvance c)]) : code ∈ provisioningCodes :=
  List.mem_map_of_mem (f := Prod.fst) hi

theorem Routed.provision_waits {s : State} {c : Ctx} {code tag : Nat} {body : List Byte} (h : Routed s c code tag body)
    (hheld : s.requests.claim ≠ none ∨ s.requests.claimQueue ≠ []) :
    GoesOn s (s.provision c code body) c code tag body .awaitClaim ∧
      (s.provision c code body).requests.claim = s.requests.claim ∧
      (s.provision c code body).requests.claimQueue = s.requests.claimQueue ++ [c] ∧
      { s.provision c code body with requests := s.requests } = s := by
  have hnot : ¬ (s.requests.claim = none ∧ s.requests.claimQueue = []) := fun ⟨h1, h2⟩ => hheld.elim (· h1) (· h2)
  rw [State.provision, if_neg hnot]
  exact ⟨Executing.setWork_goesOn (s := { s with requests := { s.requests with claimQueue := _ } }) h .awaitClaim, rfl, rfl, rfl⟩

/-- The grant of the claim checks the request that waits for it (R122). -/
theorem Executing.exec_grant {s : State} {c : Ctx} {code tag : Nat} {body : List Byte}
    (h : Executing s c code tag body .awaitClaim) (hc : s.requests.claim = none) (hq : s.requests.claimQueue = [c]) :
    exec .provisioningClaimGrant s =
      .next ({ s with requests := { s.requests with claim := some c, claimQueue := [] } }.checkProvisioning c code body) := by
  obtain ⟨hrun, hreq, -⟩ := h
  show execProvisioningClaimGrant s = _
  rw [execProvisioningClaimGrant, whenRunning_eq hrun]
  simp only [hc, hq, hreq]

/-- The state once no request waits for the claim. -/
def State.unqueued (s : State) : State := { s with requests := { s.requests with claimQueue := [] } }

/-- An executing request, set back to where its owner takes it. -/
theorem Executing.rerouted {s : State} {c : Ctx} {code tag : Nat} {body : List Byte} {w : ExecWork}
    (h : Executing s c code tag body w) : Routed (s.setWork c .routed) c code tag body := by
  rw [h.setWork_eq]
  obtain ⟨hrun, -, hresp⟩ := h
  exact ⟨hrun, by simp, by simpa using hresp⟩

/-- Settles O43: the checks do not read how far the request has come, so that the grant runs them as the routing would have. -/
theorem provisioningTakesTheClaim : Obligations.ProvisioningTakesTheClaim := by
  intro c code tag body i s hi
  have hcode := provisioning_code hi
  refine ⟨fun h => ⟨_, h.exec_provision hi, fun hc hq hfield => ?_, h.provision_waits⟩, fun h hc hq => ?_⟩
  · rw [State.provision_claimed hc hq, State.checkProvisioning_inField (s := s.claimed c) hfield c hcode body]
    exact h.answerClaimed hc _ _ _
  · refine ⟨_, h.exec_grant hc hq, ?_⟩
    have hfree : Executing s.unqueued c code tag body .awaitClaim := h
    have hrouted := hfree.rerouted
    have hstate : s.unqueued.setWork c .routed = { s with
        requests :=
          { s.requests with
            ctx := s.requests.ctx.set c { s.ctx c with request := some ⟨code, tag, body, .routed⟩ }
            claimQueue := [] } } := hfree.setWork_eq .routed
    rw [← hstate, hrouted.exec_provision hi, State.provision_claimed (s := s.unqueued.setWork c .routed) hc rfl]
    exact congrArg _ (State.setWork_checkProvisioning (s.unqueued.claimed c) c .routed hcode body)

/-! ## The checks in MANUFACTURE -/

/-- In MANUFACTURE, with the claim clear, the request's checks are taken at once. -/
theorem Routed.exec_checks {s : State} {c : Ctx} {code tag : Nat} {body : List Byte} {i : Instr}
    (h : Routed s c code tag body)
    (hi : (code, i) ∈ [(0x11, Instr.regionLoad c), (0x40, .identityGenerate c), (0x41, .certStore c), (0x42, .keyInject c),
      (0x45, .lifecycleAdvance c)])
    (hc : s.requests.claim = none) (hq : s.requests.claimQueue = []) :
    exec i s = .next ((s.claimed c).checkProvisioning c code body) := by
  rw [h.exec_provision hi, State.provision_claimed hc hq]

/-- A request that passes its checks keeps the claim and queues its write (R122). -/
theorem Routed.provisions {s : State} {c : Ctx} {code tag : Nat} {body : List Byte} (h : Routed s c code tag body)
    (k : WriteKind) : Provisions s ((s.claimed c).requestWrite c k) c code tag body k :=
  ⟨Executing.setWork_goesOn (s := (s.claimed c).enqueueWrite (.ctx c) k) h .awaitWrite, rfl, rfl, rfl⟩

theorem State.claimed_manufacture {s : State} (h : s.store.working.stage = .manufacture) (c : Ctx) :
    (s.claimed c).inField = false :=
  decide_eq_false fun (e : s.store.working.stage = .field) => by rw [h] at e; cases e

theorem Vector.mem_iff_get_four (keys : Vector UpdateKey 4) (p : UpdateKey → Prop) :
    (∃ k ∈ keys.toList, p k) ↔ ∃ j : Fin 4, p keys[j] := by
  simp only [Vector.mem_toList_iff, Vector.mem_iff_getElem]
  exact ⟨fun ⟨k, ⟨j, hj, e⟩, hp⟩ => ⟨⟨j, hj⟩, e ▸ hp⟩, fun ⟨j, hp⟩ => ⟨_, ⟨j.val, j.isLt, rfl⟩, hp⟩⟩

theorem keyElsewhere_iff (keys : Vector UpdateKey 4) (slot : Fin 4) (pub : PubKey) :
    keyElsewhere keys slot pub = true ↔ ∃ j : Fin 4, j ≠ slot ∧ keys[j].state ≠ .empty ∧ keys[j].pub = pub := by
  simp only [keyElsewhere, List.any_eq_true, Prod.exists, List.mem_zipIdx_iff_getElem?, Bool.and_eq_true, bne_iff_ne,
    UpdateKey.held, decide_eq_true_eq]
  constructor
  · rintro ⟨k, j, hk, hj, hstate, hpub⟩
    obtain ⟨hlt, rfl⟩ := List.getElem?_eq_some_iff.1 hk
    have hlt : j < 4 := by simpa using hlt
    exact ⟨⟨j, hlt⟩, fun e => hj (congrArg Fin.val e), by simpa using hstate, by simpa using hpub⟩
  · rintro ⟨j, hj, hstate, hpub⟩
    exact ⟨keys[j], j.val, by simp, fun e => hj (Fin.ext e), hstate, hpub⟩

theorem noKeyActive_iff (keys : Vector UpdateKey 4) :
    (keys.toList.all fun k => k.state ≠ .active) = true ↔ ∀ j : Fin 4, keys[j].state ≠ .active := by
  have h := not_congr (Vector.mem_iff_get_four keys fun k => k.state = .active)
  push Not at h
  rw [← h, List.all_eq_true]
  simp only [decide_eq_true_eq]

theorem updateKeyIndex_some {n : Nat} {k : Fin 4} (h : n = k.val + 2) : updateKeyIndex n = some k := by
  subst h
  simp [updateKeyIndex, k.isLt]

theorem updateKeyIndex_none {n : Nat} (h : n < 2 ∨ 5 < n) : updateKeyIndex n = none := by
  unfold updateKeyIndex
  exact dif_neg (by omega)

theorem Retained.header_isNone (r : Retained) : r.header.isNone = true ↔ r.tables = ⟨none, none⟩ := by
  unfold Retained.header
  obtain ⟨a, b⟩ := r.tables
  cases a <;> cases b <;> simp

section checks

variable {s : State} {c : Ctx} {tag : Nat} {body : List Byte}

/-- REGION_LOAD (R8). -/
theorem Routed.regionLoad_checks (h : Routed s c 0x11 tag body) (hin : ¬ (s.claimed c).inField = true)
    (hc : s.requests.claim = none) {t : State} (ht : t = (s.claimed c).checkRegionLoad c body) :
    (body.length < 16 → OnlyAnswers s t c 0x11 tag .badLength 0 []) ∧
      (16 ≤ body.length →
        (byteAt body 12 < 1 ∨ 16 < byteAt body 12 → OnlyAnswers s t c 0x11 tag .badParameter 0x01 []) ∧
        (1 ≤ byteAt body 12 → byteAt body 12 ≤ 16 →
          (body.length ≠ 16 + 12 * byteAt body 12 → OnlyAnswers s t c 0x11 tag .badLength 0 []) ∧
          (body.length = 16 + 12 * byteAt body 12 →
            (∀ detail, (Table.ofBytes body).firstFailure = some detail →
              OnlyAnswers s t c 0x11 tag .badParameter detail []) ∧
            ((Table.ofBytes body).valid = true → Provisions s t c 0x11 tag body (.loadTable (Table.ofBytes body)))))) := by
  subst ht
  simp only [State.checkRegionLoad]
  rw [if_neg hin]
  refine ⟨fun hlen => ?_, fun hlen => ?_⟩
  · rw [if_pos hlen]
    exact h.answerClaimed hc _ _ _
  rw [if_neg (Nat.not_lt.mpr hlen)]
  refine ⟨fun hcount => ?_, fun h1 h16 => ?_⟩
  · rw [if_pos hcount]
    exact h.answerClaimed hc _ _ _
  rw [if_neg (by omega)]
  refine ⟨fun hne => ?_, fun heq => ?_⟩
  · rw [if_pos hne]
    exact h.answerClaimed hc _ _ _
  rw [if_neg (not_not.mpr heq)]
  refine ⟨fun detail hdetail => ?_, fun hvalid => ?_⟩
  · simp only [hdetail]
    exact h.answerClaimed hc _ _ _
  · have hnone : (Table.ofBytes body).firstFailure = none := of_decide_eq_true hvalid
    simp only [hnone]
    exact h.provisions _

/-- IDENTITY_GENERATE (R123). -/
theorem Routed.identityGenerate_checks (h : Routed s c 0x40 tag body) (hin : ¬ (s.claimed c).inField = true)
    (hc : s.requests.claim = none) {t : State} (ht : t = (s.claimed c).checkIdentity c body) :
    (body ≠ [] → OnlyAnswers s t c 0x40 tag .badLength 0 []) ∧
      (body = [] → GoesOn s t c 0x40 tag [] .drawing ∧ t.requests.claim = some c ∧ { t with requests := s.requests } = s) := by
  subst ht
  simp only [State.checkIdentity]
  rw [if_neg hin]
  refine ⟨fun hne => ?_, ?_⟩
  · rw [if_pos hne]
    exact h.answerClaimed hc _ _ _
  · rintro rfl
    rw [if_neg (not_not.mpr rfl)]
    exact ⟨Executing.setWork_goesOn (s := s.claimed c) h .drawing, rfl, rfl⟩

/-- CERT_STORE (R125). -/
theorem Routed.certStore_checks (h : Routed s c 0x41 tag body) (hin : ¬ (s.claimed c).inField = true)
    (hc : s.requests.claim = none) {t : State} (ht : t = (s.claimed c).checkCertificate c body) :
    (body = [] ∨ 2048 < body.length → OnlyAnswers s t c 0x41 tag .badLength 0 []) ∧
      (body ≠ [] → body.length ≤ 2048 →
        (s.store.working.identity = none → OnlyAnswers s t c 0x41 tag .noIdentity 0 []) ∧
        (s.store.working.identity ≠ none → Provisions s t c 0x41 tag body (.certificate body))) := by
  subst ht
  simp only [State.checkCertificate]
  rw [if_neg hin]
  refine ⟨fun hlen => ?_, fun hne hlen => ?_⟩
  · rw [if_pos hlen]
    exact h.answerClaimed hc _ _ _
  rw [if_neg (not_or.mpr ⟨hne, Nat.not_lt.mpr hlen⟩)]
  refine ⟨fun hid => ?_, fun hid => ?_⟩
  · rw [if_pos (show (s.claimed c).wc.identity.isNone = true from Option.isNone_iff_eq_none.mpr hid)]
    exact h.answerClaimed hc _ _ _
  · rw [if_neg fun e : (s.claimed c).wc.identity.isNone = true => hid (Option.isNone_iff_eq_none.mp e)]
    exact h.provisions _

/-- KEY_INJECT (R124). -/
theorem Routed.keyInject_checks (h : Routed s c 0x42 tag body) (hin : ¬ (s.claimed c).inField = true)
    (hc : s.requests.claim = none) {t : State} (ht : t = (s.claimed c).checkInject c body) :
    (body.length ≠ 65 → OnlyAnswers s t c 0x42 tag .badLength 0 []) ∧
      ∀ pub, body.length = 65 → pub = wide (body.drop 1) →
        (byteAt body 0 < 2 ∨ 5 < byteAt body 0 → OnlyAnswers s t c 0x42 tag .badParameter 0x01 []) ∧
        ∀ k : Fin 4, byteAt body 0 = k.val + 2 →
          (Config.isPoint pub = false → OnlyAnswers s t c 0x42 tag .badParameter 0x02 []) ∧
          (Config.isPoint pub = true →
            ((∃ j : Fin 4, j ≠ k ∧ s.store.working.updateKeys[j].state ≠ .empty ∧ s.store.working.updateKeys[j].pub = pub) →
              OnlyAnswers s t c 0x42 tag .badParameter 0x03 []) ∧
            ((∀ j : Fin 4, j ≠ k → s.store.working.updateKeys[j].state = .empty ∨ s.store.working.updateKeys[j].pub ≠ pub) →
              Provisions s t c 0x42 tag body (.injectKey k pub))) := by
  subst ht
  simp only [State.checkInject]
  rw [if_neg hin]
  refine ⟨fun hlen => ?_, ?_⟩
  · rw [if_pos hlen]
    exact h.answerClaimed hc _ _ _
  rintro pub hlen rfl
  rw [if_neg (not_not.mpr hlen)]
  refine ⟨fun hrange => ?_, fun k hk => ?_⟩
  · simp only [updateKeyIndex_none hrange]
    exact h.answerClaimed hc _ _ _
  simp only [updateKeyIndex_some hk]
  refine ⟨fun hpoint => ?_, fun hpoint => ?_⟩
  · rw [if_pos (by rw [hpoint]; exact Bool.false_ne_true)]
    exact h.answerClaimed hc _ _ _
  rw [if_neg (not_not.mpr hpoint)]
  have helse := keyElsewhere_iff (s.claimed c).wc.updateKeys k (wide (body.drop 1))
  refine ⟨fun hheld => ?_, fun hfree => ?_⟩
  · rw [if_pos (helse.mpr hheld)]
    exact h.answerClaimed hc _ _ _
  · rw [if_neg fun e => ?_]
    · exact h.provisions _
    · obtain ⟨j, hj, hstate, hpub⟩ := helse.mp e
      exact (hfree j hj).elim hstate fun hne => hne hpub

/-- LIFECYCLE_ADVANCE (R127). -/
theorem Routed.lifecycleAdvance_checks (h : Routed s c 0x45 tag body) (hin : ¬ (s.claimed c).inField = true)
    (hc : s.requests.claim = none) {t : State} (ht : t = (s.claimed c).checkAdvance c body) :
    (body.length ≠ 1 → OnlyAnswers s t c 0x45 tag .badLength 0 []) ∧
      ∀ flag : Byte, body = [flag] →
        (1 < flag.toNat → OnlyAnswers s t c 0x45 tag .badParameter 0x01 []) ∧
        (flag.toNat ≤ 1 →
          (s.store.working.identity = none ∨ s.store.working.derivation = none →
            OnlyAnswers s t c 0x45 tag .badParameter 0x02 []) ∧
          (s.store.working.identity ≠ none → s.store.working.derivation ≠ none →
            (s.store.working.certificate = none → OnlyAnswers s t c 0x45 tag .badParameter 0x03 []) ∧
            (s.store.working.certificate ≠ none →
              ((∀ j : Fin 4, s.store.working.updateKeys[j].state ≠ .active) →
                OnlyAnswers s t c 0x45 tag .badParameter 0x04 []) ∧
              ((∃ j : Fin 4, s.store.working.updateKeys[j].state = .active) →
                (s.store.working.tables = ⟨none, none⟩ → OnlyAnswers s t c 0x45 tag .badParameter 0x05 []) ∧
                (s.store.working.tables ≠ ⟨none, none⟩ → Provisions s t c 0x45 tag body (.advance (flag == 1))))))) := by
  subst ht
  simp only [State.checkAdvance]
  rw [if_neg hin]
  refine ⟨fun hlen => ?_, ?_⟩
  · rw [if_pos hlen]
    exact h.answerClaimed hc _ _ _
  rintro flag rfl
  rw [if_neg (show ¬ [flag].length ≠ 1 from not_not.mpr rfl)]
  refine ⟨fun hflag => ?_, fun hflag => ?_⟩
  · rw [if_pos (show 1 < byteAt [flag] 0 from hflag)]
    exact h.answerClaimed hc _ _ _
  rw [if_neg (show ¬ 1 < byteAt [flag] 0 from Nat.not_lt.mpr hflag)]
  have hkeys : (s.claimed c).wc.identity.isNone ∨ (s.claimed c).wc.derivation.isNone ↔
      s.store.working.identity = none ∨ s.store.working.derivation = none :=
    or_congr Option.isNone_iff_eq_none Option.isNone_iff_eq_none
  refine ⟨fun hkey => ?_, fun hid hder => ?_⟩
  · rw [if_pos (hkeys.mpr hkey)]
    exact h.answerClaimed hc _ _ _
  rw [if_neg fun e => (hkeys.mp e).elim hid hder]
  refine ⟨fun hcert => ?_, fun hcert => ?_⟩
  · rw [if_pos (show (s.claimed c).wc.certificate.isNone = true from Option.isNone_iff_eq_none.mpr hcert)]
    exact h.answerClaimed hc _ _ _
  rw [if_neg fun e : (s.claimed c).wc.certificate.isNone = true => hcert (Option.isNone_iff_eq_none.mp e)]
  have hactive := noKeyActive_iff (s.claimed c).wc.updateKeys
  refine ⟨fun hno => ?_, fun ⟨j, hj⟩ => ?_⟩
  · rw [if_pos (hactive.mpr hno)]
    exact h.answerClaimed hc _ _ _
  rw [if_neg fun e => hactive.mp e j hj]
  have hheader := (s.claimed c).wc.header_isNone
  refine ⟨fun hno => ?_, fun htables => ?_⟩
  · rw [if_pos (hheader.mpr hno)]
    exact h.answerClaimed hc _ _ _
  · rw [if_neg fun e => htables (hheader.mp e)]
    have hflag1 : decide (byteAt [flag] 0 = 1) = (flag == 1) := by
      rw [Bool.eq_iff_iff]
      simp [byteAt, BitVec.toNat_eq]
    rw [hflag1]
    exact h.provisions _

/-- The drawn key and its public part go into one write (R123). -/
theorem Executing.exec_identityDrawDone (h : Executing s c 0x40 tag [] .drawing) (hc : s.requests.claim = some c) :
    exec .identityDrawDone s = .next (s.drawIdentity c) := by
  show execIdentityDrawDone s = _
  rw [execIdentityDrawDone, whenRunning_eq h.1]
  simp only [hc, h.work?, if_true]

end checks

/-- Settles O44: each request's checks are taken in their order, and the first that fails answers. -/
theorem provisioningChecks : Obligations.ProvisioningChecks := by
  intro c tag body s hm
  have hin : ¬ (s.claimed c).inField = true := by simp [State.claimed_manufacture hm]
  refine ⟨fun hc hq => ⟨fun h => ?_, fun h => ?_, fun h => ?_, fun h => ?_, fun h => ?_⟩, fun h hc => ?_⟩
  · exact ⟨_, h.exec_checks (by simp) hc hq, h.regionLoad_checks hin hc rfl⟩
  · exact ⟨_, h.exec_checks (by simp) hc hq, h.identityGenerate_checks hin hc rfl⟩
  · exact ⟨_, h.exec_checks (by simp) hc hq, h.certStore_checks hin hc rfl⟩
  · exact ⟨_, h.exec_checks (by simp) hc hq, h.keyInject_checks hin hc rfl⟩
  · exact ⟨_, h.exec_checks (by simp) hc hq, h.lifecycleAdvance_checks hin hc rfl⟩
  · exact ⟨_, Config.random32 s.draws, Config.random32 (s.draws + 1), h.exec_identityDrawDone hc,
      Executing.setWork_goesOn (s := State.enqueueWrite { s with draws := s.draws + 2 } (.ctx c) _) h .awaitWrite, rfl, hc, rfl⟩

end Sys2Proof.Machine
end

section
/-! # The storage link

The capacity handover and the background reads (R38, R42, R54), and the ends of the host forwards (R36, R40, R41). -/

namespace Sys2Proof.Machine

open Sys2Proof

/-! ## The capacity handover -/

theorem Flash.finish_idle {f : Flash} (h : f.busy = none) (took : Bool) : f.finish took = f := by
  unfold Flash.finish
  rw [h]

theorem Flash.finish_busy {f : Flash} {op : FlashOp} (h : f.busy = some op) (took : Bool) :
    f.finish took = ⟨if took then op.apply f.mem else f.mem, none⟩ := by
  unfold Flash.finish
  rw [h]

theorem capacityOf_full {id : Byte} (h1 : 0x19 ≤ id.toNat) (h2 : id.toNat ≤ 0x1F) : flashSize ≤ capacityOf id := by
  rw [capacityOf, if_pos ⟨h1, h2⟩]
  calc flashSize = 2 ^ 0x19 := rfl
    _ ≤ 2 ^ id.toNat := Nat.pow_le_pow_right (by decide) h1

theorem capacityOf_low {id : Byte} (h : id.toNat < 0x19 ∨ 0x1F < id.toNat) : capacityOf id < flashSize := by
  rw [capacityOf, if_neg (by omega)]
  decide

/-- The halt for a small flash touches the restart controller alone (R54). -/
theorem State.tryHaltFlash_frame (s : State) : { s.tryHaltFlash with restart := s.restart } = s := by
  unfold State.tryHaltFlash
  split
  · split <;> rfl
  · rfl

theorem State.tryHaltFlash_full {s : State} {n : Nat} (hn : s.storage.capacity = some n) (h : flashSize ≤ n) :
    s.tryHaltFlash = s := by
  unfold State.tryHaltFlash
  split
  · rename_i m _ hm
    rw [hn] at hm
    cases hm
    exact if_neg fun e => absurd e.1 (Nat.not_lt.mpr h)
  · rfl

theorem State.tryHaltFlash_low {s : State} {n : Nat} (hn : s.storage.capacity = some n) (h : n < flashSize)
    (hw : s.restart.work = .held true) (hb : s.time.bootCounted = true) : s.tryHaltFlash = s.halt .flashSize := by
  unfold State.tryHaltFlash
  simp only [hw, hn]
  exact if_pos ⟨h, hb⟩

/-- The state after the capacity has been handed over, before a power-on class restart halts for it (R38). -/
def State.handedOver (s : State) (id : Byte) (took : Bool) : State :=
  { s with storage := { s.storage with capacity := some (capacityOf id) }, flash := s.flash.finish took }

theorem execCapacityHandover_known {s : State} (hrun : s.running = true) (h : s.storage.capacity ≠ none) (id : Byte)
    (took : Bool) : exec (.capacityHandover id took) s = .next s := by
  show execCapacityHandover id took s = _
  rw [execCapacityHandover, whenRunning_eq hrun]
  split
  · rfl
  · contradiction

theorem execCapacityHandover_first {s : State} (hrun : s.running = true) (h : s.storage.capacity = none) (id : Byte)
    (took : Bool) : exec (.capacityHandover id took) s = .next (s.handedOver id took).tryHaltFlash := by
  show execCapacityHandover id took s = _
  rw [execCapacityHandover, whenRunning_eq hrun]
  simp only [h]
  rfl

/-! ## Background reads -/

theorem execBackgroundJobRun_stays {s : State} {j : BackgroundJob} (hj : s.storage.job = some j)
    (h : s.running = false ∨ (j.running = false ∧ s.storage.link ≠ .idle) ∨ s.storage.capacity = none) (count : Nat) :
    exec (.backgroundJobRun count) s = .next s := by
  show execBackgroundJobRun count s = _
  simp only [execBackgroundJobRun, hj]
  refine if_neg ?_
  rintro ⟨hrun, hidle, hcap⟩
  rcases h with h | ⟨h, hl⟩ | h
  · rw [h] at hrun; cases hrun
  · rw [h] at hidle; exact hidle.elim Bool.false_ne_true hl
  · rw [h] at hcap; cases hcap

/-- A job that the link is free for runs, up to `count` bytes and short of its last one (R42, R44); one that leaves the real flash
stops the model. -/
theorem execBackgroundJobRun_runs {s : State} {j : BackgroundJob} (hj : s.storage.job = some j) (hrun : s.running = true)
    (hidle : j.running = true ∨ s.storage.link = .idle) (hcap : s.storage.capacity ≠ none) (count : Nat) :
    exec (.backgroundJobRun count) s =
      if flashSize < j.start + j.length then .fault .outsideFlash
      else
        .next
          { s with
            storage :=
              { s.storage with
                link := .background, job := some { s.readJob j (min count (j.left - 1)) with running := true } } } := by
  show execBackgroundJobRun count s = _
  simp only [execBackgroundJobRun, hj]
  exact if_pos ⟨hrun, hidle, Option.isSome_iff_ne_none.mpr hcap⟩

theorem execBackgroundReadComplete_waits {s : State} {j : BackgroundJob} (hrun : s.running = true)
    (hj : s.storage.job = some j) (h : j.running = false) : exec .backgroundReadComplete s = .next s := by
  show execBackgroundReadComplete s = _
  rw [execBackgroundReadComplete, whenRunning_eq hrun]
  simp only [hj, h, Bool.false_eq_true, if_false]

/-- The last byte of a block is read: the link is idle, and the restart controller has the block (R42, R59). -/
theorem execBackgroundReadComplete_restart {s : State} {j : BackgroundJob} (hrun : s.running = true)
    (hj : s.storage.job = some j) (h : j.running = true) (hu : j.user = .restart) :
    exec .backgroundReadComplete s =
      .next (State.restartBlock { s with storage := { s.storage with link := .idle, job := none } }
        (s.readJob j j.left).bytes).startNext := by
  show execBackgroundReadComplete s = _
  rw [execBackgroundReadComplete, whenRunning_eq hrun]
  simp only [hj, h, if_true, hu]

/-- Starting the next job touches the engine and the count of draws. -/
theorem State.startNext_frame (s : State) : { s.startNext with crypto := s.crypto, draws := s.draws } = s := by
  obtain ⟨_, _, e⟩ := s.startNext_touches
  rw [e]

theorem State.startNext_storage (s : State) : s.startNext.storage = s.storage := congrArg (·.storage) s.startNext_frame

theorem State.startNext_restart (s : State) : s.startNext.restart = s.restart := congrArg (·.restart) s.startNext_frame

theorem State.enqueueJob_frame (s : State) (r : Requester) (k : JobKind) :
    { s.enqueueJob r k with crypto := s.crypto } = s := by
  obtain ⟨_, e⟩ := s.enqueueJob_touches r k
  rw [e]

/-- The manifest sector has been read: the digest job over it is queued (R59). -/
theorem State.restartBlock_manifest {s : State} {v : Verify} (h : s.restart.work = .readManifest v) (block : List Byte) :
    s.restartBlock block = (s.enqueueJob .restart (.digest [] block true)).setRestartWork (.manifestDigest v block) := by
  unfold State.restartBlock
  rw [h]

/-- A digest job of the restart controller joins the FIFO, and its work goes on. -/
theorem State.restartJob_queued (s : State) (k : JobKind) (w : RestartWork) :
    QueuesJob s ((s.enqueueJob .restart k).setRestartWork w).startNext .restart k ∧
      ((s.enqueueJob .restart k).setRestartWork w).startNext.restart = { s.restart with work := w } ∧
      { ((s.enqueueJob .restart k).setRestartWork w).startNext with
        restart := s.restart, crypto := s.crypto, draws := s.draws } = s := by
  have hq : QueuesJob s ((s.enqueueJob .restart k).setRestartWork w) .restart k := s.enqueueJob_queues .restart k
  have hf := s.enqueueJob_frame .restart k
  have hn := State.startNext_frame ((s.enqueueJob .restart k).setRestartWork w)
  refine ⟨hq.startNext, ?_, ?_⟩
  · rw [State.startNext_restart]
    exact congrArg (fun t : State => { t.restart with work := w }) hf
  · calc _ = { (s.enqueueJob .restart k).setRestartWork w with restart := s.restart, crypto := s.crypto, draws := s.draws } :=
        congrArg (fun t : State => { t with restart := s.restart, crypto := s.crypto, draws := s.draws }) hn
      _ = s := congrArg (fun t : State => { t with restart := s.restart, draws := s.draws }) hf

theorem State.tryHaltFlash_storage (s : State) : s.tryHaltFlash.storage = s.storage :=
  congrArg (·.storage) s.tryHaltFlash_frame

theorem State.tryHaltFlash_flash (s : State) : s.tryHaltFlash.flash = s.flash := congrArg (·.flash) s.tryHaltFlash_frame

/-- Settles O45: the handover changes the capacity and ends the operation left, and a background job reads up to its last byte. -/
theorem capacityAndBackgroundReads : Obligations.CapacityAndBackgroundReads := by
  refine ⟨fun id took s hrun => ⟨fun h => execCapacityHandover_known hrun h id took, fun h => ?_⟩, fun count s j hj => ⟨?_, ?_⟩,
    fun s j hrun hj => ⟨execBackgroundReadComplete_waits hrun hj, ?_⟩⟩
  · have hframe := (s.handedOver id took).tryHaltFlash_frame
    refine ⟨_, execCapacityHandover_first hrun h id took, ?_, fun hidle => ?_, fun op hop => ?_, ?_, fun h1 h2 => ?_,
      fun hid hw hb => ?_⟩
    · rw [State.tryHaltFlash_storage]; rfl
    · rw [State.tryHaltFlash_flash]; exact Flash.finish_idle hidle took
    · rw [State.tryHaltFlash_flash]
      exact ⟨Flash.finish_busy hop took, fun hwf => (Flash.finish_leaves took hop hwf).2⟩
    · exact congrArg (fun t : State => { t with storage := s.storage, flash := s.flash }) hframe
    · rw [State.tryHaltFlash_full rfl (capacityOf_full h1 h2)]; rfl
    · rw [State.tryHaltFlash_low (s := s.handedOver id took) rfl (capacityOf_low hid) hw hb]
      exact ⟨rfl, rfl, rfl, rfl, rfl⟩
  · exact fun h => execBackgroundJobRun_stays hj h count
  · intro hrun hidle hcap
    have hexec := execBackgroundJobRun_runs hj hrun hidle hcap count
    refine ⟨fun hout => hexec.trans (if_pos hout), ?_⟩
    rintro n hin rfl
    exact hexec.trans (if_neg (Nat.not_lt.mpr hin))
  · rintro v block hjob hu hw rfl
    obtain ⟨hq, hr, hframe⟩ := State.restartJob_queued { s with storage := { s.storage with link := .idle, job := none } }
      (.digest [] (s.readJob j j.left).bytes true) (.manifestDigest v (s.readJob j j.left).bytes)
    refine ⟨_, execBackgroundReadComplete_restart hrun hj hjob hu, ?_⟩
    rw [State.restartBlock_manifest (s := { s with storage := { s.storage with link := .idle, job := none } }) hw]
    exact ⟨congrArg (·.storage) hframe, hr, hq, congrArg (fun t : State => { t with storage := s.storage }) hframe⟩

end Sys2Proof.Machine
end

section
/-! # The ends of host forwards

What the last busy period of a host forward brings: the real flash, the link, the altered flags, the hits with their actions, and a
table loaded meanwhile (R8, R36, R40, R41, R77 to R86). -/

namespace Sys2Proof.Machine

open Sys2Proof

/-! ## The end of a busy period -/

/-- The state when the last operation of a forward has ended, before the completion is reported (R36, R40). -/
def State.forwardEnded (s : State) (took : Bool) : State :=
  { s with storage := { s.storage with forward := none, link := .idle }, flash := s.flash.finish took }

theorem execHostForwardComplete_goesOn {s : State} {f : HostForward} (hrun : s.running = true)
    (hf : s.storage.forward = some f) (h : f.completed + 1 < f.ops.length) (took : Bool) :
    exec (.hostForwardComplete took) s = .next s := by
  show execHostForwardComplete took s = _
  rw [execHostForwardComplete, whenRunning_eq hrun]
  simp only [hf, h, if_true]

theorem execHostForwardComplete_ends {s : State} {f : HostForward} (hrun : s.running = true)
    (hf : s.storage.forward = some f) (h : f.ops.length ≤ f.completed + 1) (took : Bool) :
    exec (.hostForwardComplete took) s = .next (((s.forwardEnded took).reportForward f).loadAfterForward).startNext := by
  show execHostForwardComplete took s = _
  rw [execHostForwardComplete, whenRunning_eq hrun]
  simp only [hf, Nat.not_lt.mpr h, if_false]
  rfl

theorem execSubstituteEraseNext_issues {s : State} {f : HostForward} {next : FlashOp} (hrun : s.running = true)
    (hf : s.storage.forward = some f) (h : f.ops[f.completed + 1]? = some next) (took : Bool) :
    exec (.substituteEraseNext took) s =
      .next { s with
        storage := { s.storage with forward := some { f with completed := f.completed + 1 } }
        flash := { s.flash.finish took with busy := some next } } := by
  show execSubstituteEraseNext took s = _
  rw [execSubstituteEraseNext, whenRunning_eq hrun]
  simp only [hf, h]

theorem execSubstituteEraseNext_last {s : State} {f : HostForward} (hrun : s.running = true)
    (hf : s.storage.forward = some f) (h : f.ops.length ≤ f.completed + 1) (took : Bool) :
    exec (.substituteEraseNext took) s = .next s := by
  show execSubstituteEraseNext took s = _
  rw [execSubstituteEraseNext, whenRunning_eq hrun]
  simp only [hf, List.getElem?_eq_none h]

/-- The report touches the watch unit, the alert unit, the reservations, the stamps, the crypto engine and the intake. -/
theorem State.reportForward_frame (s : State) (f : HostForward) :
    { s.reportForward f with
      watch := s.watch, alert := s.alert, creds := s.creds, time := s.time, crypto := s.crypto, intake := s.intake } = s := by
  unfold State.reportForward
  split
  · obtain ⟨_, _, _, _, e⟩ := s.reportCompletion_touches f
    dsimp only
    rw [e]
    split
    · rename_i r _
      obtain ⟨_, _, e'⟩ := State.stagingComplete_touches _ r
      rw [e']
    · rfl
  · rfl

/-- A loaded table that waited for the forward touches neither the real flash nor the link. -/
theorem State.loadAfterForward_frame (s : State) :
    { s.loadAfterForward with
      xlat := s.xlat, watch := s.watch, requests := s.requests, alert := s.alert, restart := s.restart, creds := s.creds } = s := by
  unfold State.loadAfterForward
  split
  · split
    · dsimp only
      obtain ⟨_, _, e0⟩ := s.forceLoaded.answerClaimed_touches .c0 .ok 0 []
      rw [e0]
      split <;> split
      · obtain ⟨_, _, e1⟩ := State.answerClaimed_touches { s.forceLoaded with requests := _, alert := _ } .c1 .ok 0 []
        rw [e1]
        rfl
      · rfl
      · obtain ⟨_, _, e1⟩ := s.forceLoaded.answerClaimed_touches .c1 .ok 0 []
        rw [e1]
        rfl
      · rfl
    · split <;> rfl
  · rfl

theorem State.loadAfterForward_none {s : State} (h : s.xlat.loadWaits = false) : s.loadAfterForward = s := by
  unfold State.loadAfterForward
  exact if_neg (by simp [h])

theorem State.forwardDone_storage (s : State) (f : HostForward) :
    ((s.reportForward f).loadAfterForward).startNext.storage = s.storage :=
  calc _ = (s.reportForward f).loadAfterForward.storage := State.startNext_storage _
    _ = (s.reportForward f).storage := congrArg (·.storage) (State.loadAfterForward_frame _)
    _ = s.storage := congrArg (·.storage) (s.reportForward_frame f)

theorem State.forwardDone_flash (s : State) (f : HostForward) :
    ((s.reportForward f).loadAfterForward).startNext.flash = s.flash :=
  calc _ = (s.reportForward f).loadAfterForward.flash := congrArg (·.flash) (State.startNext_frame _)
    _ = (s.reportForward f).flash := congrArg (·.flash) (State.loadAfterForward_frame _)
    _ = s.flash := congrArg (·.flash) (s.reportForward_frame f)

/-- A forward outside the STAGING region, with no loaded table that waits for it: the completion report is all (R36). -/
theorem State.forwardDone_reported {s : State} {f : HostForward} (hfed : s.EngineFed) (hload : s.xlat.loadWaits = false)
    (hr : f.reported = true) (hs : f.staging = none) :
    ((s.reportForward f).loadAfterForward).startNext = s.reportCompletion f := by
  obtain ⟨_, _, _, _, e⟩ := s.reportCompletion_touches f
  have hrep : s.reportForward f = s.reportCompletion f := by
    simp only [State.reportForward, hr, if_true, hs]
  rw [hrep, State.loadAfterForward_none (by rw [e]; exact hload), State.startNext_fed (by rw [e]; exact hfed)]

/-! ## The altered flags -/

theorem alteredBit_getLsbD (r : Option Nat) (i : Fin 16) : (alteredBit r).getLsbD i.val = decide (r = some i.val) := by
  cases r with
  | none => simp [alteredBit]
  | some n =>
    rw [alteredBit, BitVec.getLsbD_ofNat, Nat.testBit_two_pow]
    simp [i.isLt]

/-- Each covered region's flag is set, and the others stay (R83). -/
theorem altered_getLsbD (gs : List (Nat × Option Nat)) (a : BitVec 16) (i : Fin 16) :
    (gs.foldl (fun (a : BitVec 16) (g : Nat × Option Nat) => a ||| alteredBit g.2) a).getLsbD i.val =
      (a.getLsbD i.val || gs.any fun g => decide (g.2 = some i.val)) := by
  induction gs generalizing a with
  | nil => simp
  | cons g gs ih =>
    rw [List.foldl_cons, ih, BitVec.getLsbD_or, alteredBit_getLsbD, List.any_cons, Bool.or_assoc]

/-- The state in which the hits of a completion are taken: the altered flags are set (R83). -/
def State.altering (s : State) (f : HostForward) : State :=
  { s with
    watch := { s.watch with altered := f.granules.foldl (fun (a : BitVec 16) (g : Nat × Option Nat) => a ||| alteredBit g.2) s.watch.altered } }

theorem State.reportCompletion_eq (s : State) (f : HostForward) :
    s.reportCompletion f = (s.altering f).takeHits (completionHits s.watch.table f) := rfl

theorem State.reportCompletion_altered (s : State) (f : HostForward) (i : Fin 16) :
    (s.reportCompletion f).watch.altered.getLsbD i.val =
      (s.watch.altered.getLsbD i.val || f.granules.any fun g => decide (g.2 = some i.val)) := by
  obtain ⟨-, -, -, halt, -⟩ := (s.altering f).takeHits_hitFrame (completionHits s.watch.table f)
  rw [s.reportCompletion_eq, halt]
  exact altered_getLsbD _ _ _

theorem State.reportCompletion_frame (s : State) (f : HostForward) :
    { s.reportCompletion f with watch := s.watch, alert := s.alert, creds := s.creds, time := s.time } = s := by
  obtain ⟨_, _, _, _, e⟩ := s.reportCompletion_touches f
  rw [e]

/-! ## The hits of a completion -/

theorem completionHits_nil (f : HostForward) : completionHits [] f = [] := rfl

/-- One entry of the kind whose range the forward touches first with this granule gives one hit (R77). -/
theorem completionHits_single {w : WatchEntry} {f : HostForward} {g : Nat × Option Nat} {rest : List (Nat × Option Nat)}
    (hf : f.granules = g :: rest) (hw : w.watches f.kind = true) (hin : w.inRange g.1 = true) :
    completionHits [w] f = [⟨f.start, f.kind, g.2, some 0, w.alert, w.degrade, false⟩] := by
  simp [completionHits, hf, hw, hin, WatchEntry.hit]

theorem State.reportCompletion_silent {s : State} {f : HostForward} (ht : s.watch.table = []) (hw : s.watch.waiting = []) :
    s.reportCompletion f = s.altering f := by
  rw [s.reportCompletion_eq, ht, completionHits_nil, State.takeHits_nil (s := s.altering f) hw]

/-- Settles O46: each step of a host forward ends one operation on the real flash, and the last one is reported. -/
theorem hostForwardSteps : Obligations.HostForwardSteps := by
  refine ⟨fun took s f op next hrun hf hop hnext => ?_, fun took s f op hrun hwf hf hop hlast => ?_,
    fun took s f op hrun hfed hf hop hlast hstaging hload hrep => ?_⟩
  · obtain ⟨hlt, -⟩ := List.getElem?_eq_some_iff.1 hnext
    refine ⟨execHostForwardComplete_goesOn hrun hf hlt took, _, execSubstituteEraseNext_issues hrun hf hnext took, ?_,
      fun hwf => (Flash.finish_leaves took hop hwf).2⟩
    rw [Flash.finish_busy hop]
  · refine ⟨_, execHostForwardComplete_ends hrun hf hlast took, ?_⟩
    rw [State.forwardDone_flash]
    exact Flash.finish_leaves took hop hwf
  · have hdone := State.forwardDone_reported (s := s.forwardEnded took) hfed hload hrep hstaging
    have hframe := (s.forwardEnded took).reportCompletion_frame f
    refine ⟨execSubstituteEraseNext_last hrun hf hlast took, _, execHostForwardComplete_ends hrun hf hlast took, ?_⟩
    rw [hdone]
    refine ⟨congrArg (·.storage) hframe, (congrArg (·.flash) hframe).trans (Flash.finish_busy hop took),
      fun i => (s.forwardEnded took).reportCompletion_altered f i,
      congrArg (fun t : State => { t with storage := s.storage, flash := s.flash }) hframe, fun ht hw => ?_, ?_⟩
    · rw [State.reportCompletion_silent (s := s.forwardEnded took) ht hw]
      exact ⟨rfl, rfl, rfl, rfl⟩
    · intro w x g rest ht hx hg hkind h1 h2 ha hd
      have hin : w.inRange g.1 = true := by simp [WatchEntry.inRange, h1, h2]
      have hhits := completionHits_single hg hkind hin
      rw [(s.forwardEnded took).reportCompletion_eq, show (s.forwardEnded took).watch.table = [w] from ht, hhits,
        State.takeHits_recorded (s := (s.forwardEnded took).altering f) hx ha hd rfl]
      exact ⟨rfl, rfl, rfl, rfl, rfl⟩

/-! ## Hits with actions, and a table loaded meanwhile -/

theorem Trust.degraded_lt_level (x : Trust) : 1 < x.level ↔ x = .trial ∨ x = .verified := by
  cases x <;> decide

theorem PendingHit.falls_iff (h : PendingHit) (x : Trust) :
    h.falls x.level = true ↔ h.degrade = true ∧ (x = .trial ∨ x = .verified) := by
  simp [PendingHit.falls, x.degraded_lt_level]

/-- The reservation of a context after a fall of the trust level, or after none (R86, R152). -/
theorem Creds.onFall_reservation (x : Creds) (creds : Vector CredRecord 32) (falls : Bool) (c : Ctx) :
    (∀ ts, x.reservations.get c = .valid ts →
      (if falls then x.onFall creds else x).reservations.get c =
        if falls = true ∧ ∃ k ∈ ts, 1 < creds[k.1].minTrust then .lost ts else .valid ts) ∧
    ((∀ ts, x.reservations.get c ≠ .valid ts) →
      (if falls then x.onFall creds else x).reservations.get c = x.reservations.get c) := by
  have hget : (x.onFall creds).reservations.get c = (x.reservations.get c).onFall creds 1 := by cases c <;> rfl
  cases falls with
  | false => exact ⟨fun ts h => by simpa using h, fun _ => rfl⟩
  | true =>
    simp only [if_true, hget, true_and]
    refine ⟨fun ts h => ?_, fun h => ?_⟩
    · rw [h]
      exact if_congr (by simp) rfl rfl
    · cases hr : x.reservations.get c with
      | valid ts => exact absurd hr (h ts)
      | none => rfl
      | lost ts => rfl

theorem State.work?_of_not {s : State} {c : Ctx} {w : ExecWork} (h : ∀ q, (s.ctx c).request = some q → q.work ≠ w) :
    s.work? c ≠ some w := by
  unfold State.work?
  intro e
  obtain ⟨q, hq, hw⟩ := Option.map_eq_some_iff.1 e
  exact h q hq hw

theorem State.answerClaimed_other (s : State) (c : Ctx) (st : Status) (detail : Nat) (body : List Byte) :
    (s.answerClaimed c st detail body).ctx (otherCtx c) = s.ctx (otherCtx c) := by
  unfold State.answerClaimed State.dropClaim
  have h := State.ready_other s c (s.ctx c).response.echo.1 (s.ctx c).response.echo.2 st detail body
  split <;> exact h

/-- One waiting REGION_LOAD: its table enters force and it alone is answered (R8). -/
theorem State.loadAfterForward_answers {s : State} {c : Ctx} (hload : s.xlat.loadWaits = true)
    (hphase : s.restart.phase = .released) (hc : s.work? c = some .awaitForce)
    (hother : s.work? (otherCtx c) ≠ some .awaitForce) :
    s.loadAfterForward = s.forceLoaded.answerClaimed c .ok 0 [] := by
  unfold State.loadAfterForward
  rw [if_pos hload, if_pos hphase]
  dsimp only
  cases c with
  | c0 =>
    have h0 : s.forceLoaded.work? .c0 = some .awaitForce := hc
    have h1 : (s.forceLoaded.answerClaimed .c0 .ok 0 []).work? .c1 ≠ some .awaitForce := by
      unfold State.work?
      rw [show Ctx.c1 = otherCtx .c0 from rfl, State.answerClaimed_other]
      exact hother
    rw [if_pos h0, if_neg h1]
  | c1 =>
    have h0 : s.forceLoaded.work? .c0 ≠ some .awaitForce := hother
    have h1 : s.forceLoaded.work? .c1 = some .awaitForce := hc
    rw [if_neg h0, if_pos h1]

theorem State.claimed_self {s : State} {c : Ctx} (h : s.requests.claim = some c) : s.claimed c = s := by
  unfold State.claimed
  rw [← h]

/-- The holder of the claim is answered, and the claim clears with it (R122). -/
theorem State.answerClaimed_holder {s : State} {c : Ctx} {code tag : Nat} (hc : s.requests.claim = some c)
    (hr : (s.ctx c).response = .pending tag code) (st : Status) (detail : Nat) (body : List Byte) :
    (s.answerClaimed c st detail body).ctx c = ⟨.idle, [], none, none, none, .ready tag code st detail body, .none⟩ ∧
      (s.answerClaimed c st detail body).ctx (otherCtx c) = s.ctx (otherCtx c) ∧
      (s.answerClaimed c st detail body).requests.claim = none ∧
      AlertChange s (s.answerClaimed c st detail body) 0 (responseSource c) ∧
      { s.answerClaimed c st detail body with requests := s.requests, alert := s.alert } = s := by
  obtain ⟨⟨hctx, hother, -, -⟩, halert, hframe⟩ := s.answer_only hr st detail body
  have hclear := s.answerClaimed_clears c st detail body
  rw [State.claimed_self hc] at hclear
  rw [hclear]
  exact ⟨hctx, hother, rfl, halert, hframe⟩

theorem State.releaseTable_eq (s : State) :
    (⟨s.releaseTable, false⟩ : Translation) =
      ⟨match s.store.working.tables.get s.store.working.selector with
        | some u => .table s.store.working.selector u
        | none => if s.store.working.stage = .field then .none else .identity, false⟩ := by
  have hfield : (if s.inField = true then InForce.none else .identity) =
      if s.store.working.stage = .field then .none else .identity := if_congr decide_eq_true_iff rfl rfl
  unfold State.releaseTable
  rw [hfield]
  rfl

/-- The altered flags replaced. -/
def State.withAltered (s : State) (flags : BitVec 16) : State := { s with watch := { s.watch with altered := flags } }

/-- Without watch entries the report of a forward outside the STAGING region sets altered flags, if it is reported at all. -/
theorem State.reportForward_silent {s : State} {f : HostForward} (hs : f.staging = none) (ht : s.watch.table = [])
    (hw : s.watch.waiting = []) : ∃ flags, s.reportForward f = s.withAltered flags := by
  unfold State.reportForward
  split
  · dsimp only
    rw [State.reportCompletion_silent ht hw, hs]
    exact ⟨_, rfl⟩
  · exact ⟨s.watch.altered, rfl⟩

/-- Settles O47: the hit of the completion takes its actions, and the table that waited enters force behind it. -/
theorem forwardHitsAct : Obligations.ForwardHitsAct := by
  intro took s f op hrun hfed hf hop hlast
  refine ⟨_, execHostForwardComplete_ends hrun hf hlast took, State.forwardDone_storage _ f,
    (State.forwardDone_flash _ f).trans (Flash.finish_busy hop took), fun hrep hload => ?_, ?_, ?_⟩
  · have hsilent : (s.forwardEnded took).reportForward f = s.forwardEnded took := by simp [State.reportForward, hrep]
    rw [hsilent, State.loadAfterForward_none (s := s.forwardEnded took) hload, State.startNext_fed (s := s.forwardEnded took) hfed]
    rfl
  · intro w x g rest falls hrep hstaging hload ht hx hg hkind hin hfalls
    rw [State.forwardDone_reported (s := s.forwardEnded took) hfed hload hrep hstaging,
      (s.forwardEnded took).reportCompletion_eq, show (s.forwardEnded took).watch.table = [w] from ht,
      completionHits_single hg hkind hin]
    obtain ⟨htime, hwatch, halert, hcreds, hframe⟩ := State.takeHits_acts (s := (s.forwardEnded took).altering f) hx
      (h := ⟨f.start, f.kind, g.2, some 0, w.alert, w.degrade, false⟩) (Or.inr rfl)
    have hsame : PendingHit.falls ⟨f.start, f.kind, g.2, some 0, w.alert, w.degrade, false⟩
        ((s.forwardEnded took).altering f).watch.trust.level = falls :=
      Bool.eq_iff_iff.2 ((PendingHit.falls_iff _ _).trans hfalls.symm)
    rw [hsame] at hwatch halert hcreds
    have hres := s.creds.onFall_reservation s.store.working.creds falls
    refine ⟨congrArg (·.hits) hwatch, htime, congrArg (·.trust) hwatch, halert, ?_, fun c => ?_,
      congrArg (fun t : State => { t with storage := s.storage, flash := s.flash, watch := s.watch }) hframe⟩
    · rw [hcreds]
      cases falls <;> rfl
    · unfold State.reservation
      rw [hcreds]
      exact hres c
  · intro c tag body hstaging ht hw hload hphase hexec hclaim hother
    obtain ⟨flags, hrep⟩ := State.reportForward_silent (s := s.forwardEnded took) hstaging ht hw
    have hforced := State.loadAfterForward_answers (s := (s.forwardEnded took).withAltered flags) hload hphase
      (Executing.work? hexec) (State.work?_of_not hother)
    obtain ⟨hctx, hoth, hcl, halert, hframe⟩ := State.answerClaimed_holder
      (s := ((s.forwardEnded took).withAltered flags).forceLoaded) hclaim hexec.2.2 .ok 0 []
    have hfed' : State.EngineFed (((s.forwardEnded took).withAltered flags).forceLoaded.answerClaimed c .ok 0 []) := by
      obtain ⟨_, _, e⟩ := State.answerClaimed_touches ((s.forwardEnded took).withAltered flags).forceLoaded c .ok 0 []
      rw [e]
      exact hfed
    rw [hrep, hforced, State.startNext_fed hfed']
    refine ⟨(congrArg (·.xlat) hframe).trans s.releaseTable_eq, congrArg (·.watch) hframe, hctx, hoth, hcl, halert, ?_⟩
    exact congrArg (fun t : State => { t with storage := s.storage, flash := s.flash, xlat := s.xlat, watch := s.watch }) hframe

end Sys2Proof.Machine
end

section
/-! # Staging forwards and the stream

What a completed forward of the STAGING region does to the sector tracker and to the stream of a RECEIVING session (R36, R91, R93 to
R95). -/

namespace Sys2Proof.Machine

open Sys2Proof

/-! ## The stream -/

/-- A digest job over the whole buffer is queued, where the intake has none in the FIFO (R94). -/
theorem State.kickStream_queues {s : State} (hb : s.intake.buffer ≠ []) (hs : s.intake.session.broken = false)
    (hn : NoJob s .intake) :
    s.kickStream =
      { s with
        crypto := { s.crypto with queue := s.crypto.queue ++ [⟨.intake, .digest s.intake.absorbed s.intake.buffer false⟩] }
        intake := { s.intake with buffer := [], streamJob := true } } := by
  simp [State.kickStream, hb, hs, hn.holds, State.enqueueJob]

theorem State.kickStream_waits {s : State} (h : ¬ NoJob s .intake) : s.kickStream = s := by
  simp [State.kickStream, holds_of_not_noJob h]

/-- A kick moves the buffer into a job of the intake: the session, the tracker and everybody else's jobs stay. -/
theorem State.kickStream_keeps (s : State) :
    s.kickStream.intake.session = s.intake.session ∧ s.kickStream.intake.tracker = s.intake.tracker ∧
      s.kickStream.crypto.running = s.crypto.running ∧
      (s.kickStream.crypto.queue.filter fun j => j.requester ≠ .intake) = s.crypto.queue.filter fun j => j.requester ≠ .intake := by
  unfold State.kickStream
  split
  · rename_i h
    simp [State.enqueueJob, h.2.2]
  · exact ⟨rfl, rfl, rfl, rfl⟩

/-- The first break drops the stream (R95). -/
theorem State.breakStream_first {s : State} (h : s.intake.session.broken = false) (off : Nat) :
    s.breakStream off =
      (s.setSession
        { s.intake.session with
          broken := true, firstBreak := some off, breaks := satInc 0xFFFF s.intake.session.breaks }).dropStream := by
  simp [State.breakStream, h]

/-- A later discontinuity is counted (R95). -/
theorem State.breakStream_again {s : State} (h : s.intake.session.broken = true) (off : Nat) :
    s.breakStream off = s.setSession { s.intake.session with breaks := satInc 0xFFFF s.intake.session.breaks } := by
  simp only [State.breakStream, h, if_true]

/-- Only the intake has jobs behind an idle engine: none is left once the stream is dropped. -/
theorem State.dropStream_fed {s : State}
    (h : s.crypto.running = none → (s.crypto.queue.filter fun j => j.requester ≠ .intake) = []) : s.dropStream.EngineFed :=
  fun hr => h (Option.map_eq_none_iff.1 hr)

theorem State.EngineFed.filter {s : State} (h : s.EngineFed) (p : Job → Bool) (hr : s.crypto.running = none) :
    s.crypto.queue.filter p = [] := by
  rw [h hr]
  rfl

/-- The stream with the next expected bytes in its buffer. -/
def State.absorbing (s : State) (off : Nat) (bytes : List Byte) : State :=
  { s with
    intake :=
      { s.intake with
        buffer := s.intake.buffer ++ bytes
        session := { s.intake.session with expected := off + bytes.length } } }

section runs

variable {s : State} {off : Nat} {bytes : List Byte}

/-- The manifest sector is no part of the stream (R94). -/
theorem State.streamRun_manifest (h : off < 0x1000) : s.streamRun (off, bytes) = s := if_pos h

/-- The next expected bytes join the buffer (R94). -/
theorem State.streamRun_next (h : 0x1000 ≤ off) (hb : s.intake.session.broken = false)
    (he : off = s.intake.session.expected) (hroom : s.intake.buffer.length + bytes.length ≤ 4096) :
    s.streamRun (off, bytes) = (s.absorbing off bytes).kickStream := by
  have hok : ¬ s.intake.session.broken = true ∧ off = s.intake.session.expected ∧ s.intake.buffer.length + bytes.length ≤ 4096 :=
    ⟨by simp [hb], he, hroom⟩
  unfold State.streamRun
  dsimp only
  rw [if_neg (Nat.not_lt.mpr h), if_pos hok]
  rfl

/-- A run at another place, or one that the buffer has no room for, breaks the stream (R95). -/
theorem State.streamRun_breaks (h : 0x1000 ≤ off) (hb : s.intake.session.broken = false)
    (hne : off ≠ s.intake.session.expected ∨ 4096 < s.intake.buffer.length + bytes.length) :
    s.streamRun (off, bytes) =
      (s.setSession
        { s.intake.session with
          broken := true
          firstBreak := some off
          breaks := satInc 0xFFFF s.intake.session.breaks
          expected := off + bytes.length }).dropStream := by
  have hnot : ¬ (¬ s.intake.session.broken = true ∧ off = s.intake.session.expected ∧
      s.intake.buffer.length + bytes.length ≤ 4096) := fun ⟨_, h1, h2⟩ => hne.elim (· h1) (Nat.not_lt.mpr h2)
  have hbroken : ¬ (s.intake.session.broken = true ∧ off = s.intake.session.expected) := by simp [hb]
  unfold State.streamRun
  dsimp only
  rw [if_neg (Nat.not_lt.mpr h), if_neg hnot, if_neg hbroken, State.breakStream_first hb]
  rfl

/-- After a break only the discontinuities are counted (R95). -/
theorem State.streamRun_broken (h : 0x1000 ≤ off) (hb : s.intake.session.broken = true) :
    s.streamRun (off, bytes) =
      s.setSession
        { s.intake.session with
          breaks := if off = s.intake.session.expected then s.intake.session.breaks
            else satInc 0xFFFF s.intake.session.breaks
          expected := off + bytes.length } := by
  unfold State.streamRun
  dsimp only
  rw [if_neg (Nat.not_lt.mpr h), if_neg (by simp [hb])]
  by_cases he : off = s.intake.session.expected
  · simp only [hb, he, and_self, if_true]
  · rw [if_neg (by simp [he]), State.breakStream_again hb, if_neg he]
    rfl

end runs

/-! ## The tracker -/

theorem tracker_set (sectors : List Nat) (v : SectorState) (l : List SectorState) (i : Nat) :
    (sectors.foldl (fun (t : List SectorState) (i : Nat) => t.set i v) l)[i]? =
      if i ∈ sectors then l[i]?.map fun _ => v else l[i]? := by
  induction sectors generalizing l with
  | nil => simp
  | cons k ks ih =>
    rw [List.foldl_cons, ih, List.getElem?_set']
    by_cases hk : k = i
    · subst hk
      simp only [if_true, List.mem_cons, true_or]
      cases l[k]? <;> split <;> rfl
    · have hne : ¬ i = k := fun e => hk e.symm
      simp [hk, hne]

theorem Intake.holdsStream_iff (x : Intake) (k : Nat) :
    x.holdsStream k = true ↔ x.tracker[k]? = some .written ∧ 1 ≤ k ∧ k * 0x1000 < x.session.expected := by
  have hget : x.tracker.getD k .stale = .written ↔ x.tracker[k]? = some .written := by
    rw [List.getD_eq_getElem?_getD]
    cases x.tracker[k]? <;> simp
  simp only [Intake.holdsStream, Bool.and_eq_true, decide_eq_true_eq, hget, and_assoc]

/-! ## Completions -/

theorem State.stagingComplete_other {s : State} (h : s.intake.session.state ≠ .receiving) (r : StagingReport) :
    s.stagingComplete r = s := if_pos h

theorem State.stagingComplete_program {s : State} (h : s.intake.session.state = .receiving) (runs : List (Nat × List Byte)) :
    s.stagingComplete (.program runs) = runs.foldl State.streamRun (s.setSectors (runs.map fun x => x.1 / 0x1000) .written) :=
  if_neg (not_not.mpr h)

/-- Erased sectors that hold no stream bytes leave the stream alone (R93). -/
theorem State.stagingComplete_erase_apart {s : State} (h : s.intake.session.state = .receiving) {ks : List Nat}
    (hk : ∀ k ∈ ks, s.intake.holdsStream k = false) : s.stagingComplete (.erase ks) = s.setSectors ks .erased := by
  have hfind : ks.find? s.intake.holdsStream = none := List.find?_eq_none.2 fun k hks => by simp [hk k hks]
  unfold State.stagingComplete
  simp only [h, ne_eq, not_true_eq_false, if_false, hfind]

/-- The lowest erased sector that holds stream bytes breaks the stream (R95). -/
theorem State.stagingComplete_erase_breaks {s : State} (h : s.intake.session.state = .receiving) {pre post : List Nat} {k : Nat}
    (hpre : ∀ j ∈ pre, s.intake.holdsStream j = false) (hk : s.intake.holdsStream k = true) :
    s.stagingComplete (.erase (pre ++ k :: post)) = (s.breakStream (k * 0x1000)).setSectors (pre ++ k :: post) .erased := by
  have hfind : (pre ++ k :: post).find? s.intake.holdsStream = some k := by
    rw [List.find?_append, List.find?_eq_none.2 fun j hj => by simp [hpre j hj]]
    simp [hk]
  unfold State.stagingComplete
  simp only [h, ne_eq, not_true_eq_false, if_false, hfind]

/-- The completion of a forward of the STAGING region, without watch entries (R36). -/
theorem State.forwardDone_staging {s : State} {f : HostForward} {r : StagingReport} (hr : f.reported = true)
    (hs : f.staging = some r) (hload : s.xlat.loadWaits = false) (ht : s.watch.table = []) (hw : s.watch.waiting = []) :
    ((s.reportForward f).loadAfterForward).startNext = ((s.altering f).stagingComplete r).startNext := by
  have hrep : s.reportForward f = (s.altering f).stagingComplete r := by
    simp only [State.reportForward, hr, if_true, hs, State.reportCompletion_silent ht hw]
  obtain ⟨_, _, e⟩ := (s.altering f).stagingComplete_touches r
  rw [hrep, State.loadAfterForward_none (by rw [e]; exact hload)]

theorem State.stagingComplete_frame (s : State) (r : StagingReport) :
    { (s.stagingComplete r).startNext with crypto := s.crypto, intake := s.intake, draws := s.draws } = s := by
  obtain ⟨_, _, e⟩ := s.stagingComplete_touches r
  obtain ⟨_, _, e'⟩ := (s.stagingComplete r).startNext_touches
  rw [e', e]

theorem State.streamRun_tracker (s : State) (run : Nat × List Byte) :
    (s.streamRun run).intake.tracker = s.intake.tracker := by
  have hbreak : ∀ off, (s.breakStream off).intake.tracker = s.intake.tracker := fun off => by
    unfold State.breakStream
    dsimp only
    split <;> rfl
  unfold State.streamRun
  dsimp only
  split
  · rfl
  · split
    · exact (State.kickStream_keeps _).2.1
    · split
      · rfl
      · exact hbreak _

theorem State.stagingComplete_erase_tracker {s : State} (h : s.intake.session.state = .receiving) (ks : List Nat) :
    (s.stagingComplete (.erase ks)).intake.tracker = (s.setSectors ks .erased).intake.tracker := by
  have hbreak : ∀ off, (s.breakStream off).intake.tracker = s.intake.tracker := fun off => by
    unfold State.breakStream
    dsimp only
    split <;> rfl
  unfold State.stagingComplete
  rw [if_neg (not_not.mpr h)]
  dsimp only
  split
  · exact congrArg (fun l : List SectorState => ks.foldl (fun (t : List SectorState) (i : Nat) => t.set i .erased) l) (hbreak _)
  · rfl

theorem State.setSession_fed {s : State} (h : s.EngineFed) (x : Session) : (s.setSession x).EngineFed := h

theorem State.setSession_startNext {s : State} (h : s.EngineFed) (x : Session) :
    (s.setSession x).startNext = s.setSession x := State.startNext_fed (State.setSession_fed h x)

theorem State.setSectors_startNext {s : State} (h : s.EngineFed) (l : List Nat) (v : SectorState) :
    (s.setSectors l v).startNext = s.setSectors l v := State.startNext_fed (s := s.setSectors l v) h

theorem State.startNext_intake (s : State) : s.startNext.intake = s.intake := congrArg (·.intake) s.startNext_frame

section completions

variable {s t : State}

/-- A program of one run marks its sector, and the run is accounted (R93, R94). -/
theorem State.stagingComplete_run (h : s.intake.session.state = .receiving) (off : Nat) (bytes : List Byte) :
    s.stagingComplete (.program [(off, bytes)]) = (s.setSectors [off / 0x1000] .written).streamRun (off, bytes) :=
  State.stagingComplete_program h _

/-- What the stream is after its first break: its buffer and its jobs have gone (R95). -/
theorem State.broken_stream {s : State}
    (hfed : s.crypto.running = none → (s.crypto.queue.filter fun j => j.requester ≠ .intake) = []) (x : Session) (ht : t = (s.setSession x).dropStream.startNext) :
    t.intake = { s.intake with session := x, buffer := [], absorbed := [], streamJob := false } ∧
      t.crypto.queue = s.crypto.queue.filter fun j => j.requester ≠ .intake := by
  have hdrop : (s.setSession x).dropStream.EngineFed := State.dropStream_fed hfed
  rw [ht, State.startNext_fed hdrop]
  exact ⟨rfl, rfl⟩

/-- The first run of a program, where the stream takes it (R94). -/
theorem State.streamRun_absorbed {off : Nat} {bytes : List Byte} (hfed : s.EngineFed) (h : 0x1000 ≤ off)
    (hb : s.intake.session.broken = false) (he : off = s.intake.session.expected)
    (hroom : s.intake.buffer.length + bytes.length ≤ 4096) (hbytes : bytes ≠ [])
    (ht : t = (s.streamRun (off, bytes)).startNext) :
    t.intake.tracker = s.intake.tracker ∧ t.intake.session = { s.intake.session with expected := off + bytes.length } ∧
      (NoJob s .intake →
        t.intake.buffer = [] ∧ t.intake.streamJob = true ∧
          QueuesJob s t .intake (.digest s.intake.absorbed (s.intake.buffer ++ bytes) false)) ∧
      (¬ NoJob s .intake → t.intake.buffer = s.intake.buffer ++ bytes ∧ t.crypto = s.crypto) := by
  subst ht
  rw [State.streamRun_next h hb he hroom]
  by_cases hn : NoJob s .intake
  · have hne : s.intake.buffer ++ bytes ≠ [] := fun e => hbytes (List.append_eq_nil_iff.1 e).2
    have hkick := State.kickStream_queues (s := s.absorbing off bytes) hne hb hn
    have hqueues : QueuesJob s (s.absorbing off bytes).kickStream .intake
        (.digest s.intake.absorbed (s.intake.buffer ++ bytes) false) := by
      rw [hkick]
      exact ⟨fun _ => ⟨(List.append_assoc _ _ _).symm, rfl⟩, fun e => absurd hn e⟩
    rw [State.startNext_intake]
    refine ⟨?_, ?_, fun _ => ⟨?_, ?_, hqueues.startNext⟩, fun e => absurd hn e⟩ <;> rw [hkick] <;> rfl
  · have hkick := State.kickStream_waits (s := s.absorbing off bytes) hn
    rw [hkick, State.startNext_fed (s := s.absorbing off bytes) hfed]
    exact ⟨rfl, rfl, fun e => absurd e hn, fun _ => ⟨rfl, rfl⟩⟩

/-- A program that wraps in its page: its second run goes back, and breaks the stream (R95). -/
theorem State.streamRun_wraps {off low : Nat} {bytes wrapped : List Byte} (hfed : s.EngineFed) (hlow : 0x1000 ≤ low)
    (hlt : low < off) (hb : s.intake.session.broken = false) (he : off = s.intake.session.expected)
    (hroom : s.intake.buffer.length + bytes.length ≤ 4096)
    (ht : t = ((s.streamRun (off, bytes)).streamRun (low, wrapped)).startNext) :
    t.intake.tracker = s.intake.tracker ∧
      t.intake.session =
        { s.intake.session with
          broken := true
          firstBreak := some low
          breaks := satInc 0xFFFF s.intake.session.breaks
          expected := low + wrapped.length } ∧
      t.intake.buffer = [] ∧ t.intake.streamJob = false ∧
      t.crypto.queue = s.crypto.queue.filter (fun j => j.requester ≠ .intake) := by
  obtain ⟨hsession, htracker, hrunning, hqueue⟩ := (s.absorbing off bytes).kickStream_keeps
  rw [State.streamRun_next (Nat.le_trans hlow (Nat.le_of_lt hlt)) hb he hroom,
    State.streamRun_breaks hlow (by rw [hsession]; exact hb)
      (Or.inl (by rw [hsession]; exact fun e => absurd e (by show low ≠ off + bytes.length; omega)))] at ht
  obtain ⟨hintake, hjobs⟩ := State.broken_stream (fun hr => hqueue.trans (hfed.filter _ (hrunning.symm.trans hr))) _ ht
  rw [hintake, hjobs, hsession, htracker]
  exact ⟨rfl, rfl, rfl, rfl, hqueue⟩

/-- A program's run, after its sector has been marked (R93 to R95). -/
theorem State.streamRun_accounted {off : Nat} {bytes : List Byte} (hfed : s.EngineFed)
    (ht : t = (s.streamRun (off, bytes)).startNext) :
    t.intake.tracker = s.intake.tracker ∧
      (off < 0x1000 → t.intake.session = s.intake.session ∧ t.intake.buffer = s.intake.buffer ∧ t.crypto = s.crypto) ∧
      (0x1000 ≤ off → s.intake.session.broken = false → off = s.intake.session.expected →
        s.intake.buffer.length + bytes.length ≤ 4096 → bytes ≠ [] →
          t.intake.session = { s.intake.session with expected := off + bytes.length } ∧
          (NoJob s .intake →
            t.intake.buffer = [] ∧ t.intake.streamJob = true ∧
              QueuesJob s t .intake (.digest s.intake.absorbed (s.intake.buffer ++ bytes) false)) ∧
          (¬ NoJob s .intake → t.intake.buffer = s.intake.buffer ++ bytes ∧ t.crypto = s.crypto)) ∧
      (0x1000 ≤ off → s.intake.session.broken = false →
        off ≠ s.intake.session.expected ∨ 4096 < s.intake.buffer.length + bytes.length →
          t.intake.session =
              { s.intake.session with
                broken := true
                firstBreak := some off
                breaks := satInc 0xFFFF s.intake.session.breaks
                expected := off + bytes.length } ∧
            t.intake.buffer = [] ∧ t.intake.streamJob = false ∧
            t.crypto.queue = s.crypto.queue.filter (fun j => j.requester ≠ .intake)) ∧
      (0x1000 ≤ off → s.intake.session.broken = true →
        t.intake.session =
            { s.intake.session with
              breaks := if off = s.intake.session.expected then s.intake.session.breaks
                else satInc 0xFFFF s.intake.session.breaks
              expected := off + bytes.length } ∧
          t.intake.buffer = s.intake.buffer ∧ t.crypto = s.crypto) := by
  refine ⟨?_, fun hman => ?_, fun hoff hb he hroom hbytes => (State.streamRun_absorbed hfed hoff hb he hroom hbytes ht).2,
    fun hoff hb hne => ?_, fun hoff hb => ?_⟩
  · rw [ht, State.startNext_intake, State.streamRun_tracker]
  · rw [ht, State.streamRun_manifest hman, State.startNext_fed hfed]
    exact ⟨rfl, rfl, rfl⟩
  · rw [State.streamRun_breaks hoff hb hne] at ht
    obtain ⟨hintake, hjobs⟩ := State.broken_stream (fun hr => hfed.filter _ hr) _ ht
    rw [hintake, hjobs]
    exact ⟨rfl, rfl, rfl, rfl⟩
  · rw [ht, State.streamRun_broken hoff hb, State.setSession_startNext hfed]
    exact ⟨rfl, rfl, rfl⟩

/-- An erase marks its sectors ERASED, and breaks the stream at the lowest one that holds stream bytes (R93, R95). -/
theorem State.stagingComplete_erased {ks : List Nat} (hfed : s.EngineFed) (h : s.intake.session.state = .receiving)
    (ht : t = (s.stagingComplete (.erase ks)).startNext) :
    (∀ i : Nat, t.intake.tracker[i]? =
        if i ∈ ks then s.intake.tracker[i]?.map fun _ => .erased else s.intake.tracker[i]?) ∧
      ((∀ k ∈ ks, s.intake.holdsStream k = false) →
        t.intake.session = s.intake.session ∧ t.intake.buffer = s.intake.buffer ∧ t.crypto = s.crypto) ∧
      ∀ (pre post : List Nat) (k : Nat), ks = pre ++ k :: post → (∀ j ∈ pre, s.intake.holdsStream j = false) →
        s.intake.holdsStream k = true →
          t.intake.session =
              { s.intake.session with
                broken := true
                firstBreak := if s.intake.session.broken then s.intake.session.firstBreak else some (k * 0x1000)
                breaks := satInc 0xFFFF s.intake.session.breaks } ∧
            (s.intake.session.broken = true → t.intake.buffer = s.intake.buffer ∧ t.crypto = s.crypto) ∧
            (s.intake.session.broken = false →
              t.intake.buffer = [] ∧ t.intake.streamJob = false ∧
                t.crypto.queue = s.crypto.queue.filter (fun j => j.requester ≠ .intake)) := by
  subst ht
  refine ⟨fun i => ?_, fun hk => ?_, ?_⟩
  · rw [State.startNext_intake, State.stagingComplete_erase_tracker h]
    exact tracker_set ks .erased s.intake.tracker i
  · rw [State.stagingComplete_erase_apart h hk, State.startNext_fed (s := s.setSectors ks .erased) hfed]
    exact ⟨rfl, rfl, rfl⟩
  · rintro pre post k rfl hpre hk
    rw [State.stagingComplete_erase_breaks h hpre hk]
    cases hb : s.intake.session.broken with
    | true =>
      rw [State.breakStream_again hb, State.setSectors_startNext (State.setSession_fed hfed _)]
      exact ⟨congrArg (fun b => { s.intake.session with broken := b, breaks := satInc 0xFFFF s.intake.session.breaks }) hb,
        fun _ => ⟨rfl, rfl⟩, (fun e => nomatch e)⟩
    | false =>
      rw [State.breakStream_first hb]
      obtain ⟨hintake, hjobs⟩ := State.broken_stream (s := s.setSectors (pre ++ k :: post) .erased)
        (fun hr => hfed.filter _ hr)
        { s.intake.session with
          broken := true, firstBreak := some (k * 0x1000), breaks := satInc 0xFFFF s.intake.session.breaks } rfl
      exact ⟨congrArg (·.session) hintake, (fun e => nomatch e),
        fun _ => ⟨congrArg (·.buffer) hintake, congrArg (·.streamJob) hintake, hjobs⟩⟩

end completions

/-- Settles O48: one run, a wrapping program and an erase, each accounted to the stream of a RECEIVING session. -/
theorem stagingForwardsAreAccounted : Obligations.StagingForwardsAreAccounted := by
  intro s f op r hrun hfed hf hop hlast hrep hstaging hload htable hwait
  have hdone := State.forwardDone_staging (s := s.forwardEnded true) hrep hstaging hload htable hwait
  have hexec := execHostForwardComplete_ends hrun hf hlast true
  rw [hdone] at hexec
  have hframe := ((s.forwardEnded true).altering f).stagingComplete_frame r
  refine ⟨_, hexec, (congrArg (·.flash) hframe).trans (Flash.finish_busy hop true), congrArg (·.storage) hframe, fun hstate => ?_,
    fun off bytes hstate hr => ?_, fun off low bytes wrapped hstate hr hpage hlow hlt hb he hroom => ?_,
    fun ks holds hstate hr hholds => ?_,
    congrArg (fun t : State => { t with storage := s.storage, flash := s.flash, watch := s.watch }) hframe⟩
  · rw [State.stagingComplete_other (s := (s.forwardEnded true).altering f) hstate,
      State.startNext_fed (s := (s.forwardEnded true).altering f) hfed]
    exact ⟨rfl, rfl⟩
  · subst hr
    rw [State.stagingComplete_run (s := (s.forwardEnded true).altering f) hstate]
    exact State.streamRun_accounted (s := ((s.forwardEnded true).altering f).setSectors [off / 0x1000] .written) hfed rfl
  · subst hr
    rw [State.stagingComplete_program (s := (s.forwardEnded true).altering f) hstate]
    have htracker : (s.intake.tracker.set (off / 0x1000) .written).set (low / 0x1000) .written =
        s.intake.tracker.set (off / 0x1000) .written := by rw [hpage, List.set_set]
    obtain ⟨htrack, hrest⟩ := State.streamRun_wraps (wrapped := wrapped)
      (s := ((s.forwardEnded true).altering f).setSectors [off / 0x1000, low / 0x1000] .written) hfed hlow hlt hb he hroom rfl
    exact ⟨htrack.trans htracker, hrest⟩
  · subst hr
    have hsame : ∀ k, holds k = s.intake.holdsStream k := fun k =>
      Bool.eq_iff_iff.2 ((hholds k).trans (s.intake.holdsStream_iff k).symm)
    obtain rfl : holds = s.intake.holdsStream := funext hsame
    exact State.stagingComplete_erased (s := (s.forwardEnded true).altering f) hfed hstate rfl

end Sys2Proof.Machine
end

section
/-! # Valid tables

What the checks of R5 say of a table, and that no program or erase reaches the active slot area under it (the law of R13). -/

namespace Sys2Proof.Machine

open Sys2Proof

/-! ## The checks, read as facts -/

theorem pairwise_get {α : Type} {r : α → α → Bool} {xs : List α} (h : pairwise r xs = true) {i j : Nat} {x y : α}
    (hi : xs[i]? = some x) (hj : xs[j]? = some y) (hij : i < j) : r x y = true := by
  induction xs generalizing i j with
  | nil => simp at hi
  | cons z zs ih =>
    simp only [pairwise, Bool.and_eq_true, List.all_eq_true] at h
    obtain ⟨hhead, htail⟩ := h
    cases j with
    | zero => omega
    | succ j =>
      rw [List.getElem?_cons_succ] at hj
      cases i with
      | zero =>
        rw [List.getElem?_cons_zero] at hi
        cases hi
        exact hhead y (List.mem_of_getElem? hj)
      | succ i => exact ih htail (by rwa [List.getElem?_cons_succ] at hi) hj (Nat.lt_of_succ_lt_succ hij)

theorem apart_iff (lo hi lo' hi' : Nat) : apart lo hi lo' hi' = true ↔ hi ≤ lo' ∨ hi' ≤ lo := by simp [apart]

theorem Descriptor.covers_iff (d : Descriptor) (g : Nat) : d.covers g = true ↔ d.base ≤ g ∧ g < d.base + d.length := by
  simp [Descriptor.covers]

theorem Table.all_checks {u : Table} (h : u.valid = true) : u.checks.all (fun c => c.2) = true := by
  have hnone : u.firstFailure = none := of_decide_eq_true h
  have hfind := List.find?_eq_none.1 (Option.map_eq_none_iff.1 hnone)
  rw [List.all_eq_true]
  intro c hc
  simpa using hfind c hc

/-- The checks of R5 that bound where a table's bytes can lie. -/
structure Table.Placed (u : Table) : Prop where
  count : 1 ≤ u.descriptors.length ∧ u.descriptors.length ≤ 16
  kinds : ∀ d ∈ u.descriptors, d.kind?.isSome = true
  slots : u.baseA + u.slotSize ≤ flashSize ∧ u.baseB + u.slotSize ≤ flashSize ∧
    (u.baseA + u.slotSize ≤ u.baseB ∨ u.baseB + u.slotSize ≤ u.baseA)
  below : ∀ d ∈ u.descriptors, d.base + d.length ≤ 0xFFC
  disjoint : pairwise (fun (d e : Descriptor) => apart d.base (d.base + d.length) e.base (e.base + e.length)) u.descriptors = true
  oneStaging : (u.descriptors.filter fun d => d.kind? = some .staging).length = 1
  image : ∀ d ∈ u.descriptors, d.kind? = some .image → d.offset + d.length * 0x1000 ≤ u.slotSize
  fixed : ∀ d ∈ u.descriptors, d.fixed = true →
    d.offset + d.length * 0x1000 ≤ flashSize ∧
      (d.offset + d.length * 0x1000 ≤ u.baseA ∨ u.baseA + u.slotSize ≤ d.offset) ∧
      (d.offset + d.length * 0x1000 ≤ u.baseB ∨ u.baseB + u.slotSize ≤ d.offset)

theorem Table.placed {u : Table} (h : u.valid = true) : u.Placed := by
  have hall := Table.all_checks h
  simp only [Table.checks, List.all_cons, List.all_nil, Bool.and_true, Bool.and_eq_true, decide_eq_true_eq, List.all_eq_true,
    Bool.or_eq_true, apart_iff, Bool.not_eq_true'] at hall
  obtain ⟨hcount, -, hkinds, -, -, -, ⟨⟨ha, hb⟩, hab⟩, hbelow, hdisjoint, hone, -, -, himage, hfixed, -⟩ := hall
  refine ⟨hcount, hkinds, ⟨ha, hb, hab⟩, hbelow, hdisjoint, hone, fun d hd hk => ?_, fun d hd hk => ?_⟩
  · exact (himage d hd).resolve_left (by simp [hk])
  · obtain ⟨⟨hend, hA⟩, hB⟩ := (hfixed d hd).resolve_left (by simp [hk])
    exact ⟨hend, hA, hB⟩

/-! ## Where a valid table's bytes lie -/

theorem Table.Placed.covers_disjoint {u : Table} (h : u.Placed) {i j : Nat} {d e : Descriptor} {g : Nat}
    (hi : u.descriptors[i]? = some d) (hj : u.descriptors[j]? = some e) (hij : i ≠ j) (hd : d.covers g = true) :
    e.covers g = false := by
  rw [Descriptor.covers_iff] at hd
  refine Bool.eq_false_iff.mpr fun he => ?_
  rw [Descriptor.covers_iff] at he
  rcases Nat.lt_or_gt_of_ne hij with hlt | hgt
  · have := (apart_iff _ _ _ _).1 (pairwise_get h.disjoint hi hj hlt)
    omega
  · have := (apart_iff _ _ _ _).1 (pairwise_get h.disjoint hj hi hgt)
    omega

/-- The one STAGING descriptor gives the STAGING length. -/
theorem Table.Placed.stagingLength {u : Table} (h : u.Placed) {d : Descriptor} (hd : d ∈ u.descriptors)
    (hk : d.kind? = some .staging) : u.stagingLength = d.length * 0x1000 := by
  obtain ⟨x, hx⟩ := List.length_eq_one_iff.1 h.oneStaging
  have hmem : d ∈ u.descriptors.filter fun d => d.kind? = some .staging := List.mem_filter.2 ⟨hd, by simpa using hk⟩
  have hdx : d = x := by simpa [hx] using hmem
  have hfind : u.descriptors.find? (fun d => d.kind? = some .staging) = some d := by
    rw [← List.head?_filter, hx, hdx]
    rfl
  unfold Table.stagingLength
  rw [hfind]

theorem Table.Placed.slotBase_below {u : Table} (h : u.Placed) (k : Slot) : u.slotBase k + u.slotSize ≤ flashSize := by
  obtain ⟨ha, hb, -⟩ := h.slots
  cases k with
  | a => exact ha
  | b => exact hb

theorem Table.Placed.slots_apart {u : Table} (h : u.Placed) (k : Slot) :
    u.slotBase k + u.slotSize ≤ u.slotBase k.other ∨ u.slotBase k.other + u.slotSize ≤ u.slotBase k := by
  obtain ⟨-, -, hab⟩ := h.slots
  cases k with
  | a => exact hab
  | b => exact hab.symm

theorem Table.Placed.fixed_apart {u : Table} (h : u.Placed) {d : Descriptor} (hd : d ∈ u.descriptors) (hk : d.fixed = true)
    (k : Slot) : d.offset + d.length * 0x1000 ≤ u.slotBase k ∨ u.slotBase k + u.slotSize ≤ d.offset := by
  obtain ⟨-, ha, hb⟩ := h.fixed d hd hk
  cases k with
  | a => exact ha
  | b => exact hb

/-- Every byte that a valid table maps lies on the real flash (R2, R5). -/
theorem Table.Placed.physical_below {u : Table} (h : u.Placed) {d : Descriptor} (hd : d ∈ u.descriptors) {k : Kind}
    (hk : d.kind? = some k) (active : Slot) {bank o : Nat} (ho : o < d.length * 0x1000)
    (hbank : bank + u.stagingLength ≤ u.slotSize) : physical u active bank d k o < flashSize := by
  cases k with
  | image =>
    have hslot := h.slotBase_below active
    have himage := h.image d hd hk
    show u.slotBase active + d.offset + o < flashSize
    omega
  | staging =>
    have hslot := h.slotBase_below active.other
    rw [h.stagingLength hd hk] at hbank
    show u.slotBase active.other + bank + o < flashSize
    omega
  | data | locked | hidden =>
    obtain ⟨hend, -, -⟩ := h.fixed d hd (by simp [Descriptor.fixed, hk])
    show d.offset + o < flashSize
    omega

theorem toFlash_forward {p q : Nat} {region : Option Nat} {kind : Option Kind} {at_ : Nat} {v : Verdict}
    (h : (toFlash p region kind at_ v).verdict = .forward q) (hv : ∀ x, v ≠ .forward x) : p = q := by
  unfold toFlash at h
  split at h
  · cases h; rfl
  · exact absurd h (hv q)

/-- Where a place lies in a region, its descriptor covers the address. -/
theorem State.place_region {s : State} {l : Nat} {t : Table} {d : Descriptor} {k : Kind} {o : Nat}
    (h : s.place l = .region t d k o) :
    (∃ binding, s.xlat.inForce = .table binding t) ∧ d ∈ t.descriptors ∧ d.kind? = some k ∧ o < d.length * 0x1000 := by
  unfold State.place at h
  split at h
  · cases h
  · split at h
    · cases h
    · cases h
    · rename_i binding u hu
      split at h
      · cases h
      · rename_i e he
        split at h
        · rename_i k' hk
          cases h
          have hcov := (d.covers_iff _).1 (by simpa using List.find?_some he)
          exact ⟨⟨binding, hu⟩, List.mem_of_find?_eq_some he, hk, by omega⟩
        · cases h

theorem State.place_identity {s : State} {l : Nat} (h : s.place l = .identity) : s.xlat.inForce = .identity := by
  unfold State.place at h
  split at h
  · cases h
  · split at h
    · cases h
    · assumption
    · split at h
      · cases h
      · split at h <;> cases h

/-- A program or erase goes to a DATA region's fixed area or into the inactive slot area (R13). -/
theorem State.translateWrite_forward {s : State} {program : Bool} {l p : Nat} {binding : Slot} {u : Table}
    (hu : s.xlat.inForce = .table binding u) (h : (s.translateWrite program l).verdict = .forward p) :
    ∃ d ∈ u.descriptors, ∃ o, o < d.length * 0x1000 ∧
      (d.kind? = some .data ∧ p = d.offset + o ∨
        d.kind? = some .staging ∧ p = u.slotBase s.active.other + s.intake.session.bank + o) := by
  unfold State.translateWrite at h
  split at h
  · cases h
  · cases h
  · rename_i hplace
    have hplace := State.place_identity hplace
    rw [hu] at hplace
    cases hplace
  · rename_i t d k o hplace
    obtain ⟨⟨_, hsame⟩, hd, hk, ho⟩ := State.place_region hplace
    rw [hu] at hsame
    cases hsame
    refine ⟨d, hd, o, ho, ?_⟩
    cases k with
    | image | locked | hidden => cases h
    | data =>
      dsimp only at h
      split at h
      · exact Or.inl ⟨hk, (toFlash_forward h fun _ => nofun).symm⟩
      · cases h
    | staging =>
      dsimp only at h
      split at h
      · exact Or.inr ⟨hk, (toFlash_forward h fun _ => nofun).symm⟩
      · cases h

/-- Settles O60: the checks of R5, read as facts, bound every byte, and a write goes to a fixed area or the inactive slot. -/
theorem validTablesSpareTheActiveSlot : Obligations.ValidTablesSpareTheActiveSlot := by
  refine ⟨fun u hu => ?_, fun s k u program l p hforce hu hbank hp => ?_⟩
  · have h := Table.placed hu
    refine ⟨h.count.1, h.count.2, fun i j d e g hi hj hij hd => h.covers_disjoint hi hj hij hd, fun d hd g hg => ?_,
      fun d hd => ?_⟩
    · have := h.below d hd
      have := (d.covers_iff g).1 hg
      omega
    · obtain ⟨k, hk⟩ := Option.isSome_iff_exists.1 (h.kinds d hd)
      exact ⟨k, hk, fun active bank o ho hbank => h.physical_below hd hk active ho hbank⟩
  · have h := Table.placed hu
    obtain ⟨d, hd, o, ho, ⟨hk, rfl⟩ | ⟨hk, rfl⟩⟩ := State.translateWrite_forward hforce hp
    · have := h.fixed_apart hd (by simp [Descriptor.fixed, hk]) s.store.working.selector
      omega
    · have := h.slots_apart s.store.working.selector
      rw [h.stagingLength hd hk] at hbank
      show u.slotBase s.store.working.selector.other + s.intake.session.bank + o < _ ∨ _ ≤ u.slotBase s.store.working.selector.other + _ + _
      omega

end Sys2Proof.Machine
end

section
/-! # The release sequence

The digest jobs of the release, its wait for a forward issued before a loaded table, and the release itself (R6 to R8, R63, R65, R66,
R84, R149). -/

namespace Sys2Proof.Machine

open Sys2Proof

/-! ## The release -/

theorem vzip_getElem {α β γ : Type} {n : Nat} (f : α → β → γ) (v : Vector α n) (w : Vector β n) (i : Fin n) :
    (vzip f v w)[i] = f v[i] w[i] := by
  simp [vzip, Vector.getElem_mk]

/-- A lockout is armed anew for each VERIFIER slot whose fail count is 5 or more (R149). -/
theorem releaseLockouts_getElem (tick : Nat) (r : Retained) (i : Fin 32) :
    (releaseLockouts tick r)[i] =
      (match r.creds[i].content with
      | some ⟨_, .verifier _ _, _, _, _⟩ =>
        if 5 ≤ r.failCounts[i] then some (tick + 30000 * 2 ^ min (r.failCounts[i] - 5) 5) else none
      | _ => none) := by
  rw [releaseLockouts, vzip_getElem]
  unfold CredRecord.isVerifier lockoutLength
  rcases r.creds[i].content with _ | ⟨label, value, minTrust, windowOnly, notAfter⟩
  · rfl
  · cases value with
    | secret _ => rfl
    | verifier salt x => simp

theorem State.finishRelease_releases (s : State) (trust : Trust) : Releases s (s.finishRelease trust) trust :=
  ⟨rfl, rfl, s.releaseTable_eq, rfl, fun i => releaseLockouts_getElem s.time.tick s.store.working i⟩

/-- A release looks at the restart controller, the trust level, the translation unit and the credential store. -/
theorem Releases.congr {s s' t t' : State} {trust : Trust} (h : Releases s t trust) (hrestart : s'.restart = s.restart)
    (htime : s'.time = s.time) (hstore : s'.store = s.store) (hcreds : s'.creds = s.creds) (htrestart : t'.restart = t.restart)
    (htrust : t'.watch.trust = t.watch.trust) (hxlat : t'.xlat = t.xlat) (htcreds : t'.creds = t.creds) :
    Releases s' t' trust := by
  unfold Releases at *
  rwa [hrestart, htime, hstore, hcreds, htrestart, htrust, hxlat, htcreds]

/-! ## The jobs of the sequence -/

/-- The engine when a job has ended, before its result is handed over (R118). -/
def State.jobEnded (s : State) : State := { s with crypto := { s.crypto with running := none } }

theorem execCryptoJobEnd_release {s : State} {stage : ReleaseStage} {trust : Trust} {k : JobKind} {d : Digest}
    (hrun : s.running = true) (hwork : s.restart.work = .release stage trust)
    (hjob : s.crypto.running = some ⟨⟨.restart, k⟩, .digest d, false⟩) :
    exec .cryptoJobEnd s = .next ((s.jobEnded.releaseJob stage trust d).enterDeferred .restart).startNext := by
  have hrestart : s.jobEnded.restartJob (.digest d) = s.jobEnded.releaseJob stage trust d := by
    unfold State.restartJob
    rw [show s.jobEnded.restart.work = _ from hwork]
  show execCryptoJobEnd s = _
  rw [execCryptoJobEnd, whenRunning_eq hrun, ← hrestart]
  simp only [hjob]
  rfl

/-- The end of a stage: the next digest job is the restart controller's one job in the FIFO (R63). -/
theorem State.releaseStage_queued {s : State} (hq : ∀ j ∈ s.crypto.queue, j.requester ≠ .restart) (hd : s.crypto.deferred = [])
    (hr : s.crypto.running = none) (job : JobKind) (w : RestartWork) :
    (((s.enqueueJob .restart job).setRestartWork w).enterDeferred .restart).startNext.crypto.fifo =
        s.crypto.queue ++ [⟨.restart, job⟩] ∧
      (((s.enqueueJob .restart job).setRestartWork w).enterDeferred .restart).startNext.restart = { s.restart with work := w } ∧
      { (((s.enqueueJob .restart job).setRestartWork w).enterDeferred .restart).startNext with
        restart := s.restart, crypto := s.crypto, draws := s.draws } = s := by
  have hfifo : s.crypto.fifo = s.crypto.queue := by simp [Crypto.fifo, hr]
  have hno : NoJob s .restart := fun j hj => hq j (hfifo ▸ hj)
  obtain ⟨hqueue, hrestart, hframe⟩ := s.restartJob_queued job w
  have hdeferred : ((s.enqueueJob .restart job).setRestartWork w).crypto.deferred = [] :=
    ((s.enqueueJob_queues .restart job).1 hno).2.trans hd
  rw [State.enterDeferred_none _ _ hdeferred]
  exact ⟨hfifo ▸ (hqueue.1 hno).1, hrestart, hframe⟩

theorem State.releaseTableBytes_eq (s : State) :
    s.releaseTableBytes = ((s.store.working.tables.get s.store.working.selector).map Table.bytes).getD [] := by
  show (match s.store.working.tables.get s.store.working.selector with | some t => t.bytes | none => []) = _
  cases s.store.working.tables.get s.store.working.selector <;> rfl

/-- The registers when a stage of the release has ended (R63 step 2). -/
def releaseRegisters (stage : ReleaseStage) (d : Digest) (registers : Vector Digest 8) : Vector Digest 8 :=
  match stage with
  | .extend0 => registers.set 0 d
  | .extend1 => registers.set 1 d
  | _ => registers

theorem State.releaseJob_queues {s : State} {stage next : ReleaseStage} {job : JobKind} {d : Digest}
    (h : (stage, next, job) ∈
      [(ReleaseStage.extend0, ReleaseStage.tableDigest,
          JobKind.digest [] (((s.store.working.tables.get s.store.working.selector).map Table.bytes).getD []) true),
        (.tableDigest, .extend1, .extend 1 d), (.extend1, .outcomeDigest, .digest [] s.restart.outcome.bytes true),
        (.outcomeDigest, .extend2, .extend 2 d)]) (trust : Trust) :
    s.releaseJob stage trust d =
      (State.enqueueJob { s with watch := { s.watch with registers := releaseRegisters stage d s.watch.registers } } .restart
        job).setRestartWork (.release next trust) := by
  rw [← s.releaseTableBytes_eq] at h
  simp only [List.mem_cons, Prod.mk.injEq, List.not_mem_nil, or_false] at h
  rcases h with ⟨rfl, rfl, rfl⟩ | ⟨rfl, rfl, rfl⟩ | ⟨rfl, rfl, rfl⟩ | ⟨rfl, rfl, rfl⟩ <;> rfl

/-! ## The last stage -/

theorem State.loadHeldUp_iff (s : State) : s.loadHeldUp = true ↔ s.xlat.loadWaits = true ∧ s.storage.forward ≠ none := by
  simp [State.loadHeldUp, State.forwarding, Option.isSome_iff_ne_none]

/-- The last digest stands in its register, and the host is released, or the release waits for the forward (R13, R63). -/
theorem State.releaseJob_last (s : State) (trust : Trust) (d : Digest) :
    s.releaseJob .extend2 trust d =
      if s.loadHeldUp then (s.setRegister 2 d).setRestartWork (.release .force trust)
      else (s.setRegister 2 d).finishRelease trust := rfl

/-- A stage's end touches the controller, the engine, the watch unit, the translation unit and the credential store. -/
theorem State.releaseJob_frame (s : State) (stage : ReleaseStage) (trust : Trust) (d : Digest) :
    { s.releaseJob stage trust d with
      restart := s.restart, crypto := s.crypto, watch := s.watch, xlat := s.xlat, creds := s.creds } = s := by
  cases stage with
  | extend2 =>
    rw [s.releaseJob_last]
    split <;> rfl
  | force => rfl
  | extend0 =>
    exact congrArg (fun t : State => { t with restart := s.restart, watch := s.watch, xlat := s.xlat, creds := s.creds })
      ((s.setRegister 0 d).enqueueJob_frame .restart (.digest [] (s.setRegister 0 d).releaseTableBytes true))
  | tableDigest =>
    exact congrArg (fun t : State => { t with restart := s.restart, watch := s.watch, xlat := s.xlat, creds := s.creds })
      (s.enqueueJob_frame .restart (.extend 1 d))
  | extend1 =>
    exact congrArg (fun t : State => { t with restart := s.restart, watch := s.watch, xlat := s.xlat, creds := s.creds })
      ((s.setRegister 1 d).enqueueJob_frame .restart (.digest [] s.restart.outcome.bytes true))
  | outcomeDigest =>
    exact congrArg (fun t : State => { t with restart := s.restart, watch := s.watch, xlat := s.xlat, creds := s.creds })
      (s.enqueueJob_frame .restart (.extend 2 d))

/-- The end of the last stage, where nothing waits outside the FIFO. -/
theorem State.releaseLast_done {s : State} (hd : s.crypto.deferred = []) (hr : s.crypto.running = none) (trust : Trust)
    (d : Digest) {t : State} (ht : t = ((s.releaseJob .extend2 trust d).enterDeferred .restart).startNext) :
    t.crypto.fifo = s.crypto.queue ∧
      t.watch = { s.watch with registers := s.watch.registers.set 2 d, trust := t.watch.trust } ∧
      (s.xlat.loadWaits = true → s.storage.forward ≠ none →
        t.restart = { s.restart with work := .release .force trust } ∧ t.watch.trust = s.watch.trust ∧ t.xlat = s.xlat ∧
          t.creds = s.creds) ∧
      (s.xlat.loadWaits = false ∨ s.storage.forward = none → Releases s t trust) := by
  have hcrypto : (s.releaseJob .extend2 trust d).crypto = s.crypto := by
    rw [s.releaseJob_last]
    split <;> rfl
  have hfifo : t.crypto.fifo = s.crypto.queue := by
    rw [ht, State.enterDeferred_none _ _ (by rw [hcrypto]; exact hd), State.startNext_fifo, hcrypto]
    simp [Crypto.fifo, hr]
  have hframe : { t with crypto := s.crypto, draws := s.draws } = s.releaseJob .extend2 trust d := by
    have hstart := State.startNext_frame ((s.releaseJob .extend2 trust d).enterDeferred .restart)
    have hdraws : (s.releaseJob .extend2 trust d).draws = s.draws := congrArg (·.draws) (s.releaseJob_frame _ trust d)
    rw [← ht, State.enterDeferred_none _ _ (by rw [hcrypto]; exact hd), hcrypto, hdraws] at hstart
    exact hstart
  by_cases hheld : s.loadHeldUp = true
  · rw [s.releaseJob_last, if_pos hheld] at hframe
    obtain ⟨hwaits, hforward⟩ := s.loadHeldUp_iff.1 hheld
    have htrust : t.watch.trust = s.watch.trust := congrArg (·.watch.trust) hframe
    refine ⟨hfifo, ?_, fun _ _ => ⟨congrArg (·.restart) hframe, htrust, congrArg (·.xlat) hframe, congrArg (·.creds) hframe⟩,
      fun h => ?_⟩
    · rw [htrust]
      exact congrArg (·.watch) hframe
    · rcases h with h | h
      · rw [h] at hwaits; cases hwaits
      · exact absurd h hforward
  · rw [s.releaseJob_last, if_neg hheld] at hframe
    have htrust : t.watch.trust = trust := congrArg (·.watch.trust) hframe
    refine ⟨hfifo, ?_, fun h1 h2 => absurd (s.loadHeldUp_iff.2 ⟨h1, h2⟩) hheld, fun _ => ?_⟩
    · rw [htrust]
      exact congrArg (·.watch) hframe
    · exact (s.finishRelease_releases trust).congr rfl rfl rfl rfl (congrArg (·.restart) hframe) htrust
        (congrArg (·.xlat) hframe) (congrArg (·.creds) hframe)

/-! ## A release that waits for a forward -/

/-- The end of an overtaken forward ends the release's wait, or the wait of a table that a release has yet to take (R13). -/
theorem State.loadAfterForward_held {s : State} (hload : s.xlat.loadWaits = true) (hphase : s.restart.phase ≠ .released) :
    (∀ trust, s.restart.work = .release .force trust → s.loadAfterForward = s.finishRelease trust) ∧
      ((∀ trust, s.restart.work ≠ .release .force trust) →
        s.loadAfterForward = { s with xlat := { s.xlat with loadWaits := false } }) := by
  unfold State.loadAfterForward
  rw [if_pos hload, if_neg hphase]
  refine ⟨fun trust h => by rw [h], fun h => ?_⟩
  split
  · rename_i trust hwork
    exact absurd hwork (h trust)
  · rfl

/-- Settles O6: each stage queues the next job, and the last one, or the forward it waits for, releases the part. -/
theorem releaseSequenceRuns : Obligations.ReleaseSequenceRuns := by
  refine ⟨fun s stage trust k d hrun hwork hjob hd hq => ?_, fun took s f op hrun hfed hf hop hlast hrep hload hphase => ?_⟩
  · have hexec := execCryptoJobEnd_release hrun hwork hjob
    refine ⟨_, hexec, fun next job h => ?_, ?_, ?_⟩
    · rw [State.releaseJob_queues (s := s.jobEnded) h]
      obtain ⟨hfifo, hrestart, hframe⟩ := State.releaseStage_queued
        (s := { s.jobEnded with watch := { s.watch with registers := releaseRegisters stage d s.watch.registers } })
        hq hd rfl job (.release next trust)
      refine ⟨hrestart, hfifo, (congrArg (·.watch.registers) hframe).trans ?_,
        congrArg (fun t : State => { t.watch with registers := s.watch.registers }) hframe, congrArg (·.xlat) hframe,
        congrArg (·.creds) hframe⟩
      cases stage <;> rfl
    · rintro rfl
      exact State.releaseLast_done (s := s.jobEnded) hd rfl trust d rfl
    · have hstart := State.startNext_frame ((s.jobEnded.releaseJob stage trust d).enterDeferred .restart)
      have hrelease := s.jobEnded.releaseJob_frame stage trust d
      calc _ = { s.jobEnded.releaseJob stage trust d with
            restart := s.restart, crypto := s.crypto, watch := s.watch, xlat := s.xlat, creds := s.creds, draws := s.draws } :=
          congrArg (fun t : State => { t with
            restart := s.restart, crypto := s.crypto, watch := s.watch, xlat := s.xlat, creds := s.creds, draws := s.draws }) hstart
        _ = s := congrArg (fun t : State => { t with crypto := s.crypto, draws := s.draws }) hrelease
  · have hsilent : (s.forwardEnded took).reportForward f = s.forwardEnded took := by simp [State.reportForward, hrep]
    have hexec := execHostForwardComplete_ends hrun hf hlast took
    obtain ⟨hforce, hother⟩ := State.loadAfterForward_held (s := s.forwardEnded took) hload hphase
    refine ⟨_, hexec, State.forwardDone_storage _ f, (State.forwardDone_flash _ f).trans (Flash.finish_busy hop took), ?_⟩
    have hframe := (s.forwardEnded took).loadAfterForward_frame
    have hfed' : (s.forwardEnded took).loadAfterForward.EngineFed := by
      rw [State.EngineFed, show _ = s.crypto from congrArg (·.crypto) hframe]
      exact hfed
    rw [hsilent, State.startNext_fed hfed']
    refine ⟨fun trust h => ?_, fun h => ?_, ?_⟩
    · rw [hforce trust h]
      exact ⟨(s.forwardEnded took).finishRelease_releases trust, rfl⟩
    · rw [hother h]
      exact ⟨rfl, rfl, rfl, rfl⟩
    · by_cases h : ∃ trust, s.restart.work = .release .force trust
      · obtain ⟨trust, h⟩ := h
        rw [hforce trust h]
        rfl
      · rw [hother fun trust e => h ⟨trust, e⟩]
        rfl

end Sys2Proof.Machine
end

section
/-! # Transactions of the upstream link that write

The decoder through a whole program or erase (R15, R21 to R23), and what the policy makes of it: a refusal, or a host forward (R13,
R26, R34, R35, R40, R78, R92). -/

namespace Sys2Proof.Machine

open Sys2Proof

/-! ## The decoder -/

theorem addressBytes_eq (a : Nat) :
    addressBytes a = [BitVec.ofNat 8 (a / 256 / 256), BitVec.ofNat 8 (a / 256), BitVec.ofNat 8 a] := rfl

theorem ofBe_addressBytes {a : Nat} (h : a < 0x1000000) : ofBe (addressBytes a) = a := by
  have hsum : ofBe (addressBytes a) = a % 256 + 256 * (a / 256 % 256 + 256 * (a / 256 / 256 % 256 + 256 * 0)) := rfl
  omega

/-- The decoder when the command byte has been taken (R22). -/
def Decoder.commanded (cmd : LinkCmd) : Decoder := { Decoder.idle with state := cmd.firstPhase, cmd := some cmd }

/-- The decoder when the start address has been taken (R21). -/
def Decoder.addressed (cmd : LinkCmd) (a : Nat) : Decoder :=
  { Decoder.idle with
    state := cmd.afterAddress, cmd := some cmd, addrBytes := addressBytes a, addr := a, start := a }

/-- A command that nothing ignores is taken (R22, R30). -/
theorem State.select_takeCommand {s : State} (hidle : s.link.decoder.state = .idle) (cmd : LinkCmd)
    (h : cmd.gated = true → s.link.wel = true ∧ s.busy = false) :
    (s.select).takeCommand cmd = s.setDecoder (Decoder.commanded cmd) := by
  have hselect : s.select = s.setDecoder { Decoder.idle with state := .opcode } := if_pos hidle
  have hnot : ¬ (cmd.gated = true ∧ (s.busy = true ∨ ¬ s.link.wel = true)) := by
    rintro ⟨hg, hb⟩
    obtain ⟨hw, hfree⟩ := h hg
    simp [hw, hfree] at hb
  rw [hselect]
  unfold State.takeCommand
  rw [if_pos (by rfl)]
  exact congrArg (fun st => s.setDecoder { Decoder.idle with state := st, cmd := some cmd }) (if_neg hnot)

theorem State.clockAll_append (cmd : LinkCmd) (xs ys : List Byte) (s : State) :
    s.clockAll cmd (xs ++ ys) = (s.clockAll cmd xs).clockAll cmd ys := List.foldl_append

theorem State.clockAll_cons (cmd : LinkCmd) (x : Byte) (xs : List Byte) (s : State) :
    s.clockAll cmd (x :: xs) = (s.clockSlot cmd x).clockAll cmd xs := rfl

theorem Decoder.takeAddress_address (cmd : LinkCmd) {a : Nat} (ha : a < 0x1000000) :
    (addressBytes a).foldl (fun d b => d.takeAddress cmd b) (Decoder.commanded cmd) = Decoder.addressed cmd a := by
  have hfold : (addressBytes a).foldl (fun d b => d.takeAddress cmd b) (Decoder.commanded cmd) =
      { Decoder.idle with
        state := cmd.afterAddress, cmd := some cmd, addrBytes := addressBytes a, addr := ofBe (addressBytes a)
        start := ofBe (addressBytes a) } := rfl
  rw [hfold, ofBe_addressBytes ha]
  rfl

/-- An address byte of a command that does not read (R21). -/
theorem State.clockSlot_address {s : State} {cmd : LinkCmd} {d : Decoder} (hread : cmd.isRead = false) (hd : d.state = .address)
    (b : Byte) : (s.setDecoder d).clockSlot cmd b = s.setDecoder (d.takeAddress cmd b) := by
  unfold State.clockSlot
  simp only [State.setDecoder_decoder, hd, State.addressSlot, hread, Bool.false_eq_true, false_and, if_false]
  rfl

/-- The three address bytes of a command that does not read (R21). -/
theorem State.clockAll_address {s : State} {cmd : LinkCmd} (hphase : cmd.firstPhase = .address) (hread : cmd.isRead = false)
    {a : Nat} (ha : a < 0x1000000) :
    (s.setDecoder (Decoder.commanded cmd)).clockAll cmd (addressBytes a) = s.setDecoder (Decoder.addressed cmd a) := by
  rw [← Decoder.takeAddress_address cmd ha, addressBytes_eq, State.clockAll_cons, State.clockSlot_address hread hphase,
    State.clockAll_cons, State.clockSlot_address hread hphase, State.clockAll_cons, State.clockSlot_address hread hphase]
  rfl

/-- The decoder when data bytes have been clocked in: their count, and the last 256 of them (R15, R21). -/
def Decoder.received (a : Nat) (data : List Byte) : Decoder :=
  { Decoder.addressed .pageProgram a with count := data.length, data := data.drop (data.length - 256) }

theorem Decoder.takeData_received (a : Nat) (data : List Byte) (b : Byte) :
    (Decoder.received a data).takeData b = Decoder.received a (data ++ [b]) := by
  have hkept : (data.drop (data.length - 256) ++ [b]).drop ((data.drop (data.length - 256) ++ [b]).length - 256) =
      (data ++ [b]).drop ((data ++ [b]).length - 256) := by
    simp only [List.length_append, List.length_drop, List.length_singleton]
    rcases Nat.lt_or_ge data.length 256 with h | h
    · simp [Nat.sub_eq_zero_of_le (Nat.le_of_lt h), Nat.sub_eq_zero_of_le (Nat.succ_le_of_lt h)]
    · rw [show data.length - (data.length - 256) + 1 - 256 = 1 by omega,
        show data.length + 1 - 256 = data.length - 256 + 1 by omega, List.drop_append_of_le_length (by simp; omega),
        List.drop_append_of_le_length (by omega), List.drop_drop]
  unfold Decoder.takeData Decoder.received
  dsimp only
  rw [hkept, List.length_append, List.length_singleton]

/-- The data bytes of a page program (R15, R21). -/
theorem State.clockAll_data (s : State) (a : Nat) (data : List Byte) :
    (s.setDecoder (Decoder.addressed .pageProgram a)).clockAll .pageProgram data = s.setDecoder (Decoder.received a data) := by
  induction data using List.reverseRecOn with
  | nil => rfl
  | append_singleton data b ih =>
    rw [State.clockAll_append, ih, ← Decoder.takeData_received]
    rfl

/-- An erase keeps its effect whatever is clocked behind its address (R23). -/
theorem State.clockAll_erase (s : State) {cmd : LinkCmd} (h : cmd = .sectorErase ∨ cmd = .blockErase) (a : Nat)
    (more : List Byte) :
    ∃ d : Decoder, (s.setDecoder (Decoder.addressed cmd a)).clockAll cmd more = s.setDecoder d ∧ d.start = a ∧ d.out = [] ∧
      (d.state = .complete ∨ d.state = .ignoring ∧ d.eraseStands = true) := by
  induction more using List.reverseRecOn with
  | nil => rcases h with rfl | rfl <;> exact ⟨_, rfl, rfl, rfl, Or.inl rfl⟩
  | append_singleton more b ih =>
    obtain ⟨d, hd, hstart, hout, hstate⟩ := ih
    rw [State.clockAll_append, hd]
    rcases hstate with hc | ⟨hi, he⟩
    · refine ⟨{ d with state := .ignoring, eraseStands := cmd = .sectorErase ∨ cmd = .blockErase }, ?_, hstart, hout,
        Or.inr ⟨rfl, decide_eq_true h⟩⟩
      show (s.setDecoder d).clockSlot cmd b = _
      unfold State.clockSlot
      simp only [State.setDecoder_decoder, hc]
      rfl
    · refine ⟨d, ?_, hstart, hout, Or.inr ⟨hi, he⟩⟩
      show (s.setDecoder d).clockSlot cmd b = _
      unfold State.clockSlot
      simp only [State.setDecoder_decoder, hi]

/-! ## Whole transactions -/

section transactions

variable {s : State} {a : Nat}

/-- A page program performed at the release of HCS_N (R34). -/
theorem WriteReady.exec_pageProgram (h : WriteReady s) (ha : a < 0x1000000) {data : List Byte} (hdata : data ≠ []) :
    exec (.pageProgram (.transaction (addressBytes a ++ data) 0)) s =
      .next (((s.setDecoder (Decoder.received a data)).performProgram a data.length (data.drop (data.length - 256))).setDecoder
        (Decoder.after [])) := by
  obtain ⟨⟨hrun, hidle⟩, hwel, hbusy⟩ := h
  have hpos : 0 < data.length := List.length_pos_iff.2 hdata
  show execPageProgram _ s = _
  rw [execPageProgram, whenRunning_eq hrun]
  refine congrArg _ ((if_pos hidle).trans ?_)
  rw [State.transact, State.select_takeCommand hidle .pageProgram fun _ => ⟨hwel, hbusy⟩, State.clockAll_append,
    State.clockAll_address rfl rfl ha, State.clockAll_data]
  have hperform : (s.setDecoder (Decoder.received a data)).perform .pageProgram 0 =
      (s.setDecoder (Decoder.received a data)).performProgram a data.length (data.drop (data.length - 256)) := by
    have hstate : (Decoder.received a data).state = .dataIn := rfl
    have hstart : (Decoder.received a data).start = a := rfl
    have hcount : (Decoder.received a data).count = data.length := rfl
    have hkept : (Decoder.received a data).data = data.drop (data.length - 256) := by simp only [Decoder.received]
    simp only [State.perform, State.setDecoder_decoder, hstate, hstart, hcount, hkept, hpos, and_self, if_true]
  rw [State.release, hperform]
  rfl

/-- A sector erase performed at the release of HCS_N, also with whole bytes behind its address (R23, R35). -/
theorem WriteReady.exec_sectorErase (h : WriteReady s) (ha : a < 0x1000000) (more : List Byte) :
    ∃ d, exec (.sectorErase (.transaction (addressBytes a ++ more) 0)) s =
      .next (((s.setDecoder d).performSectorErase a).setDecoder (Decoder.after [])) := by
  obtain ⟨⟨hrun, hidle⟩, hwel, hbusy⟩ := h
  obtain ⟨d, hd, hstart, hout, hstate⟩ := s.clockAll_erase (Or.inl rfl) a more
  refine ⟨d, ?_⟩
  show execSectorErase _ s = _
  rw [execSectorErase, whenRunning_eq hrun]
  refine congrArg _ ((if_pos hidle).trans ?_)
  rw [State.transact, State.select_takeCommand hidle .sectorErase fun _ => ⟨hwel, hbusy⟩, State.clockAll_append,
    State.clockAll_address rfl rfl ha, hd]
  have hperform : (s.setDecoder d).perform .sectorErase 0 = (s.setDecoder d).performSectorErase a := by
    rw [← hstart]
    exact if_pos ⟨hstate.imp id And.right, rfl⟩
  show State.setDecoder _ { Decoder.idle with out := d.out } = _
  rw [hperform, hout]
  rfl

/-- A block erase performed at the release of HCS_N, also with whole bytes behind its address (R23, R35). -/
theorem WriteReady.exec_blockErase (h : WriteReady s) (ha : a < 0x1000000) (more : List Byte) :
    ∃ d, exec (.blockErase (.transaction (addressBytes a ++ more) 0)) s =
      .next (((s.setDecoder d).performBlockErase a).setDecoder (Decoder.after [])) := by
  obtain ⟨⟨hrun, hidle⟩, hwel, hbusy⟩ := h
  obtain ⟨d, hd, hstart, hout, hstate⟩ := s.clockAll_erase (Or.inr rfl) a more
  refine ⟨d, ?_⟩
  show execBlockErase _ s = _
  rw [execBlockErase, whenRunning_eq hrun]
  refine congrArg _ ((if_pos hidle).trans ?_)
  rw [State.transact, State.select_takeCommand hidle .blockErase fun _ => ⟨hwel, hbusy⟩, State.clockAll_append,
    State.clockAll_address rfl rfl ha, hd]
  have hperform : (s.setDecoder d).perform .blockErase 0 = (s.setDecoder d).performBlockErase a := by
    rw [← hstart]
    exact if_pos ⟨hstate.imp id And.right, rfl⟩
  show State.setDecoder _ { Decoder.idle with out := d.out } = _
  rw [hperform, hout]
  rfl

/-- A chip erase performed at the release of HCS_N (R24). -/
theorem WriteReady.exec_chipErase (h : WriteReady s) :
    exec (.chipErase (.transaction [] 0)) s =
      .next (((s.setDecoder (Decoder.commanded .chipErase)).performChipErase).setDecoder (Decoder.after [])) := by
  obtain ⟨⟨hrun, hidle⟩, hwel, hbusy⟩ := h
  show execChipErase _ s = _
  rw [execChipErase, whenRunning_eq hrun]
  refine congrArg _ ((if_pos hidle).trans ?_)
  rw [State.transact, State.select_takeCommand hidle .chipErase fun _ => ⟨hwel, hbusy⟩]
  rfl

end transactions

end Sys2Proof.Machine
end

section
/-! # Refusals and forwards

The policy of the translation unit for programs and erases (R13, R92), and what each verdict makes of a whole transaction (R27, R34,
R35, R40, R44, R78, R96). -/

namespace Sys2Proof.Machine

open Sys2Proof

/-! ## Where an address lies (R10) -/

section place

variable {s : State} {l : Nat}

theorem State.place_aperture (h : 0xFFC000 ≤ l) : s.place l = .aperture ((l - 0xFFC000) / 0x1000) (l % 0x1000) := if_pos h

theorem State.place_without (h : l < 0xFFC000) (hx : s.xlat.inForce = .none) : s.place l = .uncovered := by
  unfold State.place
  rw [if_neg (show ¬ apertureBase ≤ l from Nat.not_le.mpr h), hx]

theorem State.place_identity_map (h : l < 0xFFC000) (hx : s.xlat.inForce = .identity) : s.place l = .identity := by
  unfold State.place
  rw [if_neg (show ¬ apertureBase ≤ l from Nat.not_le.mpr h), hx]

theorem State.place_uncovered {m : Slot} {u : Table} (h : l < 0xFFC000) (hx : s.xlat.inForce = .table m u)
    (hu : ∀ d ∈ u.descriptors, d.covers (l / 0x1000) = false) : s.place l = .uncovered := by
  have hnone : u.descriptors.find? (fun d => d.covers (l / 0x1000)) = none := List.find?_eq_none.2 fun d hd => by simp [hu d hd]
  unfold State.place
  rw [if_neg (show ¬ apertureBase ≤ l from Nat.not_le.mpr h), hx]
  simp only [hnone]

theorem State.place_covered {m : Slot} {u : Table} {d : Descriptor} {k : Kind} (h : l < 0xFFC000)
    (hx : s.xlat.inForce = .table m u) (hd : u.descriptors.find? (fun d => d.covers (l / 0x1000)) = some d)
    (hk : d.kind? = some k) : s.place l = .region u d k (l - d.base * 0x1000) := by
  unfold State.place
  rw [if_neg (show ¬ apertureBase ≤ l from Nat.not_le.mpr h), hx]
  simp only [hd, hk]

end place

theorem toFlash_within {p : Nat} (h : p < 0x2000000) (region : Option Nat) (kind : Option Kind) (at_ : Nat) (v : Verdict) :
    toFlash p region kind at_ v = ⟨.forward p, region, kind, at_⟩ := if_pos h

/-! ## The policy (R13, R92) -/

section policy

variable {s : State} {program : Bool} {l : Nat}

theorem State.translateWrite_aperture (h : 0xFFC000 ≤ l) :
    s.translateWrite program l = ⟨.aperture ((l - 0xFFC000) / 0x1000) (l % 0x1000), none, none, 0⟩ := by
  unfold State.translateWrite
  rw [State.place_aperture h]

theorem State.translateWrite_uncovered (h : s.place l = .uncovered) : s.translateWrite program l = ⟨.refuse, none, none, 0⟩ := by
  unfold State.translateWrite
  rw [h]

theorem State.translateWrite_identity (h : l < 0xFFC000) (hp : s.place l = .identity) :
    s.translateWrite program l = ⟨.forward l, none, none, 0⟩ := by
  unfold State.translateWrite
  rw [hp]
  exact toFlash_within (by omega) _ _ _ _

theorem State.translateWrite_closed {u : Table} {d : Descriptor} {k : Kind} {o : Nat} (hp : s.place l = .region u d k o)
    (hk : k = .image ∨ k = .locked ∨ k = .hidden) : s.translateWrite program l = ⟨.refuse, some d.index, some k, 0⟩ := by
  unfold State.translateWrite
  rw [hp]
  rcases hk with rfl | rfl | rfl <;> rfl

theorem State.translateWrite_data {u : Table} {d : Descriptor} {o : Nat} (hp : s.place l = .region u d .data o)
    (ho : d.offset + o < 0x2000000) :
    s.translateWrite program l =
      ⟨if d.writeMin ≤ s.watch.trust.level then .forward (d.offset + o) else .refuse, some d.index, some .data, 0⟩ := by
  unfold State.translateWrite
  rw [hp]
  dsimp only
  split
  · exact toFlash_within ho _ _ _ _
  · rfl

theorem State.translateWrite_staging {u : Table} {d : Descriptor} {o : Nat} (hp : s.place l = .region u d .staging o)
    (ho : u.slotBase s.active.other + s.intake.session.bank + o < 0x2000000) :
    s.translateWrite program l =
      ⟨if s.intake.session.state ≠ .receiving ∨
            program = true ∧ s.intake.tracker.getD ((s.intake.session.bank + o) / 0x1000) .stale = .stale then .refuse
        else .forward (u.slotBase s.active.other + s.intake.session.bank + o),
        some d.index, some .staging, s.intake.session.bank + o⟩ := by
  have hiff : (s.intake.session.state = .receiving ∧ ¬ (program = true ∧ s.intake.sector (s.intake.session.bank + o) = .stale)) ↔
      ¬ (s.intake.session.state ≠ .receiving ∨
        program = true ∧ s.intake.tracker.getD ((s.intake.session.bank + o) / 0x1000) .stale = .stale) := by
    rw [not_or, not_not]
    rfl
  unfold State.translateWrite
  rw [hp]
  dsimp only
  split
  · rename_i h
    rw [if_neg (hiff.1 h)]
    exact toFlash_within ho _ _ _ _
  · rename_i h
    rw [if_pos (not_not.1 (mt hiff.2 h))]

end policy

theorem Table.stagingBase_eq (s : State) (u : Table) :
    u.slotBase s.active.other = (match s.store.working.selector with | .a => u.baseB | .b => u.baseA) := by
  show u.slotBase s.store.working.selector.other = _
  cases s.store.working.selector <;> rfl

/-- The policy of an address under the map in force (R13, R92). -/
theorem State.translateWrite_policy {s : State} {program : Bool} {l : Nat} {r : Record} (hr : s.translateWrite program l = r) :
    (0xFFC000 ≤ l → r.verdict = .aperture ((l - 0xFFC000) / 0x1000) (l % 0x1000)) ∧
    (l < 0xFFC000 →
      (s.xlat.inForce = .none → r.verdict = .refuse ∧ r.region = none) ∧
      (s.xlat.inForce = .identity → r.verdict = .forward l ∧ r.region = none) ∧
      ∀ (m : Slot) (u : Table), s.xlat.inForce = .table m u →
        ((∀ d ∈ u.descriptors, d.covers (l / 0x1000) = false) → r.verdict = .refuse ∧ r.region = none) ∧
        ∀ (d : Descriptor) (k : Kind) (o : Nat), u.descriptors.find? (fun d => d.covers (l / 0x1000)) = some d →
          d.kind? = some k → o = l - d.base * 0x1000 →
            (k = .image ∨ k = .locked ∨ k = .hidden → r.verdict = .refuse ∧ r.region = some d.index ∧ r.kind = some k) ∧
            (k = .data → d.offset + o < 0x2000000 →
              r.region = some d.index ∧ r.kind = some .data ∧
                r.verdict = if d.writeMin ≤ s.watch.trust.level then .forward (d.offset + o) else .refuse) ∧
            ∀ (at_ p : Nat), k = .staging → at_ = s.intake.session.bank + o →
              p = (match s.store.working.selector with | .a => u.baseB | .b => u.baseA) + at_ → p < 0x2000000 →
                r.region = some d.index ∧ r.kind = some .staging ∧ r.stagingAt = at_ ∧
                  r.verdict =
                    if s.intake.session.state ≠ .receiving ∨
                        program = true ∧ s.intake.tracker.getD (at_ / 0x1000) .stale = .stale then .refuse
                    else .forward p) := by
  subst hr
  refine ⟨fun h => ?_, fun h => ⟨fun hx => ?_, fun hx => ?_, fun m u hx => ⟨fun hu => ?_, ?_⟩⟩⟩
  · rw [State.translateWrite_aperture h]
  · rw [State.translateWrite_uncovered (State.place_without h hx)]
    exact ⟨rfl, rfl⟩
  · rw [State.translateWrite_identity h (State.place_identity_map h hx)]
    exact ⟨rfl, rfl⟩
  · rw [State.translateWrite_uncovered (State.place_uncovered h hx hu)]
    exact ⟨rfl, rfl⟩
  · rintro d k o hd hk rfl
    have hplace := State.place_covered h hx hd hk
    refine ⟨fun hclosed => ?_, ?_, ?_⟩
    · rw [State.translateWrite_closed hplace hclosed]
      exact ⟨rfl, rfl, rfl⟩
    · rintro rfl hin
      rw [State.translateWrite_data hplace hin]
      exact ⟨rfl, rfl, rfl⟩
    · rintro at_ p rfl rfl rfl hin
      rw [← Table.stagingBase_eq s u, ← Nat.add_assoc] at hin ⊢
      rw [State.translateWrite_staging hplace hin]
      exact ⟨rfl, rfl, rfl, rfl⟩

/-! ## Refusals -/

/-- A refusal that has its stamp at once: REFUSED, and one record (R27, R78). -/
theorem State.refuse_recorded {s : State} {x : Stamp} (hx : StampFree s x) (start : Nat) (kind : AccessKind)
    (region : Option Nat) :
    s.refuse start kind region =
      { s with
        link := { s.link with refused := true }
        watch := s.watch.add ⟨x, start, kind, region, none⟩
        time := { s.time with lastStamp := some x } } :=
  State.takeHits_recorded (s := { s with link := { s.link with refused := true } }) hx rfl rfl rfl

/-- The state in which a performed program or erase is judged: WEL is clear, and the decoder still holds the transaction (R26). -/
def State.judging (s : State) (d : Decoder) : State := (s.setDecoder d).clearWel

/-- A refused program or erase (R27, R34, R35). -/
theorem State.judging_refuses {s : State} {x : Stamp} (hx : StampFree s x) (d : Decoder) (start : Nat) (kind : AccessKind)
    (region : Option Nat) :
    Refuses s (((s.judging d).refuse start kind region).setDecoder (Decoder.after [])) x start kind region ∧
      (((s.judging d).refuse start kind region).setDecoder (Decoder.after [])).intake = s.intake := by
  rw [State.refuse_recorded (s := s.judging d) hx]
  exact ⟨⟨rfl, rfl, rfl, rfl, rfl, rfl, rfl, rfl, rfl⟩, rfl⟩

/-- A refused page program, counted where it is one into the STAGING region (R92). -/
theorem State.judging_refuses_program {s : State} {x : Stamp} (hx : StampFree s x) (d : Decoder) (start : Nat)
    (k : Option Kind) (region : Option Nat) :
    Refuses s ((((s.judging d).countRefused k).refuse start .program region).setDecoder (Decoder.after [])) x start .program
        region ∧
      ((((s.judging d).countRefused k).refuse start .program region).setDecoder (Decoder.after
          [])).intake.session.refusedPrograms =
        if k = some .staging then satInc 0xFFFF s.intake.session.refusedPrograms else s.intake.session.refusedPrograms := by
  by_cases hk : k = some .staging
  · have hcount : (s.judging d).countRefused k =
        { s.judging d with
          intake :=
            { s.intake with
              session := { s.intake.session with refusedPrograms := satInc 0xFFFF s.intake.session.refusedPrograms } } } :=
      if_pos hk
    rw [hcount, if_pos hk, State.refuse_recorded (s := { s.judging d with intake := _ }) hx]
    exact ⟨⟨rfl, rfl, rfl, rfl, rfl, rfl, rfl, rfl, rfl⟩, rfl⟩
  · have hcount : (s.judging d).countRefused k = s.judging d := if_neg hk
    rw [hcount, if_neg hk]
    obtain ⟨hrefuses, hintake⟩ := State.judging_refuses hx d start .program region
    exact ⟨hrefuses, congrArg (·.session.refusedPrograms) hintake⟩

section performs

variable {s : State}

theorem State.performProgram_refused (d : Decoder) {start : Nat} {r : Record} (hr : s.translateWrite true (start - start % 0x100) = r)
    (hv : r.verdict = .refuse) (n : Nat) (bytes : List Byte) :
    (s.setDecoder d).performProgram start n bytes = ((s.judging d).countRefused r.kind).refuse start .program r.region := by
  subst hr
  have hv' : ((s.setDecoder d).translateWrite true (pageBase start)).verdict = .refuse := hv
  simp only [State.performProgram, hv']
  rfl

theorem State.performSectorErase_refused (d : Decoder) {start : Nat} {r : Record}
    (hr : s.translateWrite false (start / 0x1000 * 0x1000) = r) (hv : r.verdict = .refuse) :
    (s.setDecoder d).performSectorErase start = (s.judging d).refuse (start / 0x1000 * 0x1000) .erase r.region := by
  subst hr
  have hv' : ((s.setDecoder d).translateWrite false (start / 0x1000 * 0x1000)).verdict = .refuse := hv
  simp only [State.performSectorErase, hv']
  rfl

theorem State.performBlockErase_refused (d : Decoder) {start g : Nat} {r : Record}
    (h : (s.blockRecords (start / 0x10000)).find? (fun y => y.2.phys?.isNone) = some (g, r)) :
    (s.setDecoder d).performBlockErase start = (s.judging d).refuse (start / 0x10000 * 0x10000) .erase r.region := by
  have h' : ((s.setDecoder d).blockRecords (start / 0x10000)).find? (fun y => y.2.phys?.isNone) = some (g, r) := h
  simp only [State.performBlockErase, h']
  rfl

end performs

/-- Settles O14: the policy, and what each kind of program and erase does that it refuses. -/
theorem refusedProgramsAndErases : Obligations.RefusedProgramsAndErases := by
  refine ⟨fun s program l r hr => State.translateWrite_policy hr, fun a s x more h hx ha => ⟨fun data r hdata hr hv => ?_,
    fun r hr hv => ?_, fun g r hfind => ?_, _, h.exec_chipErase, State.judging_refuses hx _ 0 .erase none⟩⟩
  · refine ⟨_, h.exec_pageProgram ha hdata, ?_⟩
    rw [State.performProgram_refused _ hr hv]
    exact State.judging_refuses_program hx _ a r.kind r.region
  · obtain ⟨d, hexec⟩ := h.exec_sectorErase ha more
    refine ⟨_, hexec, ?_⟩
    rw [State.performSectorErase_refused d hr hv]
    exact State.judging_refuses hx d _ _ _
  · obtain ⟨d, hexec⟩ := h.exec_blockErase ha more
    refine ⟨_, hexec, ?_⟩
    rw [State.performBlockErase_refused d hfind]
    exact State.judging_refuses hx d _ _ _

end Sys2Proof.Machine
end

section
/-! # Forwards

A forwarded program or erase at the release of HCS_N (R15, R17 to R19, R26, R34, R35, R40, R44, R92, R96). -/

namespace Sys2Proof.Machine

open Sys2Proof

/-- A forward goes to the storage link, and one of the STAGING region renews the inactivity deadline (R40, R92). -/
theorem State.judging_starts (s : State) (d : Decoder) (f : HostForward) (staging : Prop) [Decidable staging] :
    StartsForward s
      ((if staging then ((s.judging d).startForward f).renewStaging else (s.judging d).startForward f).setDecoder
        (Decoder.after [])) f staging := by
  by_cases h : staging
  · rw [if_pos h]
    exact ⟨rfl, rfl, rfl, rfl, rfl, rfl, fun _ => rfl, fun hn => absurd h hn, rfl⟩
  · rw [if_neg h]
    exact ⟨rfl, rfl, rfl, rfl, rfl, rfl, fun hp => absurd hp h, fun _ => rfl, rfl⟩

/-- The runs of a STAGING program, at their slot offsets (R15, R94). -/
theorem programRuns_map (at_ off : Nat) (kept : List Byte) :
    (programRuns off kept).map (fun x => (at_ + x.1, x.2)) =
      if off + kept.length ≤ 0x100 then [(at_ + off, kept)]
      else [(at_ + off, kept.take (0x100 - off)), (at_, kept.drop (0x100 - off))] := by
  unfold programRuns
  split <;> rfl

section performs

variable {s : State}

theorem State.performProgram_forward (d : Decoder) {start p : Nat} {r : Record}
    (hr : s.translateWrite true (start - start % 0x100) = r) (hv : r.verdict = .forward p) {n off : Nat}
    (hoff : off = if n ≤ 256 then start % 0x100 else (start + n) % 0x100) (kept : List Byte) {f : HostForward}
    (hf : f =
      ⟨.program, start, [.program (programCells p off kept)], 0, [(start / 0x1000, r.region)],
        if r.kind = some .staging then some (.program ((programRuns off kept).map fun x => (r.stagingAt + x.1, x.2))) else none,
        true⟩) :
    (s.setDecoder d).performProgram start n kept =
      if r.kind = some .staging then ((s.judging d).startForward f).renewStaging else (s.judging d).startForward f := by
  subst hr hoff hf
  have hv' : ((s.setDecoder d).translateWrite true (pageBase start)).verdict = .forward p := hv
  simp only [State.performProgram, hv']
  rfl

/-- An erase of translated granules (R35, R40). -/
theorem State.forwardErase_eq (s : State) (start : Nat) (ops : List FlashOp) {rs : List (Nat × Record)} {sectors : List Nat}
    (h : stagingSectors rs = sectors) :
    s.forwardErase start ops rs =
      if sectors ≠ [] then
        (s.startForward ⟨.erase, start, ops, 0, rs.map (fun x => (x.1, x.2.region)),
          if sectors = [] then none else some (.erase sectors), true⟩).renewStaging
      else
        s.startForward ⟨.erase, start, ops, 0, rs.map (fun x => (x.1, x.2.region)),
          if sectors = [] then none else some (.erase sectors), true⟩ := by
  have hreport : stagingErase rs = if sectors = [] then none else some (.erase sectors) := by
    unfold stagingErase
    rw [h]
  unfold State.forwardErase
  rw [hreport]
  by_cases hs : sectors = [] <;> simp [hs]

theorem State.performSectorErase_forward (d : Decoder) {start p : Nat} {r : Record}
    (hr : s.translateWrite false (start / 0x1000 * 0x1000) = r) (hv : r.verdict = .forward p) :
    (s.setDecoder d).performSectorErase start =
      (s.judging d).forwardErase (start / 0x1000 * 0x1000) [.eraseSector p] [(start / 0x1000, r)] := by
  subst hr
  have hv' : ((s.setDecoder d).translateWrite false (start / 0x1000 * 0x1000)).verdict = .forward p := hv
  simp only [State.performSectorErase, hv']
  rfl

theorem eraseOps_eq (ps : List Nat) :
    eraseOps ps =
      if ps.headD 0 % 0x10000 = 0 ∧ ps = (List.range 16).map (fun i => ps.headD 0 + i * 0x1000) then
        [.eraseBlock (ps.headD 0)]
      else ps.map .eraseSector := by
  cases ps with
  | nil => rfl
  | cons p ps => rfl

/-- Sixteen forwarded granules have their physical addresses, and none is refused. -/
theorem physes_of_forward {rs : List (Nat × Record)} {ps : List Nat} (h : rs.map (fun y => y.2.verdict) = ps.map .forward) :
    rs.find? (fun y => y.2.phys?.isNone) = none ∧ rs.filterMap (fun y => y.2.phys?) = ps := by
  induction rs generalizing ps with
  | nil =>
    obtain rfl : ps = [] := List.map_eq_nil_iff.1 h.symm
    exact ⟨rfl, rfl⟩
  | cons y rs ih =>
    cases ps with
    | nil => simp at h
    | cons p ps =>
      simp only [List.map_cons, List.cons.injEq] at h
      obtain ⟨hy, hrest⟩ := h
      obtain ⟨hfind, hmap⟩ := ih hrest
      have hphys : y.2.phys? = some p := by
        unfold Record.phys?
        rw [hy]
      exact ⟨by rw [List.find?_cons, hphys]; exact hfind, by rw [List.filterMap_cons, hphys, hmap]⟩

theorem State.performBlockErase_forward (d : Decoder) {start : Nat} {rs : List (Nat × Record)} {ps : List Nat}
    (hrs : s.blockRecords (start / 0x10000) = rs) (h : rs.map (fun y => y.2.verdict) = ps.map .forward) :
    (s.setDecoder d).performBlockErase start = (s.judging d).forwardErase (start / 0x10000 * 0x10000) (eraseOps ps) rs := by
  subst hrs
  obtain ⟨hfind, hphys⟩ := physes_of_forward h
  have hfind' : ((s.setDecoder d).blockRecords (start / 0x10000)).find? (fun y => y.2.phys?.isNone) = none := hfind
  simp only [State.performBlockErase, hfind']
  rw [← hphys]
  rfl

end performs

/-- One sector of a STAGING region, or none. -/
theorem stagingSectors_single (g : Nat) (r : Record) :
    stagingSectors [(g, r)] = if r.kind = some .staging then [r.stagingAt / 0x1000] else [] := by
  by_cases h : r.kind = some .staging <;> simp [stagingSectors, h]

/-- Settles O15: a forwarded program or erase hands its operations and its report to the storage link. -/
theorem forwardsStart : Obligations.ForwardsStart := by
  refine ⟨?_, fun a s more h ha => ⟨fun p r hr hv => ?_, ?_⟩⟩
  · intro a data kept off s p r f h ha hdata hkept hoff hr hv hf
    refine ⟨_, h.exec_pageProgram ha hdata, ?_⟩
    rw [← programRuns_map] at hf
    rw [← hkept, State.performProgram_forward _ hr hv hoff kept hf]
    exact s.judging_starts _ _ _
  · obtain ⟨d, hexec⟩ := h.exec_sectorErase ha more
    refine ⟨_, hexec, ?_⟩
    rw [State.performSectorErase_forward d hr hv, State.forwardErase_eq _ _ _ (stagingSectors_single (a / 0x1000) r)]
    by_cases hk : r.kind = some .staging
    · simpa [hk] using s.judging_starts d
        ⟨.erase, a / 0x1000 * 0x1000, [.eraseSector p], 0, [(a / 0x1000, r.region)], some (.erase [r.stagingAt / 0x1000]), true⟩ True
    · simpa [hk] using s.judging_starts d
        ⟨.erase, a / 0x1000 * 0x1000, [.eraseSector p], 0, [(a / 0x1000, r.region)], none, true⟩ False
  · rintro ps rs sectors hrs hverdicts hsectors
    obtain ⟨d, hexec⟩ := h.exec_blockErase ha more
    refine ⟨_, hexec, ?_⟩
    rw [State.performBlockErase_forward d hrs.symm hverdicts, State.forwardErase_eq _ _ _ hsectors.symm, eraseOps_eq]
    exact s.judging_starts d _ (sectors ≠ [])

end Sys2Proof.Machine
end

section
/-! # Reads

The bytes of a read, each translated afresh: its value, what serving it does to the storage link and the alert unit, and the report at
the release of HCS_N (R10 to R12, R14, R22, R32, R39, R43, R76, R179, R181). -/

namespace Sys2Proof.Machine

open Sys2Proof

/-! ## The policy for a read byte (R12) -/

section policy

variable {s : State} {l : Nat}

theorem State.translateRead_aperture (h : 0xFFC000 ≤ l) :
    s.translateRead l = ⟨.aperture ((l - 0xFFC000) / 0x1000) (l % 0x1000), none, none, 0⟩ := by
  unfold State.translateRead
  rw [State.place_aperture h]

theorem State.translateRead_uncovered (h : s.place l = .uncovered) : s.translateRead l = ⟨.fill, none, none, 0⟩ := by
  unfold State.translateRead
  rw [h]

theorem State.translateRead_identity (h : l < 0xFFC000) (hp : s.place l = .identity) :
    s.translateRead l = ⟨.forward l, none, none, 0⟩ := by
  unfold State.translateRead
  rw [hp]
  exact toFlash_within (by omega) _ _ _ _

theorem State.translateRead_region {u : Table} {d : Descriptor} {k : Kind} {o : Nat} (hp : s.place l = .region u d k o)
    (ho : physical u s.active s.intake.session.bank d k o < 0x2000000) :
    (s.translateRead l).verdict =
      if k = .hidden ∨ (d.windowOnly = true ∧ ¬ s.restart.bootWindow = true) then .fill
      else .forward (physical u s.active s.intake.session.bank d k o) := by
  unfold State.translateRead
  rw [hp]
  dsimp only
  split
  · rfl
  · rw [toFlash_within ho]

theorem toFlash_not_aperture {p : Nat} {region : Option Nat} {kind : Option Kind} {at_ page off : Nat} :
    (toFlash p region kind at_ .fill).verdict ≠ .aperture page off := by
  unfold toFlash
  split <;> nofun

theorem State.place_not_aperture (h : l < 0xFFC000) (page off : Nat) : s.place l ≠ .aperture page off := by
  unfold State.place
  rw [if_neg (show ¬ apertureBase ≤ l from Nat.not_le.mpr h)]
  split
  · nofun
  · nofun
  · split
    · nofun
    · split <;> nofun

/-- Below the aperture no byte comes from it (R1). -/
theorem State.translateRead_below (h : l < 0xFFC000) (page off : Nat) : (s.translateRead l).verdict ≠ .aperture page off := by
  unfold State.translateRead
  split
  · rename_i p o hp
    exact absurd hp (State.place_not_aperture h p o)
  · nofun
  · exact toFlash_not_aperture
  · dsimp only
    split
    · nofun
    · exact toFlash_not_aperture

end policy

/-! ## Serving a byte -/

/-- The logical address of a context's response page (R1). -/
def responsePage : Ctx → Nat
  | .c0 => 0xFFD000
  | .c1 => 0xFFF000

/-- Reading the byte at this address clears the context's RESPONSE source (R179). -/
def State.readClears (s : State) (l : Nat) (c : Ctx) : Bool := (s.ctx c).response.isReady && decide (l = responsePage c)

/-- The RESPONSE sources of the contexts marked. -/
def responseMask (b0 b1 : Bool) : BitVec 8 :=
  (if b0 then responseSource .c0 else 0) ||| (if b1 then responseSource .c1 else 0)

theorem responseMask_or (p0 p1 q0 q1 : Bool) :
    responseMask p0 p1 ||| responseMask q0 q1 = responseMask (p0 || q0) (p1 || q1) := by
  revert p0 p1 q0 q1
  decide

/-- Serving a byte touches the storage link, but not the forward, and the alert unit (R32, R39). -/
theorem State.serveByte_frame (s : State) (r : Record) :
    { s.serveByte r with storage := s.storage, alert := s.alert } = s ∧ (s.serveByte r).storage.forward = s.storage.forward := by
  unfold State.serveByte
  split
  · unfold State.readAperture
    split <;> exact ⟨rfl, rfl⟩
  · split <;> exact ⟨rfl, rfl⟩
  · exact ⟨rfl, rfl⟩

theorem State.serveByte_setDecoder (s : State) (d : Decoder) (r : Record) :
    (s.setDecoder d).serveByte r = (s.serveByte r).setDecoder d := by
  unfold State.serveByte
  split
  · unfold State.readAperture
    rw [apply_ite (fun t : State => t.setDecoder d)]
    rfl
  · rw [apply_ite (fun t : State => t.setDecoder d)]
    rfl
  · rfl

theorem State.readAperture_step (u : State) (page off : Nat) :
    AlertStep u.time.tick
      (if isResponsePage page = true ∧ off = 0 ∧ (u.ctx (pageCtx page)).response.isReady = true then
        responseSource (pageCtx page) else 0) 0 u.alert (u.readAperture page off).alert := by
  unfold State.readAperture
  split
  · exact u.clearSource_step _
  · exact AlertStep.refl _ _

/-- The RESPONSE source of an address in the aperture, by its page and offset (R1, R179). -/
theorem State.readClears_page (s : State) {l : Nat} (h : 0xFFC000 ≤ l) (hl : l < 0x1000000) :
    (if isResponsePage ((l - 0xFFC000) / 0x1000) = true ∧ l % 0x1000 = 0 ∧
        (s.ctx (pageCtx ((l - 0xFFC000) / 0x1000))).response.isReady = true then
      responseSource (pageCtx ((l - 0xFFC000) / 0x1000)) else 0) =
      responseMask (s.readClears l .c0) (s.readClears l .c1) := by
  by_cases h0 : l = 0xFFD000
  · subst h0
    have hpage : (0xFFD000 - 0xFFC000) / 0x1000 = 1 := rfl
    rw [hpage]
    cases hr : (s.ctx .c0).response.isReady <;>
      simp [State.readClears, responsePage, responseMask, isResponsePage, pageCtx, hr]
  · by_cases h1 : l = 0xFFF000
    · subst h1
      have hpage : (0xFFF000 - 0xFFC000) / 0x1000 = 3 := rfl
      rw [hpage]
      cases hr : (s.ctx .c1).response.isReady <;>
        simp [State.readClears, responsePage, responseMask, isResponsePage, pageCtx, hr]
    · have hnot : ¬ (isResponsePage ((l - 0xFFC000) / 0x1000) = true ∧ l % 0x1000 = 0 ∧
          (s.ctx (pageCtx ((l - 0xFFC000) / 0x1000))).response.isReady = true) := by
        rintro ⟨hpage, hoff, -⟩
        have hodd : (l - 0xFFC000) / 0x1000 % 2 = 1 := by simpa [isResponsePage] using hpage
        omega
      rw [if_neg hnot]
      simp [State.readClears, responsePage, responseMask, h0, h1]

/-- The RESPONSE sources that serving the byte at an address clears (R179). -/
theorem State.serveByte_alert (s : State) {u : State} (hreq : u.requests = s.requests) (htime : u.time = s.time) {l : Nat}
    (hl : l < 0x1000000) :
    AlertStep s.time.tick (responseMask (s.readClears l .c0) (s.readClears l .c1)) 0 u.alert
      (u.serveByte (s.translateRead l)).alert := by
  rcases Nat.lt_or_ge l 0xFFC000 with hlow | hap
  · have hsame : (u.serveByte (s.translateRead l)).alert = u.alert := by
      unfold State.serveByte
      split
      · rename_i page off hv
        exact absurd hv (State.translateRead_below hlow page off)
      · split <;> rfl
      · rfl
    have hnone : ∀ c, s.readClears l c = false := fun c => by
      have hne : l ≠ responsePage c := by cases c <;> simp only [responsePage] <;> omega
      simp [State.readClears, hne]
    rw [hsame, hnone, hnone]
    exact AlertStep.refl _ _
  · have hstep := u.readAperture_step ((l - 0xFFC000) / 0x1000) (l % 0x1000)
    have hctx : u.ctx (pageCtx ((l - 0xFFC000) / 0x1000)) = s.ctx (pageCtx ((l - 0xFFC000) / 0x1000)) :=
      congrArg (fun r : Requests => r.ctx.get _) hreq
    rw [hctx, htime, s.readClears_page hap hl] at hstep
    rw [State.translateRead_aperture hap]
    exact hstep

/-! ## The bytes served -/

/-- The state when the first `m` bytes from an address on have been served. -/
def State.served (s : State) (a : Nat) : Nat → State
  | 0 => s
  | m + 1 => (s.served a m).serveByte (s.translateRead ((a + m) % 0x1000000))

theorem State.served_frame (s : State) (a m : Nat) :
    { s.served a m with storage := s.storage, alert := s.alert } = s ∧ (s.served a m).storage.forward = s.storage.forward := by
  induction m with
  | zero => exact ⟨rfl, rfl⟩
  | succ m ih =>
    obtain ⟨hframe, hforward⟩ := ih
    obtain ⟨hframe', hforward'⟩ := (s.served a m).serveByte_frame (s.translateRead ((a + m) % 0x1000000))
    exact ⟨(congrArg (fun t : State => { t with storage := s.storage, alert := s.alert }) hframe').trans hframe,
      hforward'.trans hforward⟩

/-- A state that differs in its link, its storage link and its alert unit, with the same forward in progress, reads the same bytes. -/
structure State.ReadsAs (s u : State) : Prop where
  frame : { u with link := s.link, storage := s.storage, alert := s.alert } = s
  forward : u.storage.forward = s.storage.forward

theorem State.served_readsAs (s : State) (a m : Nat) (d : Decoder) : s.ReadsAs ((s.served a m).setDecoder d) :=
  ⟨congrArg (fun t : State => { t with link := s.link }) (s.served_frame a m).1, (s.served_frame a m).2⟩

theorem State.ReadsAs.translateRead {s u : State} (h : s.ReadsAs u) (l : Nat) : u.translateRead l = s.translateRead l :=
  calc u.translateRead l
      = State.translateRead { u with link := s.link, storage := s.storage, alert := s.alert } l := rfl
    _ = s.translateRead l := by rw [h.frame]

theorem State.ReadsAs.readByte {s u : State} (h : s.ReadsAs u) (r : Record) : u.readByte r = s.readByte r := by
  have hsame : u.readByte r = State.readByte { u with link := s.link, storage := s.storage, alert := s.alert } r := by
    unfold State.readByte State.forwarding
    rw [h.forward]
    rfl
  rw [hsame, h.frame]

/-! ## The byte slots -/

/-- The decoder of a read when `k` data bytes have been driven (R14, R32). -/
def State.readDecoder (s : State) (cmd : LinkCmd) (a k : Nat) : Decoder :=
  { Decoder.addressed cmd a with
    state := .dataOut
    addr := (a + k) % 0x1000000
    ahead := if k = 0 then some (s.readByte (s.translateRead a), (s.translateRead a).region) else none
    count := k
    returned := (List.range k).map fun n => ((a + n) % 0x1000000, (s.translateRead ((a + n) % 0x1000000)).region)
    out := (List.range k).map fun n => s.readByte (s.translateRead ((a + n) % 0x1000000)) }

theorem State.readDecoder_drive (s : State) (cmd : LinkCmd) (a k : Nat) :
    { s.readDecoder cmd a k with
      addr := ((s.readDecoder cmd a k).addr + 1) % logicalSize
      ahead := none
      count := (s.readDecoder cmd a k).count + 1
      returned := (s.readDecoder cmd a k).returned ++
        [((s.readDecoder cmd a k).addr, (s.translateRead ((a + k) % 0x1000000)).region)]
      out := (s.readDecoder cmd a k).out ++ [s.readByte (s.translateRead ((a + k) % 0x1000000))] } =
      s.readDecoder cmd a (k + 1) := by
  unfold State.readDecoder
  simp only [List.range_succ, List.map_append, List.map_cons, List.map_nil, Nat.succ_ne_zero, if_false, logicalSize]
  have haddr : ((a + k) % 0x1000000 + 1) % 0x1000000 = (a + (k + 1)) % 0x1000000 := by omega
  rw [haddr]

/-- One data slot of a read drives the next byte, translated afresh but for the first (R11, R14). -/
theorem State.readSlot_drives (s : State) (cmd : LinkCmd) {a : Nat} (ha : a < 0x1000000) (k : Nat) :
    ((s.served a (max 1 k)).setDecoder (s.readDecoder cmd a k)).readSlot =
      (s.served a (max 1 (k + 1))).setDecoder (s.readDecoder cmd a (k + 1)) := by
  rw [← s.readDecoder_drive cmd a k]
  cases k with
  | zero =>
    have hahead : ((s.served a 1).setDecoder (s.readDecoder cmd a 0)).link.decoder.ahead =
        some (s.readByte (s.translateRead a), (s.translateRead a).region) := rfl
    have hmod : (a + 0) % 0x1000000 = a := Nat.mod_eq_of_lt ha
    rw [hmod]
    exact State.readSlot_of_ahead _ _ _ hahead
  | succ k =>
    have hnone : ((s.served a (k + 1)).setDecoder (s.readDecoder cmd a (k + 1))).link.decoder.ahead = none := rfl
    have hreads := s.served_readsAs a (k + 1) (s.readDecoder cmd a (k + 1))
    rw [show max 1 (k + 1) = k + 1 by omega, show max 1 (k + 1 + 1) = k + 1 + 1 by omega, State.readSlot_of_none _ hnone,
      hreads.translateRead, hreads.readByte]
    unfold State.translateAhead
    simp only [State.setDecoder_decoder]
    rw [hreads.translateRead, State.serveByte_setDecoder]
    rfl

/-- The data slots of a read. -/
theorem State.clockAll_read (s : State) {cmd : LinkCmd} (hread : cmd.isRead = true) {a : Nat} (ha : a < 0x1000000)
    (clocked : List Byte) :
    ((s.served a 1).setDecoder (s.readDecoder cmd a 0)).clockAll cmd clocked =
      (s.served a (max 1 clocked.length)).setDecoder (s.readDecoder cmd a clocked.length) := by
  induction clocked using List.reverseRecOn with
  | nil => rfl
  | append_singleton clocked b ih =>
    have hslot : ∀ u : State, u.link.decoder.state = .dataOut → u.clockSlot cmd b = u.readSlot := fun u hu => by
      unfold State.clockSlot
      simp only [hu, hread, if_true]
    rw [State.clockAll_append, ih, List.length_append, List.length_singleton, ← s.readSlot_drives cmd ha]
    exact hslot ((s.served a (max 1 clocked.length)).setDecoder (s.readDecoder cmd a clocked.length)) rfl

theorem LinkCmd.eq_of_isRead {cmd : LinkCmd} (h : cmd.isRead = true) : cmd = .read ∨ cmd = .fastRead ∨ cmd = .quadRead := by
  cases cmd with
  | read => exact Or.inl rfl
  | fastRead => exact Or.inr (Or.inl rfl)
  | quadRead => exact Or.inr (Or.inr rfl)
  | _ => exact absurd h Bool.false_ne_true

/-- The last address bit of a read has its first byte translated and served (R11). -/
theorem State.addressSlot_last {s : State} {cmd : LinkCmd} (hread : cmd.isRead = true) {a : Nat} (ha : a < 0x1000000)
    {pre : List Byte} {last : Byte} (hbytes : addressBytes a = pre ++ [last]) (hpre : s.link.decoder.addrBytes = pre) :
    s.addressSlot cmd last =
      (s.serveByte (s.translateRead a)).setDecoder
        { s.link.decoder with
          addrBytes := addressBytes a, addr := a, start := a, state := cmd.afterAddress
          ahead := some (s.readByte (s.translateRead a), (s.translateRead a).region) } := by
  have hlen : ¬ (addressBytes a).length < 3 := Nat.lt_irrefl 3
  have hafter : cmd.afterAddress ≠ .address := by cases cmd <;> simp [LinkCmd.afterAddress]
  have htake : s.link.decoder.takeAddress cmd last =
      { s.link.decoder with addrBytes := addressBytes a, addr := a, start := a, state := cmd.afterAddress } := by
    unfold Decoder.takeAddress
    simp only [hpre, ← hbytes, ofBe_addressBytes ha]
    exact if_neg hlen
  unfold State.addressSlot
  rw [htake]
  dsimp only
  rw [if_pos ⟨hread, hafter⟩]
  unfold State.translateAhead
  simp only [State.setDecoder_decoder, State.serveByte_setDecoder]
  rfl

/-- The address bytes of a read, and the dummy slot of the two commands that have one (R22). -/
theorem State.clockAll_readAddress (s : State) {cmd : LinkCmd} (hread : cmd.isRead = true) {a : Nat} (ha : a < 0x1000000) :
    (s.setDecoder (Decoder.commanded cmd)).clockAll cmd (addressBytes a) =
      (s.served a 1).setDecoder { s.readDecoder cmd a 0 with state := cmd.afterAddress } := by
  have hmod : (a + 0) % 0x1000000 = a := Nat.mod_eq_of_lt ha
  have hphase : cmd.firstPhase = .address := by
    rcases LinkCmd.eq_of_isRead hread with rfl | rfl | rfl <;> rfl
  have hearly : ∀ (d : Decoder) (b : Byte), d.state = .address → d.addrBytes.length < 2 →
      (s.setDecoder d).clockSlot cmd b = s.setDecoder { d with addrBytes := d.addrBytes ++ [b] } := by
    intro d b hd hlen
    have htake : d.takeAddress cmd b = { d with addrBytes := d.addrBytes ++ [b] } :=
      if_pos (by rw [List.length_append, List.length_singleton]; omega)
    unfold State.clockSlot State.addressSlot
    simp only [State.setDecoder_decoder, hd, htake, ne_eq, not_true_eq_false, and_false, if_false]
    rfl
  have hlast : ∀ d : Decoder, d.state = .address →
      d.addrBytes = [BitVec.ofNat 8 (a / 256 / 256), BitVec.ofNat 8 (a / 256)] →
        (s.setDecoder d).clockSlot cmd (BitVec.ofNat 8 a) =
          (s.serveByte (s.translateRead a)).setDecoder
            { d with
              addrBytes := addressBytes a, addr := a, start := a, state := cmd.afterAddress
              ahead := some (s.readByte (s.translateRead a), (s.translateRead a).region) } := by
    intro d hd hpre
    have hslot := State.addressSlot_last (s := s.setDecoder d) hread ha (pre := d.addrBytes) (by rw [hpre]; rfl) rfl
    rw [State.serveByte_setDecoder] at hslot
    unfold State.clockSlot
    simp only [State.setDecoder_decoder, hd]
    exact hslot
  have h1 := hearly (Decoder.commanded cmd) (BitVec.ofNat 8 (a / 256 / 256)) hphase Nat.zero_lt_two
  have h2 := hearly { Decoder.commanded cmd with addrBytes := [BitVec.ofNat 8 (a / 256 / 256)] } (BitVec.ofNat 8 (a / 256))
    hphase Nat.one_lt_two
  have h3 := hlast
    { Decoder.commanded cmd with addrBytes := [BitVec.ofNat 8 (a / 256 / 256), BitVec.ofNat 8 (a / 256)] } hphase rfl
  rw [addressBytes_eq, State.clockAll_cons, State.clockAll_cons, State.clockAll_cons, h1]
  refine ((congrArg (fun t : State => t.clockSlot cmd (BitVec.ofNat 8 a)) h2).trans h3).trans ?_
  unfold State.readDecoder
  simp only [State.served, hmod]
  rfl

/-- The state at the release of HCS_N, every byte of the read having been driven. -/
def State.readDone (s : State) (cmd : LinkCmd) (a : Nat) (clocked : List Byte) : State :=
  (s.served a (max 1 clocked.length)).setDecoder (s.readDecoder cmd a clocked.length)

/-- A whole read: its bytes are served, and its release ends it (R22, R32, R33). -/
theorem LinkIdle.exec_read {s : State} (h : LinkIdle s) {a : Nat} (ha : a < 0x1000000) (dummy : Byte) (clocked : List Byte)
    (stray : Nat) {i : Instr}
    (hi : i = .read (.transaction (addressBytes a ++ clocked) stray) ∨
      i = .fastRead (.transaction (addressBytes a ++ dummy :: clocked) stray) ∨
      i = .quadOutputFastRead (.transaction (addressBytes a ++ dummy :: clocked) stray)) :
    ∃ cmd, exec i s =
      .next (((s.readDone cmd a clocked).endRead false).setDecoder
        (Decoder.after ((List.range clocked.length).map fun n => s.readByte (s.translateRead ((a + n) % 0x1000000))))) := by
  obtain ⟨hrun, hidle⟩ := h
  have htransact : ∀ (cmd : LinkCmd) (bytes : List Byte), cmd.isRead = true →
      ((s.served a 1).setDecoder { s.readDecoder cmd a 0 with state := cmd.afterAddress }).clockAll cmd bytes =
        s.readDone cmd a clocked →
      s.transact cmd (addressBytes a ++ bytes) stray =
        ((s.readDone cmd a clocked).endRead false).setDecoder
          (Decoder.after ((List.range clocked.length).map fun n => s.readByte (s.translateRead ((a + n) % 0x1000000)))) := by
    intro cmd bytes hread hdata
    have hgated : cmd.gated = true → s.link.wel = true ∧ s.busy = false := by
      intro hg
      rcases LinkCmd.eq_of_isRead hread with rfl | rfl | rfl <;> exact absurd hg Bool.false_ne_true
    have hperform : ∀ u : State, u.perform cmd stray = u.endRead false := fun u => by
      rcases LinkCmd.eq_of_isRead hread with rfl | rfl | rfl <;> rfl
    rw [State.transact, State.select_takeCommand hidle cmd hgated, State.clockAll_append, s.clockAll_readAddress hread ha, hdata,
      State.release, hperform]
    rfl
  have hdummy : ∀ cmd : LinkCmd, cmd.isRead = true → cmd.afterAddress = .dummy →
      ((s.served a 1).setDecoder { s.readDecoder cmd a 0 with state := cmd.afterAddress }).clockAll cmd (dummy :: clocked) =
        s.readDone cmd a clocked := by
    intro cmd hread hafter
    rw [State.readDone, ← s.clockAll_read hread ha clocked, State.clockAll_cons, hafter]
    rfl
  rcases hi with rfl | rfl | rfl
  · refine ⟨.read, ?_⟩
    show execRead _ s = _
    rw [execRead, whenRunning_eq hrun]
    exact congrArg _ ((if_pos hidle).trans (htransact .read clocked rfl (s.clockAll_read rfl ha clocked)))
  · refine ⟨.fastRead, ?_⟩
    show execFastRead _ s = _
    rw [execFastRead, whenRunning_eq hrun]
    exact congrArg _ ((if_pos hidle).trans (htransact .fastRead (dummy :: clocked) rfl (hdummy .fastRead rfl rfl)))
  · refine ⟨.quadRead, ?_⟩
    show execQuadOutputFastRead _ s = _
    rw [execQuadOutputFastRead, whenRunning_eq hrun]
    exact congrArg _ ((if_pos hidle).trans (htransact .quadRead (dummy :: clocked) rfl (hdummy .quadRead rfl rfl)))

end Sys2Proof.Machine
end

section
/-! # What a read leaves

The storage link, the alert unit and the hit list after a whole read, and the values of its bytes (R12, R14, R32, R39, R43, R76, R79,
R179, R181). -/

namespace Sys2Proof.Machine

open Sys2Proof

/-! ## The storage link and the alert unit -/

/-- The storage link after a host read byte: a background job that runs is suspended (R39, R43). -/
def Storage.reading (x : Storage) (p : Nat) : Storage :=
  { x with link := .hostRead, readAt := some (p + 1), job := x.job.map fun j => { j with running := false } }

theorem Storage.reading_reading (x : Storage) (p q : Nat) : (x.reading p).reading q = x.reading q := by
  simp [Storage.reading, Option.map_map, Function.comp_def]

theorem State.serveByte_fetches {u : State} (hf : u.storage.forward = none) {r : Record} {p : Nat} (hr : r.verdict = .forward p) :
    (u.serveByte r).storage = u.storage.reading p := by
  unfold State.serveByte
  simp only [hr, State.forwarding, hf, Option.isSome_none, Bool.false_eq_true, if_false]
  rfl

theorem State.serveByte_keeps {u : State} {r : Record} (h : ¬ (u.storage.forward = none ∧ ∃ p, r.verdict = .forward p)) :
    (u.serveByte r).storage = u.storage := by
  unfold State.serveByte
  split
  · unfold State.readAperture
    split <;> rfl
  · rename_i p hp
    have hf : u.storage.forward ≠ none := fun e => h ⟨e, p, hp⟩
    rw [if_pos (show u.forwarding = true from Option.isSome_iff_ne_none.2 hf)]
  · rfl

/-- One of the first `m` bytes is fetched from the real flash. -/
def State.fetches (s : State) (a m : Nat) : Prop :=
  s.storage.forward = none ∧ ∃ n p, n < m ∧ (s.translateRead ((a + n) % 0x1000000)).verdict = .forward p

theorem State.served_storage (s : State) (a m : Nat) :
    (s.fetches a m → ∃ p, (s.served a m).storage = s.storage.reading p) ∧
      (¬ s.fetches a m → (s.served a m).storage = s.storage) := by
  induction m with
  | zero => exact ⟨fun ⟨_, n, _, hn, _⟩ => absurd hn (Nat.not_lt_zero n), fun _ => rfl⟩
  | succ m ih =>
    obtain ⟨hyes, hno⟩ := ih
    have hforward : (s.served a m).storage.forward = s.storage.forward := (s.served_frame a m).2
    have hbase : (∃ p, (s.served a m).storage = s.storage.reading p) ∨ (s.served a m).storage = s.storage := by
      by_cases h : s.fetches a m
      · exact Or.inl (hyes h)
      · exact Or.inr (hno h)
    by_cases hlast : s.storage.forward = none ∧ ∃ p, (s.translateRead ((a + m) % 0x1000000)).verdict = .forward p
    · obtain ⟨hf, p, hp⟩ := hlast
      have hstep := State.serveByte_fetches (hforward.trans hf) hp
      refine ⟨fun _ => ⟨p, hstep.trans ?_⟩, fun h => absurd ⟨hf, m, p, Nat.lt_succ_self m, hp⟩ h⟩
      rcases hbase with ⟨q, hq⟩ | hq
      · rw [hq, Storage.reading_reading]
      · rw [hq]
    · have hstep : (s.served a (m + 1)).storage = (s.served a m).storage :=
        State.serveByte_keeps (by rw [hforward]; exact hlast)
      have hiff : s.fetches a (m + 1) ↔ s.fetches a m := by
        constructor
        · rintro ⟨hf, n, p, hn, hp⟩
          rcases Nat.lt_or_ge n m with h | h
          · exact ⟨hf, n, p, h, hp⟩
          · obtain rfl : n = m := by omega
            exact absurd ⟨hf, p, hp⟩ hlast
        · rintro ⟨hf, n, p, hn, hp⟩
          exact ⟨hf, n, p, Nat.lt_succ_of_lt hn, hp⟩
      rw [hiff, hstep]
      exact ⟨hyes, hno⟩

/-- One of the first `m` bytes is the first one of the context's READY response. -/
def State.readsFirst (s : State) (a m : Nat) (c : Ctx) : Bool :=
  (List.range m).any fun n => s.readClears ((a + n) % 0x1000000) c

theorem State.readsFirst_succ (s : State) (a m : Nat) (c : Ctx) :
    s.readsFirst a (m + 1) c = (s.readsFirst a m c || s.readClears ((a + m) % 0x1000000) c) := by
  simp [State.readsFirst, List.range_succ]

theorem State.readsFirst_iff (s : State) (a m : Nat) (c : Ctx) :
    s.readsFirst a m c = true ↔
      (s.ctx c).response.isReady = true ∧ ∃ n, n < m ∧ (a + n) % 0x1000000 = responsePage c := by
  simp only [State.readsFirst, State.readClears, List.any_eq_true, List.mem_range, Bool.and_eq_true, decide_eq_true_eq]
  constructor
  · rintro ⟨n, hn, hr, hl⟩
    exact ⟨hr, n, hn, hl⟩
  · rintro ⟨hr, n, hn, hl⟩
    exact ⟨n, hn, hr, hl⟩

theorem State.served_alert (s : State) (a m : Nat) :
    AlertStep s.time.tick (responseMask (s.readsFirst a m .c0) (s.readsFirst a m .c1)) 0 s.alert (s.served a m).alert := by
  induction m with
  | zero =>
    have hnone : responseMask (s.readsFirst a 0 .c0) (s.readsFirst a 0 .c1) = 0 := by
      show responseMask false false = 0
      decide
    rw [hnone]
    exact AlertStep.refl _ _
  | succ m ih =>
    have hframe := (s.served_frame a m).1
    have hstep := s.serveByte_alert (u := s.served a m) (congrArg (·.requests) hframe) (congrArg (·.time) hframe)
      (Nat.mod_lt (a + m) (by decide : 0x1000000 > 0))
    have hboth := ih.clear_clear hstep
    rwa [responseMask_or, ← s.readsFirst_succ, ← s.readsFirst_succ] at hboth

/-! ## The end of a read -/

section ends

variable (s : State) (cmd : LinkCmd) (a : Nat) (clocked : List Byte)

theorem State.readDone_frame :
    { s.readDone cmd a clocked with link := s.link, storage := s.storage, alert := s.alert } = s :=
  congrArg (fun t : State => { t with link := s.link }) (s.served_frame a (max 1 clocked.length)).1

theorem State.endRead_frame (b : Bool) :
    { s.endRead b with storage := s.storage, watch := s.watch, alert := s.alert, creds := s.creds, time := s.time } = s := by
  obtain ⟨_, _, _, _, _, e⟩ := s.endRead_touches b
  rw [e]

/-- What a read leaves alone. -/
theorem State.readEnd_frame :
    { (s.readDone cmd a clocked).endRead false with
      link := s.link, storage := s.storage, watch := s.watch, alert := s.alert, creds := s.creds, time := s.time } = s := by
  have hend := (s.readDone cmd a clocked).endRead_frame false
  have hdone := s.readDone_frame cmd a clocked
  calc _ = { s.readDone cmd a clocked with
        link := s.link, storage := s.storage, watch := s.watch, alert := s.alert, creds := s.creds, time := s.time } :=
      congrArg (fun t : State => { t with
        link := s.link, storage := s.storage, watch := s.watch, alert := s.alert, creds := s.creds, time := s.time }) hend
    _ = s := congrArg (fun t : State => { t with watch := s.watch, creds := s.creds, time := s.time }) hdone

theorem State.closeRead_hitFrame : HitFrame s s.closeRead := by
  obtain ⟨_, e⟩ := s.closeRead_touches
  rw [e]
  exact HitFrame.refl s

theorem State.endRead_hitFrame (b : Bool) : HitFrame s (s.endRead b) := by
  rw [s.endRead_eq]
  split
  · exact s.closeRead_hitFrame
  · exact s.closeRead_hitFrame.trans (State.takeHits_hitFrame _ _)

theorem State.readDone_time : (s.readDone cmd a clocked).time = s.time := congrArg (·.time) (s.readDone_frame cmd a clocked)
theorem State.readDone_watch : (s.readDone cmd a clocked).watch = s.watch := congrArg (·.watch) (s.readDone_frame cmd a clocked)
theorem State.readDone_creds : (s.readDone cmd a clocked).creds = s.creds := congrArg (·.creds) (s.readDone_frame cmd a clocked)

theorem State.readEnd_hitFrame : HitFrame s ((s.readDone cmd a clocked).endRead false) := by
  have h := (s.readDone cmd a clocked).endRead_hitFrame false
  unfold HitFrame at *
  rwa [s.readDone_time, s.readDone_watch] at h

/-- A read without a hit: the watch unit, the stamps and the reservations are as before (R76). -/
theorem State.readEnd_silent (h : clocked = [] ∨ s.watch.table = [] ∧ s.watch.waiting = []) :
    (s.readDone cmd a clocked).endRead false = (s.readDone cmd a clocked).closeRead := by
  refine State.endRead_silent ?_
  rcases h with rfl | ⟨ht, hw⟩
  · exact Or.inl rfl
  · refine Or.inr ⟨by rw [s.readDone_watch]; exact hw, State.endHits_nil fun w hmem => ?_⟩
    rw [s.readDone_watch, ht] at hmem
    cases hmem

/-- The storage link after a read: its physical read is closed, and a job that it suspended waits (R33, R39, R43). -/
theorem State.readEnd_storage (hlink : s.storage.link ≠ .hostRead) :
    (s.fetches a (max 1 clocked.length) →
      ((s.readDone cmd a clocked).endRead false).storage =
        { s.storage with link := .idle, readAt := none, job := s.storage.job.map fun j => { j with running := false } }) ∧
      (¬ s.fetches a (max 1 clocked.length) → ((s.readDone cmd a clocked).endRead false).storage = s.storage) := by
  obtain ⟨hyes, hno⟩ := s.served_storage a (max 1 clocked.length)
  rw [State.endRead_storage, State.closeRead_storage]
  refine ⟨fun h => ?_, fun h => ?_⟩
  · obtain ⟨p, hp⟩ := hyes h
    rw [show (s.readDone cmd a clocked).storage = s.storage.reading p from hp]
    rfl
  · rw [show (s.readDone cmd a clocked).storage = s.storage from hno h, if_neg hlink, if_neg hlink]

/-- The address and region of the byte of a data slot. -/
theorem State.returned_split {n k : Nat} (h : n < k) (f : Nat → Nat × Option Nat) :
    (List.range k).map f = (List.range n).map f ++ f n :: ((List.range (k - n - 1)).map fun i => f (n + 1 + i)) := by
  obtain ⟨j, rfl⟩ : ∃ j, k = n + 1 + j := ⟨k - n - 1, by omega⟩
  have hj : n + 1 + j - n - 1 = j := by omega
  rw [hj, List.range_add, List.range_succ]
  simp [List.map_append, List.map_map, Function.comp_def]

/-- A read that touches a watched range: one hit, stamped and recorded (R76, R79, R81). -/
theorem State.readEnd_recorded {w : WatchEntry} {x : Stamp} {n : Nat} (ht : s.watch.table = [w])
    (hd : s.watch.holdDeferred = false) (hx : StampFree s x) (hr : w.onRead = true) (ha : w.alert = false)
    (hdeg : w.degrade = false) (hn : n < clocked.length) (hin : w.inRange ((a + n) % 0x1000000 / 0x1000) = true)
    (hbefore : ∀ m, m < n → w.inRange ((a + m) % 0x1000000 / 0x1000) = false) :
    ((s.readDone cmd a clocked).endRead false).watch =
        s.watch.add ⟨x, a, .read, (s.translateRead ((a + n) % 0x1000000)).region, some 0⟩ ∧
      ((s.readDone cmd a clocked).endRead false).time = { s.time with lastStamp := some x } := by
  have hreturned := State.returned_split hn fun n => ((a + n) % 0x1000000, (s.translateRead ((a + n) % 0x1000000)).region)
  have hhits : (s.readDone cmd a clocked).endHits false =
      [⟨a, .read, (s.translateRead ((a + n) % 0x1000000)).region, some 0, w.alert, w.degrade, false⟩] := by
    refine State.endHits_single (by rw [s.readDone_watch]; exact ht) (by rw [s.readDone_watch]; exact hd) hr hreturned hin ?_
    intro b hb
    obtain ⟨m, hm, rfl⟩ := List.mem_map.1 hb
    exact hbefore m (List.mem_range.1 hm)
  have hne : (s.readDone cmd a clocked).link.decoder.returned ≠ [] := fun e => by
    have hlen := congrArg List.length (hreturned.symm.trans e)
    simp at hlen
  have hframe : { (s.readDone cmd a clocked).closeRead with link := s.link, storage := s.storage, alert := s.alert } = s := by
    obtain ⟨_, e⟩ := (s.readDone cmd a clocked).closeRead_touches
    rw [e]
    exact congrArg (fun t : State => { t with storage := s.storage }) (s.readDone_frame cmd a clocked)
  have hwatch : (s.readDone cmd a clocked).closeRead.watch = s.watch := congrArg (·.watch) hframe
  have htime : (s.readDone cmd a clocked).closeRead.time = s.time := congrArg (·.time) hframe
  have hfree : StampFree (s.readDone cmd a clocked).closeRead x := by
    rw [← hframe] at hx
    exact hx
  rw [State.endRead_eq, if_neg hne, hhits, State.takeHits_recorded hfree ha hdeg rfl]
  dsimp only
  rw [hwatch, htime]
  exact ⟨rfl, rfl⟩

theorem State.readEnd_link :
    ((s.readDone cmd a clocked).endRead false).link = { s.link with decoder := s.readDecoder cmd a clocked.length } := by
  have hend : ((s.readDone cmd a clocked).endRead false).link = (s.readDone cmd a clocked).link :=
    congrArg (·.link) (State.endRead_frame _ false)
  have hserved : (s.served a (max 1 clocked.length)).link = s.link := congrArg (·.link) (s.served_frame a _).1
  rw [hend, ← hserved]
  rfl

theorem State.readEnd_forward : ((s.readDone cmd a clocked).endRead false).storage.forward = s.storage.forward := by
  rw [State.endRead_storage, State.closeRead_storage]
  exact (s.served_frame a (max 1 clocked.length)).2

/-- A read without a hit clears the RESPONSE sources of the responses whose first byte it has translated (R179). -/
theorem State.readEnd_quiet (h : clocked = [] ∨ s.watch.table = [] ∧ s.watch.waiting = []) :
    ((s.readDone cmd a clocked).endRead false).watch = s.watch ∧
      ((s.readDone cmd a clocked).endRead false).time = s.time ∧
      ((s.readDone cmd a clocked).endRead false).creds = s.creds ∧
      AlertStep s.time.tick
        (responseMask (s.readsFirst a (max 1 clocked.length) .c0) (s.readsFirst a (max 1 clocked.length) .c1)) 0 s.alert
        ((s.readDone cmd a clocked).endRead false).alert := by
  obtain ⟨_, e⟩ := (s.readDone cmd a clocked).closeRead_touches
  rw [s.readEnd_silent cmd a clocked h, e]
  exact ⟨s.readDone_watch cmd a clocked, s.readDone_time cmd a clocked, s.readDone_creds cmd a clocked,
    s.served_alert a (max 1 clocked.length)⟩

end ends

end Sys2Proof.Machine
end

section
/-! # Byte slots and values of reads

The slots of the three reads one by one, and where each byte comes from (R11, R12, R14, R22, R30, R32, R179, R181). -/

namespace Sys2Proof.Machine

open Sys2Proof

/-! ## The slots, one by one -/

/-- The three reads are rows of one command each (R22, R32). -/
theorem exec_readRow {row : LinkStep → Instr} {cmd : LinkCmd} {next : DecoderState}
    (h : (row, cmd, next) ∈ [(Instr.read, LinkCmd.read, DecoderState.dataOut), (.fastRead, .fastRead, .dummy),
      (.quadOutputFastRead, .quadRead, .dummy)]) :
    cmd.isRead = true ∧ cmd.afterAddress = next ∧
      ∀ (s : State) (step : LinkStep), s.running = true → exec (row step) s = .next (s.linkStep cmd step) := by
  simp only [List.mem_cons, Prod.mk.injEq, List.not_mem_nil, or_false] at h
  rcases h with ⟨rfl, rfl, rfl⟩ | ⟨rfl, rfl, rfl⟩ | ⟨rfl, rfl, rfl⟩
  · exact ⟨rfl, rfl, fun s step hrun => whenRunning_eq hrun fun s => s.linkStep .read step⟩
  · exact ⟨rfl, rfl, fun s step hrun => whenRunning_eq hrun fun s => s.linkStep .fastRead step⟩
  · exact ⟨rfl, rfl, fun s step hrun => whenRunning_eq hrun fun s => s.linkStep .quadRead step⟩

theorem State.linkStep_clock {s : State} {cmd : LinkCmd} (hcmd : s.link.decoder.cmd = some cmd)
    (hstate : s.link.decoder.state ≠ .idle) (b : Byte) : s.linkStep cmd (.clock [b]) = s.clockSlot cmd b := by
  have hholds : s.holdsCmd cmd = true := by simp [State.holdsCmd, hcmd, hstate]
  exact if_pos hholds

/-- The last address bit of a read (R11). -/
theorem State.clockSlot_lastAddress {s : State} {cmd : LinkCmd} (hread : cmd.isRead = true) {a : Nat} (ha : a < 0x1000000)
    {pre : List Byte} {last : Byte} (hbytes : addressBytes a = pre ++ [last]) (hstate : s.link.decoder.state = .address)
    (hpre : s.link.decoder.addrBytes = pre) :
    (s.clockSlot cmd last).link =
        { s.link with
          decoder :=
            { s.link.decoder with
              addrBytes := addressBytes a, addr := a, start := a, state := cmd.afterAddress
              ahead := some (s.readByte (s.translateRead a), (s.translateRead a).region) } } ∧
      { s.clockSlot cmd last with link := s.link, storage := s.storage, alert := s.alert } = s := by
  obtain ⟨hframe, -⟩ := s.serveByte_frame (s.translateRead a)
  have hlink : (s.serveByte (s.translateRead a)).link = s.link := congrArg (·.link) hframe
  have hslot : s.clockSlot cmd last = s.addressSlot cmd last := by
    unfold State.clockSlot
    simp only [hstate]
  rw [hslot, State.addressSlot_last hread ha hbytes hpre]
  refine ⟨?_, congrArg (fun t : State => { t with link := s.link }) hframe⟩
  unfold State.setDecoder
  rw [hlink]

theorem State.clockSlot_dataOut {s : State} {cmd : LinkCmd} (hread : cmd.isRead = true)
    (hstate : s.link.decoder.state = .dataOut) {value : Byte} {region : Option Nat}
    (hahead : s.link.decoder.ahead = some (value, region)) (b : Byte) :
    s.clockSlot cmd b = s.setDecoder (s.link.decoder.driveRead value region) := by
  rw [← s.readSlot_of_ahead value region hahead]
  unfold State.clockSlot
  simp only [hstate, hread, if_true]

/-! ## Values -/

section values

variable {s : State} {l : Nat}

theorem State.readByte_fill {r : Record} (h : r.verdict = .fill) : s.readByte r = 0xFF := by
  unfold State.readByte
  rw [h]
  rfl

theorem State.readByte_forward {r : Record} {p : Nat} (h : r.verdict = .forward p) :
    s.readByte r = if s.storage.forward.isSome then 0xFF else Memory.read s.flash.mem p := by
  unfold State.readByte
  rw [h]
  rfl

theorem State.readByte_page {base off : Nat} (page : Nat) (hoff : off < 0x1000)
    (hbase : base = 0xFFC000 + page * 0x1000) (hl : l = base + off) :
    s.readByte (s.translateRead l) = s.apertureByte page off := by
  have hpage : (l - 0xFFC000) / 0x1000 = page := by omega
  have hinPage : l % 0x1000 = off := by omega
  rw [State.translateRead_aperture (by omega), hpage, hinPage]
  rfl

/-- A request page reads FFh (R181). -/
theorem State.readByte_requestPage {c : Ctx} {off : Nat} (hoff : off < 0x1000)
    (hl : l = (match c with | .c0 => 0xFFC000 | .c1 => 0xFFE000) + off) : s.readByte (s.translateRead l) = 0xFF := by
  cases c with
  | c0 => exact State.readByte_page 0 hoff rfl hl
  | c1 => exact State.readByte_page 2 hoff rfl hl

/-- A response page gives the response, and FFh beyond it (R179). -/
theorem State.readByte_responsePage {c : Ctx} {off : Nat} (hoff : off < 0x1000)
    (hl : l = (match c with | .c0 => 0xFFD000 | .c1 => 0xFFF000) + off) :
    s.readByte (s.translateRead l) = (s.ctx c).response.bytes.getD off 0xFF := by
  cases c with
  | c0 => exact State.readByte_page 1 hoff rfl hl
  | c1 => exact State.readByte_page 3 hoff rfl hl

theorem State.readByte_region {m : Slot} {u : Table} {d : Descriptor} {k : Kind} {p : Nat} (h : l < 0xFFC000)
    (hx : s.xlat.inForce = .table m u) (hd : u.descriptors.find? (fun d => d.covers (l / 0x1000)) = some d)
    (hk : d.kind? = some k)
    (hp : physical u s.store.working.selector s.intake.session.bank d k (l - d.base * 0x1000) = p) (hin : p < 0x2000000) :
    s.readByte (s.translateRead l) =
      if k = .hidden ∨ d.windowOnly = true ∧ s.restart.bootWindow = false ∨ s.storage.forward.isSome = true then 0xFF
      else Memory.read s.flash.mem p := by
  subst hp
  have hverdict := State.translateRead_region (State.place_covered h hx hd hk) hin
  by_cases hclosed : k = .hidden ∨ d.windowOnly = true ∧ s.restart.bootWindow = false
  · have hclosed' : k = .hidden ∨ d.windowOnly = true ∧ ¬ s.restart.bootWindow = true := by simpa using hclosed
    rw [if_pos hclosed'] at hverdict
    rw [State.readByte_fill hverdict, if_pos (hclosed.elim Or.inl fun h => Or.inr (Or.inl h))]
  · have hopen : ¬ (k = .hidden ∨ d.windowOnly = true ∧ ¬ s.restart.bootWindow = true) := by simpa using hclosed
    rw [if_neg hopen] at hverdict
    rw [State.readByte_forward hverdict]
    by_cases hf : s.storage.forward.isSome = true
    · rw [if_pos hf, if_pos (Or.inr (Or.inr hf))]
    · rw [if_neg hf, if_neg fun h => h.elim (fun h => hclosed (Or.inl h)) fun h => h.elim (fun h => hclosed (Or.inr h)) hf]
      rfl

end values

/-- Settles O13: a read serves its bytes one by one, and its end closes the physical read and reports it. -/
theorem readsReturnTranslatedBytes : Obligations.ReadsReturnTranslatedBytes := by
  refine ⟨fun a dummy clocked stray s hidle ha i hi => ?_, fun row cmd next a s hrow hrun hcmd => ?_, fun s l => ?_⟩
  · obtain ⟨cmd, hexec⟩ := hidle.exec_read ha dummy clocked stray hi
    have hframe := s.readEnd_frame cmd a clocked
    obtain ⟨htick, hwall, hregs, halt, htable⟩ := s.readEnd_hitFrame cmd a clocked
    have hlink := s.readEnd_link cmd a clocked
    have hforward := s.readEnd_forward cmd a clocked
    have hquiet := s.readEnd_quiet cmd a clocked
    have hstorage := s.readEnd_storage cmd a clocked
    refine ⟨_, hexec, ?_, congrArg (·.flash) hframe, congrArg (·.requests) hframe, congrArg (·.store) hframe,
      congrArg (·.xlat) hframe, congrArg (·.intake) hframe, congrArg (·.crypto) hframe, congrArg (·.restart) hframe, htick,
      hwall, hforward, hregs, halt, fun hd => (htable hd).2, fun first hfirst ht hw => ?_, fun fetched hfetched hl => ?_,
      fun hnil => ?_, fun w x n ht hd hx hr hal hdeg hn hin hbefore => ?_⟩
    · unfold State.setDecoder
      rw [hlink]
    · obtain ⟨hwatch, htime, hcreds, halert⟩ := hquiet (Or.inr ⟨ht, hw⟩)
      have hsame : ∀ c, s.readsFirst a (max 1 clocked.length) c = first c := fun c =>
        Bool.eq_iff_iff.2 ((s.readsFirst_iff a _ c).trans (hfirst c).symm)
      rw [hsame, hsame] at halert
      exact ⟨hwatch, htime, hcreds, _, halert, _, AlertStep.refl _ _, rfl⟩
    · obtain ⟨hyes, hno⟩ := hstorage hl
      cases fetched with
      | true => exact hyes (hfetched.1 rfl)
      | false => exact hno fun h => Bool.false_ne_true (hfetched.2 h)
    · obtain ⟨hwatch, htime, hcreds, -⟩ := hquiet (Or.inl hnil)
      exact ⟨hwatch, htime, hcreds⟩
    · exact s.readEnd_recorded cmd a clocked ht hd hx hr hal hdeg hn hin hbefore
  · obtain ⟨hread, rfl, hexec⟩ := exec_readRow hrow
    refine ⟨fun pre last ha hbytes hstate hpre => ⟨_, hexec s _ hrun, ?_⟩, fun value slot region hstate hahead => ?_⟩
    · rw [State.linkStep_clock hcmd (by rw [hstate]; decide)]
      exact State.clockSlot_lastAddress hread ha hbytes hstate hpre
    · rw [hexec s _ hrun, State.linkStep_clock hcmd (by rw [hstate]; decide), State.clockSlot_dataOut hread hstate hahead]
      rfl
  · refine ⟨fun c off hoff => ⟨State.readByte_requestPage hoff, fun hl => ⟨fun h => ?_, fun tag code h => ?_,
      fun tag code st detail body h => ?_⟩⟩, rfl, fun h hx => ?_, fun h hx => ?_, fun m u h hx hu => ?_,
      fun m u d k p h hx hd hk hp hin => State.readByte_region h hx hd hk hp hin⟩
    · rw [State.readByte_responsePage hoff hl, h]
      rfl
    · rw [State.readByte_responsePage hoff hl, h]
      rfl
    · rw [State.readByte_responsePage hoff hl, h]
      simp [Response.bytes, le_one]
    · exact State.readByte_fill (by rw [State.translateRead_uncovered (State.place_without h hx)])
    · exact State.readByte_forward (by rw [State.translateRead_identity h (State.place_identity_map h hx)])
    · exact State.readByte_fill (by rw [State.translateRead_uncovered (State.place_uncovered h hx hu)])

end Sys2Proof.Machine
end

section
/-! # Programs and erases of the aperture

Deliveries to the request assembler: what becomes of the bytes of an accepted one, and what the table of R173 makes of each run of a
page program (R16, R20, R34, R172 to R178, R180). -/

namespace Sys2Proof.Machine

open Sys2Proof

/-! ## Taking a frame, and answering one -/

section taking

variable (s : State) (c : Ctx)

theorem State.takeFrame_ctx (frame : List Byte) :
    (s.takeFrame c frame).ctx c =
      ⟨.executing, frame, none, some (s.time.tick + 50), some ⟨byteAt frame 1, numAt frame 2 2, frame.drop 8, .routed⟩,
        .pending (numAt frame 2 2) (byteAt frame 1), .none⟩ := PerCtx.get_set _ c _

theorem State.takeFrame_other (frame : List Byte) : (s.takeFrame c frame).ctx (otherCtx c) = s.ctx (otherCtx c) :=
  PerCtx.get_set_other _ c _

theorem State.takeFrame_alert (frame : List Byte) :
    AlertStep s.time.tick (responseSource c) 0 s.alert (s.takeFrame c frame).alert :=
  State.clearSource_step (s.setCtx c _) _

theorem State.takeFrame_busy (frame : List Byte) : (s.takeFrame c frame).busy = true := by
  have hcap : ((s.takeFrame c frame).ctx c).busyCap.isSome = true := by rw [s.takeFrame_ctx]; rfl
  have hreq : (s.takeFrame c frame).requestBusy = true := by
    cases c
    · exact Bool.or_eq_true_iff.2 (Or.inl hcap)
    · exact Bool.or_eq_true_iff.2 (Or.inr hcap)
  exact Bool.or_eq_true_iff.2 (Or.inr hreq)

theorem State.ready_answers (tag code : Nat) (st : Status) (detail : Nat) (body : List Byte) :
    Answers s (s.ready c tag code st detail body) c code tag st detail body :=
  ⟨s.ready_ctx c tag code st detail body, s.ready_other c tag code st detail body, rfl, rfl⟩

theorem State.ready_change (tag code : Nat) (st : Status) (detail : Nat) (body : List Byte) :
    AlertChange s (s.ready c tag code st detail body) 0 (responseSource c) :=
  State.raise_change (s.setCtx c ⟨.idle, [], none, none, none, .ready tag code st detail body, .none⟩) (responseSource c)

variable {s c}

theorem State.answerUnlisted_of_not (h : (s.ctx c).state ≠ .executing) : s.answerUnlisted c = s := by
  unfold State.answerUnlisted
  split
  · contradiction
  · rfl

theorem State.answerUnlisted_of {r : Request} (h : (s.ctx c).state = .executing) (hr : (s.ctx c).request = some r) :
    s.answerUnlisted c = if requestCodes.contains r.code then s else s.answerError c .unknownRequest := by
  unfold State.answerUnlisted
  rw [h, hr]

end taking

/-! ## An accepted delivery -/

/-- The assembler has placed the bytes of a delivery, and answered a frame of an unlisted code (R173, R177). -/
def State.accepted (s : State) (c : Ctx) (buffer : List Byte) : State := (s.placed c buffer).answerUnlisted c

section accepted

variable {s : State} {c : Ctx} {buffer : List Byte}

/-- Too few bytes for a header, or for the frame it announces: the assembly deadline is armed afresh (R175). -/
theorem State.accepted_incomplete
    (h : buffer.length < 8 ∨ headerFailure buffer = none ∧ buffer.length < 8 + headerLength buffer) :
    s.accepted c buffer =
      s.setCtx c { s.ctx c with state := .assembling, buffer := buffer, deadline := some (s.time.tick + 1000) } := by
  have hplaced : s.placed c buffer =
      s.setCtx c { s.ctx c with state := .assembling, buffer := buffer, deadline := some (s.time.tick + 1000) } := by
    unfold State.placed
    by_cases h8 : buffer.length < 8
    · rw [if_pos h8]
    · obtain ⟨hhead, hlen⟩ := h.resolve_left h8
      rw [if_neg h8]
      simp only [hhead]
      rw [if_neg (Nat.not_le.mpr hlen)]
  rw [State.accepted, hplaced, State.answerUnlisted_of_not]
  rw [State.setCtx_ctx]
  nofun

/-- The header's first failed check is answered (R174). -/
theorem State.accepted_fails {detail : Nat} (h8 : 8 ≤ buffer.length) (h : headerFailure buffer = some detail) :
    s.accepted c buffer = s.ready c (numAt buffer 2 2) (byteAt buffer 1) .framing detail [] := by
  have htag : tagEcho buffer = numAt buffer 2 2 := if_neg (by omega)
  have hcode : codeEcho buffer = byteAt buffer 1 := if_neg (by omega)
  have hplaced : s.placed c buffer = s.ready c (numAt buffer 2 2) (byteAt buffer 1) .framing detail [] := by
    unfold State.placed
    rw [if_neg (Nat.not_lt.mpr h8)]
    simp only [h, State.assemblerAnswer, htag, hcode]
  rw [State.accepted, hplaced, State.answerUnlisted_of_not]
  rw [State.ready_ctx]
  nofun

theorem State.placed_whole (h8 : 8 ≤ buffer.length) (h : headerFailure buffer = none)
    (hlen : 8 + headerLength buffer ≤ buffer.length) :
    s.placed c buffer = s.takeFrame c (buffer.take (8 + headerLength buffer)) := by
  unfold State.placed
  rw [if_neg (Nat.not_lt.mpr h8)]
  simp only [h]
  rw [if_pos hlen]

theorem byteAt_take {bs : List Byte} {i n : Nat} (h : i < n) : byteAt (bs.take n) i = byteAt bs i := by
  simp [byteAt, List.getD_eq_getElem?_getD, h]

theorem numAt_take {bs : List Byte} {off k n : Nat} (h : off + k ≤ n) : numAt (bs.take n) off k = numAt bs off k := by
  unfold numAt slice
  rw [List.drop_take, List.take_take, Nat.min_eq_left (by omega)]

/-- A whole frame is taken; one of an unlisted code is answered at once (R174, R177). -/
theorem State.accepted_whole (h8 : 8 ≤ buffer.length) (h : headerFailure buffer = none)
    (hlen : 8 + headerLength buffer ≤ buffer.length) :
    s.accepted c buffer =
      if requestCodes.contains (byteAt buffer 1) then s.takeFrame c (buffer.take (8 + headerLength buffer))
      else (s.takeFrame c (buffer.take (8 + headerLength buffer))).answerError c .unknownRequest := by
  have hctx := s.takeFrame_ctx c (buffer.take (8 + headerLength buffer))
  rw [State.accepted, State.placed_whole h8 h hlen,
    State.answerUnlisted_of (congrArg (·.state) hctx) (congrArg (·.request) hctx)]
  dsimp only
  rw [byteAt_take (by omega)]

theorem State.accepted_frame : { s.accepted c buffer with requests := s.requests, alert := s.alert } = s := by
  obtain ⟨_, _, e⟩ := s.placed_touches c buffer
  unfold State.accepted State.answerUnlisted
  rw [e]
  split
  · split <;> rfl
  · rfl

/-- What a context is, and what its response is, when a frame has been taken whole (R174, R176, R177). -/
theorem State.accepted_taken (h8 : 8 ≤ buffer.length) (h : headerFailure buffer = none)
    (hlen : 8 + headerLength buffer ≤ buffer.length) :
    (requestCodes.contains (byteAt buffer 1) = true →
      (s.accepted c buffer).ctx c =
          ⟨.executing, buffer.take (8 + headerLength buffer), none, some (s.time.tick + 50),
            some ⟨byteAt buffer 1, numAt buffer 2 2, (buffer.take (8 + headerLength buffer)).drop 8, .routed⟩,
            .pending (numAt buffer 2 2) (byteAt buffer 1), .none⟩ ∧
        AlertChange s (s.accepted c buffer) (responseSource c) 0 ∧ (s.accepted c buffer).busy = true) ∧
    (requestCodes.contains (byteAt buffer 1) = false →
      Answers s (s.accepted c buffer) c (byteAt buffer 1) (numAt buffer 2 2) .unknownRequest 0 [] ∧
        AlertChange s (s.accepted c buffer) (responseSource c) (responseSource c)) := by
  have hctx := s.takeFrame_ctx c (buffer.take (8 + headerLength buffer))
  rw [byteAt_take (by omega), numAt_take (by omega)] at hctx
  have halert := s.takeFrame_alert c (buffer.take (8 + headerLength buffer))
  rw [State.accepted_whole h8 h hlen]
  refine ⟨fun hlisted => ?_, fun hunlisted => ?_⟩
  · rw [if_pos hlisted]
    exact ⟨hctx, ⟨_, halert, _, AlertStep.refl _ _, rfl⟩, s.takeFrame_busy c _⟩
  · rw [if_neg (by rw [hunlisted]; exact Bool.false_ne_true)]
    obtain ⟨⟨hans, hother, hclaim, hqueue⟩, ⟨_, hnone, _, hraise, hlast⟩, -⟩ :=
      State.answer_only (s.takeFrame c (buffer.take (8 + headerLength buffer))) (congrArg (·.response) hctx) .unknownRequest 0 []
    have hsame := hnone.1 (by rw [not_clear, raise_nothing])
    subst hsame
    exact ⟨⟨hans, hother.trans (s.takeFrame_other c _), hclaim, hqueue⟩, _, halert, _, hraise, hlast⟩

theorem State.accepted_other : (s.accepted c buffer).ctx (otherCtx c) = s.ctx (otherCtx c) ∧
    (s.accepted c buffer).requests.claim = s.requests.claim ∧
    (s.accepted c buffer).requests.claimQueue = s.requests.claimQueue := by
  by_cases h8 : 8 ≤ buffer.length
  · cases h : headerFailure buffer with
    | some detail =>
      rw [State.accepted_fails h8 h]
      exact ⟨State.ready_other _ _ _ _ _ _ _, rfl, rfl⟩
    | none =>
      by_cases hlen : 8 + headerLength buffer ≤ buffer.length
      · rw [State.accepted_whole h8 h hlen]
        split
        · exact ⟨s.takeFrame_other c _, rfl, rfl⟩
        · exact ⟨(State.ready_other _ _ _ _ _ _ _).trans (s.takeFrame_other c _), rfl, rfl⟩
      · rw [State.accepted_incomplete (Or.inr ⟨h, by omega⟩)]
        exact ⟨State.setCtx_other _ _ _, rfl, rfl⟩
  · rw [State.accepted_incomplete (Or.inl (by omega))]
    exact ⟨State.setCtx_other _ _ _, rfl, rfl⟩

end accepted

end Sys2Proof.Machine
end

section
/-! # Page programs and sector erases of the aperture

Each run of a page program as the table of R173 takes it, and the whole transactions (R15, R16, R20, R34, R173, R178, R180). -/

namespace Sys2Proof.Machine

open Sys2Proof

/-! ## The transaction -/

/-- The request page of a context (R1). -/
def requestPage : Ctx → Nat
  | .c0 => 0
  | .c1 => 2

theorem requestPage_facts (c : Ctx) :
    pageCtx (requestPage c) = c ∧ isResponsePage (requestPage c) = false ∧ requestPage c < 4 ∧
      pageCtx (requestPage c + 1) = c ∧ isResponsePage (requestPage c + 1) = true ∧ requestPage c + 1 < 4 := by
  cases c <;> decide

/-- The outcome of the deliveries of a page program: a refused one is reported (R34). -/
def State.delivered (s : State) (page base : Nat) (runs : List (Nat × List Byte)) (start : Nat) : State :=
  if (s.deliverProgram page base runs).2 then (s.deliverProgram page base runs).1.refuse start .program none
  else (s.deliverProgram page base runs).1

/-- A page program into the aperture goes to the assembler, its first run from its start on (R15, R16). -/
theorem WriteReady.exec_apertureProgram {s : State} (h : WriteReady s) {page off : Nat} {data : List Byte} (hpage : page < 4)
    (hoff : off < 0x1000) (hdata : data ≠ []) (hlen : data.length ≤ 256) :
    ∃ d, exec (.pageProgram (.transaction (addressBytes (0xFFC000 + page * 0x1000 + off) ++ data) 0)) s =
      .next (((s.judging d).delivered page (off - off % 0x100) (programRuns (off % 0x100) data)
        (0xFFC000 + page * 0x1000 + off)).setDecoder (Decoder.after [])) := by
  refine ⟨Decoder.received (0xFFC000 + page * 0x1000 + off) data, ?_⟩
  rw [h.exec_pageProgram (by omega) hdata]
  generalize Decoder.received (0xFFC000 + page * 0x1000 + off) data = d
  have hbase : pageBase (0xFFC000 + page * 0x1000 + off) = 0xFFC000 + page * 0x1000 + (off - off % 0x100) := by
    unfold pageBase
    omega
  have hkept : keptOffset (0xFFC000 + page * 0x1000 + off) data.length = off % 0x100 := by
    rw [keptOffset, if_pos hlen]
    omega
  have hverdict : (s.setDecoder d).translateWrite true (0xFFC000 + page * 0x1000 + (off - off % 0x100)) =
      ⟨.aperture page (off - off % 0x100), none, none, 0⟩ := by
    rw [State.translateWrite_aperture (by omega), show (0xFFC000 + page * 0x1000 + (off - off % 0x100) - 0xFFC000) / 0x1000 = page by omega,
      show (0xFFC000 + page * 0x1000 + (off - off % 0x100)) % 0x1000 = off - off % 0x100 by omega]
  have hdrop : data.drop (data.length - 256) = data := by
    rw [Nat.sub_eq_zero_of_le hlen]
    rfl
  rw [hdrop]
  unfold State.performProgram
  simp only [hbase, hkept, hverdict]
  rfl

theorem programRuns_one {off : Nat} {data : List Byte} (h : off + data.length ≤ 0x100) : programRuns off data = [(off, data)] :=
  if_pos h

theorem programRuns_two {off : Nat} {data : List Byte} (h : 0x100 < off + data.length) :
    programRuns off data = [(off, data.take (0x100 - off)), (0, data.drop (0x100 - off))] :=
  if_neg (Nat.not_le.mpr h)

/-! ## One run -/

section run

variable {s u : State} {page base off start : Nat} {data : List Byte}

/-- A run that is refused leaves the assembler as it was (R173). -/
theorem State.delivered_refused (h : s.deliver page (base + off) data = none) :
    s.delivered page base [(off, data)] start = s.refuse start .program none := by
  have hall : s.deliverAll page base [(off, data)] = (s, true) := by
    unfold State.deliverAll
    simp only [h]
    rfl
  have hprogram : s.deliverProgram page base [(off, data)] = (s, true) := by
    unfold State.deliverProgram
    rw [hall]
    dsimp only
    split
    · rfl
    · rename_i hnot
      rw [State.answerUnlisted_of_not hnot]
  unfold State.delivered
  rw [hprogram]
  rfl

/-- A run that an idle or assembling context takes (R173, R177). -/
theorem State.delivered_taken (h : s.deliver page (base + off) data = some u)
    (hstate : (s.ctx (pageCtx page)).state ≠ .executing) :
    s.delivered page base [(off, data)] start = u.answerUnlisted (pageCtx page) := by
  have hall : s.deliverAll page base [(off, data)] = (u, false) := by
    unfold State.deliverAll
    simp only [h]
    rfl
  have hprogram : s.deliverProgram page base [(off, data)] = (u.answerUnlisted (pageCtx page), false) := by
    unfold State.deliverProgram
    rw [hall]
    exact congrArg (·, false) (if_neg hstate)
  unfold State.delivered
  rw [hprogram]
  rfl

theorem State.deliver_responsePage (h : isResponsePage page = true) : s.deliver page off data = none := if_pos h

theorem State.deliver_executing (hpage : isResponsePage page = false) (h : (s.ctx (pageCtx page)).state = .executing)
    (hreset : ¬ (off = 0 ∧ isResetFrame data = true)) : s.deliver page off data = none := by
  unfold State.deliver
  simp only [hpage, h, Bool.false_eq_true, if_false]
  exact if_neg hreset

theorem State.deliver_reset (hpage : isResponsePage page = false) (h : (s.ctx (pageCtx page)).state = .executing)
    (hreset : isResetFrame data = true) :
    s.deliver page 0 data = some ((s.discardRequest (pageCtx page)).takeFrame (pageCtx page) (data.take 8)) := by
  unfold State.deliver
  simp only [hpage, h, hreset, Bool.false_eq_true, if_false, and_self, if_true]

/-- A run at offset 0 begins a frame, and one at the fill offset goes on with it (R173). -/
theorem State.deliver_places (hpage : isResponsePage page = false)
    (h : off = 0 ∧ (s.ctx (pageCtx page)).state ≠ .executing ∨
      0 < off ∧ (s.ctx (pageCtx page)).state = .assembling ∧ off = (s.ctx (pageCtx page)).buffer.length) :
    s.deliver page off data =
      some (s.placed (pageCtx page) (if off = 0 then data else (s.ctx (pageCtx page)).buffer ++ data)) := by
  unfold State.deliver
  simp only [hpage, Bool.false_eq_true, if_false]
  rcases h with ⟨rfl, hstate⟩ | ⟨hpos, hstate, hfill⟩
  · simp only [if_true]
    split
    · contradiction
    · rfl
    · rfl
  · have hne : ¬ off = 0 := Nat.ne_of_gt hpos
    simp only [hstate, hne, if_false, if_pos hfill]

/-- A run at any other offset is answered FRAMING 01h for the bytes received so far (R173). -/
theorem State.deliver_elsewhere (hpage : isResponsePage page = false) (hpos : 0 < off)
    (h : (s.ctx (pageCtx page)).state = .idle ∨
      (s.ctx (pageCtx page)).state = .assembling ∧ off ≠ (s.ctx (pageCtx page)).buffer.length) {received : List Byte}
    (hr : received = if (s.ctx (pageCtx page)).state = .idle then [] else (s.ctx (pageCtx page)).buffer) :
    s.deliver page off data = some (s.assemblerAnswer (pageCtx page) .framing 0x01 received) := by
  have hne : ¬ off = 0 := Nat.ne_of_gt hpos
  unfold State.deliver
  simp only [hpage, Bool.false_eq_true, if_false]
  rcases h with hstate | ⟨hstate, hfill⟩
  · simp only [hr, hstate, hne, if_false, if_true]
  · simp only [hr, hstate, hne, hfill, if_false, reduceCtorEq]

/-- Two runs of one program: the first completes a frame, and what the second one does comes on top (R173, R177). -/
theorem State.delivered_two {t : State} {more : List Byte} {refused : Bool} (h : s.deliver page (base + off) data = some u)
    (hstate : (s.ctx (pageCtx page)).state ≠ .executing) (hsecond : u.deliverAll page base [(0, more)] = (t, refused)) :
    s.delivered page base [(off, data), (0, more)] start =
      if refused then (t.answerUnlisted (pageCtx page)).refuse start .program none else t.answerUnlisted (pageCtx page) := by
  have hall : s.deliverAll page base [(off, data), (0, more)] = (t, refused) := by
    rw [← hsecond]
    conv => lhs; unfold State.deliverAll
    simp only [h]
  have hprogram : s.deliverProgram page base [(off, data), (0, more)] = (t.answerUnlisted (pageCtx page), refused) := by
    unfold State.deliverProgram
    rw [hall]
    exact congrArg (·, refused) (if_neg hstate)
  unfold State.delivered
  rw [hprogram]

end run

/-! ## The cases of R173 -/

section cases

variable {c : Ctx} {base off : Nat} {data : List Byte} {s : State}

/-- A program into a request page whose bytes lie in one run. -/
theorem WriteReady.exec_oneRun (h : WriteReady s) {page : Nat} (hpage : page < 4) (hoff : off < 0x1000) (hdata : data ≠ [])
    (hlen : data.length ≤ 256) (hone : off % 0x100 + data.length ≤ 0x100) :
    ∃ d, exec (.pageProgram (.transaction (addressBytes (0xFFC000 + page * 0x1000 + off) ++ data) 0)) s =
      .next (((s.judging d).delivered page (off - off % 0x100) [(off % 0x100, data)]
        (0xFFC000 + page * 0x1000 + off)).setDecoder (Decoder.after [])) := by
  obtain ⟨d, hexec⟩ := h.exec_apertureProgram hpage hoff hdata hlen
  rw [programRuns_one hone] at hexec
  exact ⟨d, hexec⟩

theorem requestBase_eq (c : Ctx) : (match c with | .c0 => 0xFFC000 | .c1 => 0xFFE000) = 0xFFC000 + requestPage c * 0x1000 := by
  cases c <;> rfl

/-- The state of an aperture program's end differs from what its deliveries left in the link alone. -/
theorem State.judging_setDecoder_frame {v : State} {d : Decoder}
    (h : { v with requests := s.requests, alert := s.alert } = s.judging d) :
    (v.setDecoder (Decoder.after [])).link = ⟨Decoder.after [], false, s.link.refused⟩ ∧
      { v.setDecoder (Decoder.after []) with link := s.link, requests := s.requests, alert := s.alert } = s := by
  have hlink : v.link = (s.judging d).link := congrArg (·.link) h
  refine ⟨?_, congrArg (fun t : State => { t with link := s.link }) h⟩
  unfold State.setDecoder
  rw [hlink]
  rfl

theorem offset_split (off : Nat) : off - off % 0x100 + off % 0x100 = off := Nat.sub_add_cancel (Nat.mod_le _ _)

theorem State.delivered_accepts {start : Nat}
    (h : off = 0 ∧ (s.ctx c).state ≠ .executing ∨ 0 < off ∧ (s.ctx c).state = .assembling ∧ off = (s.ctx c).buffer.length) :
    s.delivered (requestPage c) (off - off % 0x100) [(off % 0x100, data)] start =
      s.accepted c (if off = 0 then data else (s.ctx c).buffer ++ data) := by
  obtain ⟨hctx, hpage, -⟩ := requestPage_facts c
  have hdeliver := State.deliver_places (s := s) (page := requestPage c) (data := data) hpage (hctx.symm ▸ h)
  have hstate : (s.ctx (pageCtx (requestPage c))).state ≠ .executing := by
    rw [hctx]
    rcases h with ⟨-, h⟩ | ⟨-, h, -⟩
    · exact h
    · rw [h]; nofun
  rw [State.delivered_taken (by rw [offset_split]; exact hdeliver) hstate, hctx]
  rfl

theorem State.delivered_misplaced {start : Nat} (hpos : 0 < off)
    (h : (s.ctx c).state = .idle ∨ (s.ctx c).state = .assembling ∧ off ≠ (s.ctx c).buffer.length) {received : List Byte}
    (hr : received = if (s.ctx c).state = .idle then [] else (s.ctx c).buffer) :
    s.delivered (requestPage c) (off - off % 0x100) [(off % 0x100, data)] start =
      s.assemblerAnswer c .framing 0x01 received := by
  obtain ⟨hctx, hpage, -⟩ := requestPage_facts c
  have hdeliver := State.deliver_elsewhere (s := s) (page := requestPage c) (data := data) hpage hpos (hctx.symm ▸ h)
    (hctx.symm ▸ hr)
  have hstate : (s.ctx (pageCtx (requestPage c))).state ≠ .executing := by
    rw [hctx]
    rcases h with h | ⟨h, -⟩ <;> rw [h] <;> nofun
  rw [State.delivered_taken (by rw [offset_split]; exact hdeliver) hstate, hctx, State.answerUnlisted_of_not]
  rw [State.assemblerAnswer, State.ready_ctx]
  nofun

/-- A frame begun, or gone on with (R173 to R177). -/
theorem WriteReady.exec_accepted (h : WriteReady s) (hbase : base = match c with | .c0 => 0xFFC000 | .c1 => 0xFFE000)
    (hoff : off < 0x1000) (hdata : data ≠ []) (hlen : data.length ≤ 256) (hone : off % 0x100 + data.length ≤ 0x100)
    {buffer : List Byte} (hbuffer : buffer = if off = 0 then data else (s.ctx c).buffer ++ data)
    (hplace : off = 0 ∧ (s.ctx c).state ≠ .executing ∨
      0 < off ∧ (s.ctx c).state = .assembling ∧ off = (s.ctx c).buffer.length) :
    ∃ d, exec (.pageProgram (.transaction (addressBytes (base + off) ++ data) 0)) s =
      .next (((s.judging d).accepted c buffer).setDecoder (Decoder.after [])) := by
  obtain ⟨-, -, hpage, -⟩ := requestPage_facts c
  obtain ⟨d, hexec⟩ := h.exec_oneRun hpage hoff hdata hlen hone
  rw [← hbase.trans (requestBase_eq c), State.delivered_accepts (s := s.judging d) hplace] at hexec
  exact ⟨d, hbuffer ▸ hexec⟩

theorem WriteReady.exec_misplaced (h : WriteReady s) (hbase : base = match c with | .c0 => 0xFFC000 | .c1 => 0xFFE000)
    (hoff : off < 0x1000) (hdata : data ≠ []) (hlen : data.length ≤ 256) (hone : off % 0x100 + data.length ≤ 0x100)
    (hpos : 0 < off) (hplace : (s.ctx c).state = .idle ∨ (s.ctx c).state = .assembling ∧ off ≠ (s.ctx c).buffer.length)
    {received : List Byte} (hr : received = if (s.ctx c).state = .idle then [] else (s.ctx c).buffer) :
    ∃ d, exec (.pageProgram (.transaction (addressBytes (base + off) ++ data) 0)) s =
      .next (((s.judging d).assemblerAnswer c .framing 0x01 received).setDecoder (Decoder.after [])) := by
  obtain ⟨-, -, hpage, -⟩ := requestPage_facts c
  obtain ⟨d, hexec⟩ := h.exec_oneRun hpage hoff hdata hlen hone
  rw [← hbase.trans (requestBase_eq c), State.delivered_misplaced (s := s.judging d) hpos hplace hr] at hexec
  exact ⟨d, hexec⟩

/-- A run that a page refuses, whatever its context does (R173). -/
theorem WriteReady.exec_refusedRun (h : WriteReady s) {page : Nat} (hpage : page < 4) (hoff : off < 0x1000) (hdata : data ≠ [])
    (hlen : data.length ≤ 256) (hone : off % 0x100 + data.length ≤ 0x100)
    (hrefused : ∀ u : State, u.requests = s.requests → u.deliver page off data = none) {x : Stamp} (hx : StampFree s x) :
    ∃ t, exec (.pageProgram (.transaction (addressBytes (0xFFC000 + page * 0x1000 + off) ++ data) 0)) s = .next t ∧
      Refuses s t x (0xFFC000 + page * 0x1000 + off) .program none ∧ t.intake = s.intake := by
  obtain ⟨d, hexec⟩ := h.exec_oneRun hpage hoff hdata hlen hone
  refine ⟨_, hexec, ?_⟩
  rw [State.delivered_refused (by rw [offset_split]; exact hrefused (s.judging d) rfl)]
  exact State.judging_refuses hx d _ .program none

/-! ## A program that wraps in the first page -/

/-- A program whose first run, up to the end of the first page, completes a frame of context `c` at its fill offset; its second run
begins at the page's start (R15, R173). -/
structure CompletesAndWraps (s : State) (c : Ctx) (off : Nat) (data buffer : List Byte) : Prop where
  length : data.length ≤ 256
  inFirst : off < 0x100
  wraps : 0x100 < off + data.length
  assembling : (s.ctx c).state = .assembling
  fill : off = (s.ctx c).buffer.length
  placed : buffer = (s.ctx c).buffer ++ data.take (0x100 - off)
  header : 8 ≤ buffer.length
  valid : headerFailure buffer = none
  whole : 8 + headerLength buffer ≤ buffer.length

section wrapping

variable {buffer : List Byte}

/-- The frame that the first run completes. -/
def State.firstFrame (s : State) (c : Ctx) (buffer : List Byte) : State :=
  s.takeFrame c (buffer.take (8 + headerLength buffer))

theorem CompletesAndWraps.first (w : CompletesAndWraps s c off data buffer) :
    s.deliver (requestPage c) (0 + off) (data.take (0x100 - off)) = some (s.firstFrame c buffer) := by
  obtain ⟨hctx, hpage, -⟩ := requestPage_facts c
  have hplace : off = 0 ∧ (s.ctx c).state ≠ .executing ∨
      0 < off ∧ (s.ctx c).state = .assembling ∧ off = (s.ctx c).buffer.length := by
    rcases Nat.eq_zero_or_pos off with h | h
    · exact Or.inl ⟨h, by rw [w.assembling]; nofun⟩
    · exact Or.inr ⟨h, w.assembling, w.fill⟩
  have hbuffer : (if off = 0 then data.take (0x100 - off) else (s.ctx c).buffer ++ data.take (0x100 - off)) = buffer := by
    rw [w.placed]
    split
    · rename_i h
      have hnil : (s.ctx c).buffer = [] := List.length_eq_zero_iff.1 (w.fill.symm.trans h)
      rw [hnil, List.nil_append]
    · rfl
  have hdeliver := State.deliver_places (s := s) (page := requestPage c) (data := data.take (0x100 - off)) hpage
    (hctx.symm ▸ hplace)
  rw [Nat.zero_add, hdeliver, hctx, hbuffer, State.placed_whole w.header w.valid w.whole]
  rfl

theorem CompletesAndWraps.state (w : CompletesAndWraps s c off data buffer) :
    (s.ctx (pageCtx (requestPage c))).state ≠ .executing := by
  rw [(requestPage_facts c).1, w.assembling]
  nofun

theorem State.firstFrame_state (s : State) (c : Ctx) (buffer : List Byte) :
    ((s.firstFrame c buffer).ctx (pageCtx (requestPage c))).state = .executing := by
  rw [(requestPage_facts c).1]
  exact congrArg (·.state) (s.takeFrame_ctx c _)

/-- A second run that is no reset frame is refused behind the frame taken (R173). -/
theorem CompletesAndWraps.delivered_refuses (w : CompletesAndWraps s c off data buffer)
    (h : isResetFrame (data.drop (0x100 - off)) = false) (start : Nat) :
    s.delivered (requestPage c) 0 (programRuns off data) start = (s.accepted c buffer).refuse start .program none := by
  obtain ⟨hctx, hpage, -⟩ := requestPage_facts c
  have hnot : ¬ (0 + 0 = 0 ∧ isResetFrame (data.drop (0x100 - off)) = true) := by simp [h]
  have hsecond : (s.firstFrame c buffer).deliverAll (requestPage c) 0 [(0, data.drop (0x100 - off))] =
      (s.firstFrame c buffer, true) := by
    unfold State.deliverAll
    rw [State.deliver_executing hpage (s.firstFrame_state c buffer) hnot]
    rfl
  rw [programRuns_two w.wraps, State.delivered_two w.first w.state hsecond, hctx, if_pos rfl, State.accepted,
    State.placed_whole w.header w.valid w.whole]
  rfl

/-- A second run that is a reset frame is taken, and discards the first run's frame (R178; log entry 48). -/
theorem CompletesAndWraps.delivered_resets (w : CompletesAndWraps s c off data buffer)
    (h : isResetFrame (data.drop (0x100 - off)) = true) (start : Nat) :
    s.delivered (requestPage c) 0 (programRuns off data) start =
      (((s.firstFrame c buffer).discardRequest c).takeFrame c ((data.drop (0x100 - off)).take 8)).answerUnlisted c := by
  obtain ⟨hctx, hpage, -⟩ := requestPage_facts c
  have hsecond : (s.firstFrame c buffer).deliverAll (requestPage c) 0 [(0, data.drop (0x100 - off))] =
      (((s.firstFrame c buffer).discardRequest c).takeFrame c ((data.drop (0x100 - off)).take 8), false) := by
    unfold State.deliverAll
    rw [Nat.zero_add, State.deliver_reset hpage (s.firstFrame_state c buffer) h, hctx]
    rfl
  rw [programRuns_two w.wraps, State.delivered_two w.first w.state hsecond, hctx, if_neg Bool.false_ne_true]

theorem WriteReady.exec_wraps (h : WriteReady s) (hbase : base = match c with | .c0 => 0xFFC000 | .c1 => 0xFFE000)
    (w : CompletesAndWraps s c off data buffer) :
    ∃ d, exec (.pageProgram (.transaction (addressBytes (base + off) ++ data) 0)) s =
      .next (((s.judging d).delivered (requestPage c) 0 (programRuns off data) (base + off)).setDecoder (Decoder.after [])) := by
  obtain ⟨-, -, hpage, -⟩ := requestPage_facts c
  have hoff := w.inFirst
  have hdata : data ≠ [] := by
    rintro rfl
    have hwraps := w.wraps
    simp only [List.length_nil] at hwraps
    omega
  obtain ⟨d, hexec⟩ := h.exec_apertureProgram hpage (by omega : off < 0x1000) hdata w.length
  rw [← hbase.trans (requestBase_eq c), Nat.mod_eq_of_lt hoff, Nat.sub_self] at hexec
  exact ⟨d, hexec⟩

end wrapping

/-! ## Reset frames and erased pages -/

theorem isResetFrame_facts {bs : List Byte} (h : isResetFrame bs = true) :
    8 ≤ bs.length ∧ byteAt bs 1 = 0x02 := by
  simp only [isResetFrame, Bool.and_eq_true, decide_eq_true_eq] at h
  obtain ⟨⟨⟨hlen, -⟩, hcode⟩, -⟩ := h
  exact ⟨hlen, hcode⟩

end cases

end Sys2Proof.Machine
end

section
/-! # Frames taken and pages erased

The statement on the aperture's programs and erases, put together from the cases of R173. -/

namespace Sys2Proof.Machine

open Sys2Proof

/-! ## A reset frame behind a frame -/

/-- The discard of a request leaves the contexts, the alert unit and the clock alone (R178). -/
theorem State.discardRequest_keeps (s : State) (c : Ctx) :
    (s.discardRequest c).requests.ctx = s.requests.ctx ∧ (s.discardRequest c).alert = s.alert ∧
      (s.discardRequest c).time.tick = s.time.tick := by
  have hopen : (s.discardOpen c).requests = s.requests ∧ (s.discardOpen c).alert = s.alert ∧
      (s.discardOpen c).time = s.time := by
    unfold State.discardOpen
    dsimp only
    split
    · exact ⟨rfl, rfl, rfl⟩
    · split <;> exact ⟨rfl, rfl, rfl⟩
  obtain ⟨hreq, halert, htime⟩ := hopen
  have hclaim : ((s.discardOpen c).discardClaim c).requests.ctx = (s.discardOpen c).requests.ctx ∧
      ((s.discardOpen c).discardClaim c).alert = (s.discardOpen c).alert ∧
      ((s.discardOpen c).discardClaim c).time = (s.discardOpen c).time := by
    unfold State.discardClaim State.dropClaim
    dsimp only
    split
    · exact ⟨rfl, rfl, rfl⟩
    · split <;> exact ⟨rfl, rfl, rfl⟩
  obtain ⟨hreq', halert', htime'⟩ := hclaim
  exact ⟨hreq'.trans (congrArg (·.ctx) hreq), halert'.trans halert, congrArg (·.tick) (htime'.trans htime)⟩

section reset

variable {s : State} {c : Ctx} {off : Nat} {data buffer second : List Byte}

/-- The state when the second run's reset frame has been taken (R178; log entry 48). -/
def State.resetTaken (s : State) (c : Ctx) (buffer second : List Byte) : State :=
  ((s.firstFrame c buffer).discardRequest c).takeFrame c (second.take 8)

theorem State.resetTaken_ctx (h : isResetFrame second = true) :
    (s.resetTaken c buffer second).ctx c =
      ⟨.executing, second.take 8, none, some (s.time.tick + 50), some ⟨0x02, numAt second 2 2, [], .routed⟩,
        .pending (numAt second 2 2) 0x02, .none⟩ := by
  obtain ⟨hlen, hcode⟩ := isResetFrame_facts h
  have hctx := State.takeFrame_ctx ((s.firstFrame c buffer).discardRequest c) c (second.take 8)
  have hdrop : (second.take 8).drop 8 = [] := List.drop_eq_nil_of_le (by simp)
  rw [byteAt_take (by decide), numAt_take (by decide), hcode, hdrop, ((s.firstFrame c buffer).discardRequest_keeps c).2.2] at hctx
  exact hctx

theorem State.resetTaken_listed (h : isResetFrame second = true) :
    (s.resetTaken c buffer second).answerUnlisted c = s.resetTaken c buffer second := by
  have hctx := State.resetTaken_ctx (s := s) (c := c) (buffer := buffer) h
  rw [State.answerUnlisted_of (congrArg (·.state) hctx) (congrArg (·.request) hctx)]
  exact if_pos (show requestCodes.contains 0x02 = true by decide)

theorem State.resetTaken_other : (s.resetTaken c buffer second).ctx (otherCtx c) = s.ctx (otherCtx c) := by
  have hkeeps := ((s.firstFrame c buffer).discardRequest_keeps c).1
  exact (State.takeFrame_other _ c _).trans
    ((congrArg (fun p : PerCtx Context => p.get (otherCtx c)) hkeeps).trans (s.takeFrame_other c _))

theorem State.resetTaken_alert : AlertStep s.time.tick (responseSource c) 0 s.alert (s.resetTaken c buffer second).alert := by
  obtain ⟨-, halert, htick⟩ := (s.firstFrame c buffer).discardRequest_keeps c
  have hfirst := s.takeFrame_alert c (buffer.take (8 + headerLength buffer))
  have hagain := State.takeFrame_alert ((s.firstFrame c buffer).discardRequest c) c (second.take 8)
  rw [halert, htick] at hagain
  have hboth := hfirst.clear_clear hagain
  rwa [BitVec.or_self] at hboth

theorem State.resetTaken_frame :
    { s.resetTaken c buffer second with
      requests := s.requests, alert := s.alert, time := s.time, crypto := s.crypto, store := s.store, intake := s.intake } = s := by
  obtain ⟨_, _, _, _, _, e⟩ := (s.firstFrame c buffer).discardRequest_touches c
  unfold State.resetTaken
  rw [e]
  rfl

/-- A program that completes a frame and wraps into a reset frame leaves the reset frame taken (R178; log entry 48). -/
theorem CompletesAndWraps.delivered_resetTaken (w : CompletesAndWraps s c off data buffer)
    (h : isResetFrame (data.drop (0x100 - off)) = true) {start : Nat} :
    s.delivered (requestPage c) 0 (programRuns off data) start = s.resetTaken c buffer (data.drop (0x100 - off)) :=
  (w.delivered_resets h start).trans (State.resetTaken_listed h)

end reset

/-! ## A refusal behind a frame -/

/-- What a delivery leaves is stamped as the state before it would be. -/
theorem State.accepted_stampFree {s : State} {c : Ctx} {buffer : List Byte} {x : Stamp} (h : StampFree s x) :
    StampFree (s.accepted c buffer) x := by
  have hsame : s.accepted c buffer =
      { s with requests := (s.accepted c buffer).requests, alert := (s.accepted c buffer).alert } :=
    congrArg (fun t : State => { t with requests := (s.accepted c buffer).requests, alert := (s.accepted c buffer).alert })
      State.accepted_frame
  rw [hsame]
  exact h

/-! ## Erases of pages -/

theorem requestErase_eq (c : Ctx) : (if c = .c0 then 0xFFC000 else 0xFFE000) = 0xFFC000 + requestPage c * 0x1000 := by
  cases c <;> rfl

theorem responseErase_eq (c : Ctx) : (if c = .c0 then 0xFFD000 else 0xFFF000) = 0xFFC000 + (requestPage c + 1) * 0x1000 := by
  cases c <;> rfl

section erases

variable {s : State} {c : Ctx} {page : Nat}

theorem WriteReady.exec_apertureErase (h : WriteReady s) (hpage : page < 4) {a : Nat} (ha : a = 0xFFC000 + page * 0x1000) :
    ∃ d, exec (.sectorErase (.transaction (addressBytes a) 0)) s =
      .next (((s.judging d).eraseAperture page).setDecoder (Decoder.after [])) := by
  obtain ⟨d, hexec⟩ := h.exec_sectorErase (a := a) (by omega) []
  rw [List.append_nil] at hexec
  refine ⟨d, hexec.trans ?_⟩
  have hverdict : ((s.setDecoder d).translateWrite false (a / 0x1000 * 0x1000)) = ⟨.aperture page 0, none, none, 0⟩ := by
    rw [State.translateWrite_aperture (by omega), show (a / 0x1000 * 0x1000 - 0xFFC000) / 0x1000 = page by omega,
      show a / 0x1000 * 0x1000 % 0x1000 = 0 by omega]
  simp only [State.performSectorErase, hverdict]
  rfl

theorem State.eraseAperture_request (h : (s.ctx c).state = .assembling) :
    s.eraseAperture (requestPage c) = s.setCtx c { s.ctx c with state := .idle, buffer := [], deadline := none } := by
  obtain ⟨hctx, hpage, -⟩ := requestPage_facts c
  unfold State.eraseAperture
  simp only [hctx, hpage, h, Bool.false_eq_true, if_false, if_true]

theorem State.eraseAperture_response (h : (s.ctx c).response.isReady = true) :
    s.eraseAperture (requestPage c + 1) = (s.setCtx c { s.ctx c with response := .none }).clearSource (responseSource c) := by
  obtain ⟨-, -, -, hctx, hpage, -⟩ := requestPage_facts c
  unfold State.eraseAperture
  simp only [hctx, hpage, h, if_true]

end erases

/-- Settles O16: each run of a program by its case of R173, and each page's erase. -/
theorem framesAreTakenAndPagesErased : Obligations.FramesAreTakenAndPagesErased := by
  refine ⟨fun c base off data s h hbase hoff hdata hlen => ⟨fun hone => ⟨fun buffer hbuffer hplace => ?_,
    fun hpos hplace received hr => ?_, fun x hx hstate hreset => ?_, fun x hx => ?_⟩,
    fun x buffer hx hin hwrap hstate hfill hbuffer h8 hhead hwhole hreset => ?_⟩,
    fun c base off tag data buffer second s h hbase hlen hin hsecond hstate hfill hbuffer h8 hhead hwhole hreset htag => ?_,
    fun c s h => ⟨fun hstate => ?_, fun hready => ?_⟩⟩
  · obtain ⟨d, hexec⟩ := h.exec_accepted hbase hoff hdata hlen hone hbuffer hplace
    obtain ⟨hlink, hframe⟩ := State.judging_setDecoder_frame (s := s) (State.accepted_frame (s := s.judging d) (c := c) (buffer := buffer))
    obtain ⟨hother, hclaim, hqueue⟩ := State.accepted_other (s := s.judging d) (c := c) (buffer := buffer)
    refine ⟨_, hexec, hlink, hother, hclaim, hqueue, hframe, fun hshort => ?_, fun detail h8 hhead => ?_, ?_⟩
    · rw [State.accepted_incomplete (s := s.judging d) hshort]
      exact ⟨State.setCtx_ctx (s.judging d) c _, rfl⟩
    · rw [State.accepted_fails (s := s.judging d) h8 hhead]
      exact ⟨State.ready_answers (s.judging d) c _ _ _ _ _, State.ready_change (s.judging d) c _ _ _ _ _⟩
    · rintro n rfl h8 hhead hwhole
      exact State.accepted_taken (s := s.judging d) h8 hhead hwhole
  · obtain ⟨d, hexec⟩ := h.exec_misplaced hbase hoff hdata hlen hone hpos hplace hr
    obtain ⟨hlink, hframe⟩ := State.judging_setDecoder_frame (s := s) (d := d)
      (v := (s.judging d).assemblerAnswer c .framing 0x01 received) rfl
    exact ⟨_, hexec, hlink, State.ready_answers (s.judging d) c _ _ _ _ _, State.ready_change (s.judging d) c _ _ _ _ _, hframe⟩
  · obtain ⟨hctx, hpage, hlt, -⟩ := requestPage_facts c
    rw [hbase.trans (requestBase_eq c)]
    refine h.exec_refusedRun hlt hoff hdata hlen hone (fun u hu => ?_) hx
    refine State.deliver_executing hpage ?_ hreset
    rw [hctx, show u.ctx c = s.ctx c from congrArg (fun r : Requests => r.ctx.get c) hu, hstate]
  · obtain ⟨-, -, -, -, hpage, hlt⟩ := requestPage_facts c
    have haddr : base + 0x1000 + off = 0xFFC000 + (requestPage c + 1) * 0x1000 + off := by
      rw [hbase.trans (requestBase_eq c)]
      omega
    rw [haddr]
    exact h.exec_refusedRun hlt hoff hdata hlen hone (fun u _ => State.deliver_responsePage hpage) hx
  · obtain ⟨d, hexec⟩ := h.exec_wraps hbase ⟨hlen, hin, hwrap, hstate, hfill, hbuffer, h8, hhead, hwhole⟩
    rw [CompletesAndWraps.delivered_refuses (s := s.judging d) ⟨hlen, hin, hwrap, hstate, hfill, hbuffer, h8, hhead, hwhole⟩ hreset,
      State.refuse_recorded (State.accepted_stampFree (s := s.judging d) hx)] at hexec
    obtain ⟨hother, hclaim, hqueue⟩ := State.accepted_other (s := s.judging d) (c := c) (buffer := buffer)
    obtain ⟨hlisted, hunlisted⟩ := State.accepted_taken (s := s.judging d) (c := c) h8 hhead hwhole
    have hframe := State.accepted_frame (s := s.judging d) (c := c) (buffer := buffer)
    have hhits : ((s.judging d).accepted c buffer).watch.hits = s.watch.hits := congrArg (·.watch.hits) hframe
    have htime : ((s.judging d).accepted c buffer).time = s.time := congrArg (·.time) hframe
    have hwel : ((s.judging d).accepted c buffer).link.wel = false := congrArg (·.link.wel) hframe
    refine ⟨_, hexec, ?_, hother, ?_, ?_, fun hcode => ?_, hunlisted,
      congrArg (fun t : State => { t with link := s.link, watch := s.watch, time := s.time }) hframe⟩
    · exact congrArg (fun w => (⟨Decoder.after [], w, true⟩ : Link)) hwel
    · exact congrArg (fun hits => ((⟨x, base + off, .program, none, none⟩ : HitRecord) :: hits).take 8) hhits
    · exact congrArg (fun t : Time => { t with lastStamp := some x }) htime
    · obtain ⟨hctx, halert, -⟩ := hlisted hcode
      exact ⟨congrArg (·.state) hctx, congrArg (·.response) hctx, halert⟩
  · obtain ⟨h8second, -⟩ := isResetFrame_facts hreset
    have hwrap : 0x100 < off + data.length := by
      rw [hsecond, List.length_drop] at h8second
      omega
    obtain ⟨d, hexec⟩ := h.exec_wraps hbase ⟨hlen, hin, hwrap, hstate, hfill, hbuffer, h8, hhead, hwhole⟩
    rw [CompletesAndWraps.delivered_resetTaken (s := s.judging d)
      ⟨hlen, hin, hwrap, hstate, hfill, hbuffer, h8, hhead, hwhole⟩ (hsecond ▸ hreset), ← hsecond] at hexec
    have hframe := State.resetTaken_frame (s := s.judging d) (c := c) (buffer := buffer) (second := second)
    have hlink : ((s.judging d).resetTaken c buffer second).link = (s.judging d).link := congrArg (·.link) hframe
    refine ⟨_, hexec, ?_, htag ▸ State.resetTaken_ctx (s := s.judging d) hreset,
      State.resetTaken_other (s := s.judging d), ⟨_, State.resetTaken_alert (s := s.judging d), _, AlertStep.refl _ _, rfl⟩,
      congrArg (fun t : State => { t with link := s.link }) hframe⟩
    exact congrArg (fun k : Link => { k with decoder := Decoder.after [] }) hlink
  · obtain ⟨d, hexec⟩ := h.exec_apertureErase (page := requestPage c) (requestPage_facts c).2.2.1 (requestErase_eq c)
    rw [State.eraseAperture_request (s := s.judging d) hstate] at hexec
    exact ⟨_, hexec, State.setCtx_ctx (s.judging d) c _, State.setCtx_other (s.judging d) c _, rfl, rfl, rfl, rfl⟩
  · obtain ⟨-, -, -, -, -, hlt⟩ := requestPage_facts c
    obtain ⟨d, hexec⟩ := h.exec_apertureErase (page := requestPage c + 1) hlt (responseErase_eq c)
    rw [State.eraseAperture_response (s := s.judging d) hready] at hexec
    exact ⟨_, hexec, State.setCtx_ctx (s.judging d) c _, State.setCtx_other (s.judging d) c _, rfl,
      State.clearSource_change ((s.judging d).setCtx c _) (responseSource c), rfl, rfl, rfl⟩

end Sys2Proof.Machine
end

section
/-! # The retained store takes a write

What the store decides when it comes to take the oldest queued write (R147, R148, R155, R188), and the values each write fixes. -/

namespace Sys2Proof.Machine

open Sys2Proof

/-! ## The release checks -/

/-- The release checks of a full slot are the table of R144. -/
theorem State.releaseCheck_full {s : State} {k : Fin 32} {x : CredContent} (h : s.store.working.creds[k].content = some x) :
    s.releaseCheck .verifier k = s.releaseAnswer (some true) x := by
  have hclass : s.wc.creds[k].isVerifier = (match x.value with | .verifier _ _ => true | .secret _ => false) := by
    unfold CredRecord.isVerifier
    rw [show s.wc.creds[k].content = some x from h]
    obtain ⟨_, value, _, _, _⟩ := x
    cases value <;> rfl
  unfold State.releaseCheck State.releaseAnswer
  rw [show s.wc.creds[k].content = some x from h]
  simp only [hclass]
  cases x.value <;> cases x.notAfter <;> cases s.time.wallAt s.time.tick <;> simp

theorem State.releaseCheck_empty {s : State} {k : Fin 32} (h : s.store.working.creds[k].content = none) :
    s.releaseCheck .verifier k = some .emptySlot := by
  unfold State.releaseCheck
  rw [show s.wc.creds[k].content = none from h]
  rfl

/-! ## A mismatch whose slot was written since -/

section compare

variable {s : State} {c : Ctx} {k : Fin 32}

theorem State.tryCompare_refused {st : Status} (h : s.releaseCheck .verifier k = some st) :
    s.tryCompare c k = s.answer c st k.val [] := by
  unfold State.tryCompare State.compareCheck
  rw [h]
  rfl

theorem State.tryCompare_locked {d : Nat} (h : s.releaseCheck .verifier k = none) (hd : s.creds.lockouts[k] = some d) :
    s.tryCompare c k = s.answer c .lockedOut 0 (le 4 (d - s.time.tick)) := by
  unfold State.tryCompare State.compareCheck
  rw [h, hd]
  rfl

theorem State.tryCompare_submits (h : s.releaseCheck .verifier k = none) (hd : s.creds.lockouts[k] = none) :
    s.tryCompare c k = s.submitCompare c k := by
  unfold State.tryCompare State.compareCheck
  rw [h, hd]
  rfl

theorem State.tryCompare_store (s : State) (c : Ctx) (k : Fin 32) : (s.tryCompare c k).store = s.store := by
  cases h : s.releaseCheck .verifier k with
  | some st => rw [State.tryCompare_refused h, State.answer_store]
  | none =>
    cases hd : s.creds.lockouts[k] with
    | some d => rw [State.tryCompare_locked h hd, State.answer_store]
    | none =>
      rw [State.tryCompare_submits h hd, State.submitCompare, State.setWork_store]
      exact congrArg (·.store) (s.enqueueJob_frame (.ctx c) _)

/-- A request that submits a job goes on with the work it notes, and the job joins the FIFO. -/
theorem Executing.submits {code tag : Nat} {body : List Byte} {w : ExecWork} (h : Executing s c code tag body w) (j : JobKind)
    (w' : ExecWork) :
    GoesOn s ((s.enqueueJob (.ctx c) j).setWork c w').startNext c code tag body w' ∧
      QueuesJob s ((s.enqueueJob (.ctx c) j).setWork c w').startNext (.ctx c) j ∧
      { ((s.enqueueJob (.ctx c) j).setWork c w').startNext with
        requests := s.requests, crypto := s.crypto, draws := s.draws } = s := by
  obtain ⟨x, e⟩ := s.enqueueJob_touches (.ctx c) j
  have hqueues := s.enqueueJob_queues (.ctx c) j
  rw [e] at hqueues ⊢
  have hset : ({ s with crypto := x } : State).setWork c w' = { s.setWork c w' with crypto := x } := by
    obtain ⟨-, hreq, -⟩ := h
    unfold State.setWork
    rw [show (({ s with crypto := x } : State).ctx c).request = _ from hreq, hreq]
    rfl
  have hframe := State.startNext_frame { s.setWork c w' with crypto := x }
  rw [hset]
  obtain ⟨hctx, hother⟩ := h.setWork_goesOn w'
  have hreq : ({ s.setWork c w' with crypto := x } : State).startNext.requests = (s.setWork c w').requests :=
    congrArg (·.requests) hframe
  refine ⟨⟨?_, ?_⟩, ?_, ?_⟩
  · exact (congrArg (fun r : Requests => r.ctx.get c) hreq).trans hctx
  · exact (congrArg (fun r : Requests => r.ctx.get (otherCtx c)) hreq).trans hother
  · exact QueuesJob.startNext (t := { s.setWork c w' with crypto := x }) hqueues
  · refine (congrArg (fun t : State => { t with requests := s.requests, crypto := s.crypto, draws := s.draws }) hframe).trans ?_
    rw [h.setWork_eq]
    rfl

end compare

/-! ## Taking -/

section taking

variable {s : State} {w : Write} {rest : List Write}

/-- The state when a write has left the front of the queue. -/
def State.unqueue (s : State) (rest : List Write) : State := { s with store := { s.store with queue := rest } }

theorem execRetainedWriteTake_occupied (hrun : s.running = true) (h : s.store.taken ≠ none) :
    exec .retainedWriteTake s = .next s := by
  show execRetainedWriteTake s = _
  rw [execRetainedWriteTake, whenRunning_eq hrun]
  cases htaken : s.store.taken with
  | none => exact absurd htaken h
  | some _ => rfl

theorem execRetainedWriteTake_decides (hrun : s.running = true) (h : s.store.taken = none) (hq : s.store.queue = w :: rest) :
    exec .retainedWriteTake s = .next ((s.unqueue rest).decideWrite w).startNext := by
  show execRetainedWriteTake s = _
  rw [execRetainedWriteTake, whenRunning_eq hrun]
  split
  · rename_i htaken hqueue
    obtain ⟨rfl, rfl⟩ := List.cons.inj (hq.symm.trans hqueue)
    rfl
  · rename_i hnone
    exact absurd hq (hnone w rest h)

/-- The store takes the write: nothing starts in the engine. -/
theorem State.startWrite_fed (hfed : s.EngineFed) :
    ((s.unqueue rest).startWrite w).startNext =
      { s with store := { s.store with queue := rest, taken := some ⟨w, w.kind.values s.store.working⟩ } } :=
  State.startNext_fed (s := (s.unqueue rest).startWrite w) hfed

theorem State.decideWrite_plain (hm : ∀ k v, w.kind ≠ .mismatch k v) (hg : ∀ rs, w.kind ≠ .credGroup rs) :
    s.decideWrite w = s.startWrite w := by
  unfold State.decideWrite
  split
  · rename_i k v c hk hc
    exact absurd hk (hm k v)
  · rename_i rs c hk hc
    exact absurd hk (hg rs)
  · rfl

theorem Write.ctx?_of {c : Ctx} (h : w.owner = .ctx c) : w.ctx? = some c := by
  unfold Write.ctx?
  rw [h]

theorem State.decideWrite_mismatch {c : Ctx} {k : Fin 32} {v : Nat} (ho : w.owner = .ctx c) (hk : w.kind = .mismatch k v) :
    s.decideWrite w =
      if s.store.working.creds[k].version = v then s.startWrite w else if w.live then s.tryCompare c k else s := by
  unfold State.decideWrite
  simp only [hk, Write.ctx?_of ho]
  rfl

theorem State.decideWrite_group {c : Ctx} {rs : List (Fin 32 × Option CredContent)} (ho : w.owner = .ctx c)
    (hk : w.kind = .credGroup rs) :
    s.decideWrite w =
      if s.reservationHolds c then s.startWrite w
      else if w.live then (s.setReservation c .none).answerError c .reservationLost else s.setReservation c .none := by
  unfold State.decideWrite
  simp only [hk, Write.ctx?_of ho]

theorem State.reservationHolds_iff (s : State) (c : Ctx) :
    s.reservationHolds c = true ↔
      ∃ ts, s.reservation c = .valid ts ∧ ∀ y ∈ ts, s.store.working.creds[y.1].version = y.2 := by
  unfold State.reservationHolds
  cases h : s.reservation c with
  | valid ts =>
    simp only [List.all_eq_true, decide_eq_true_eq, Reservation.valid.injEq, exists_eq_left']
    rfl
  | none => simp
  | lost ts => simp

end taking

/-! ## The values of the writes -/

theorem vmap_getElem {α β : Type} {n : Nat} (f : α → β) (v : Vector α n) (i : Fin n) : (vmap f v)[i] = f v[i] := by
  simp [vmap, Vector.getElem_mk]

/-- A passed slot stays TRIAL, else it is GOOD (R60). -/
theorem WriteKind.slotPass_values (r : Retained) (i : Slot) (v : Nat) (md : Digest) (flag : Bool) :
    (WriteKind.slotPass i v md flag).values r =
      { r with
        selector := if flag then i else r.selector
        records := r.records.set i
          { r.records.get i with
            state := if (r.records.get i).state = .trial then .trial else .good, version := v, digest := md } } := by
  unfold WriteKind.values
  dsimp only
  cases (r.records.get i).state <;> rfl

theorem WriteKind.commit_values (r : Retained) (m : VerifiedManifest) (inForce : Option Table) (flag : Bool) :
    (WriteKind.commit m inForce flag).values r =
      { r with
        pendingCommit := true, pendingSlot := r.selector.other
        tables := r.tables.set r.selector.other (if m.table = none then inForce else m.table)
        records := r.records.set r.selector.other
          ⟨(r.records.get r.selector.other).state, m.version, m.digest, m.floorRaise, m.changes⟩ } := by
  have hor : m.table.or inForce = if m.table = none then inForce else m.table := by cases m.table <;> rfl
  rw [← hor]
  rfl

theorem WriteKind.wipe_values (r : Retained) (j : Fin 32) :
    (WriteKind.wipe.values r).creds[j] =
        ⟨none, if r.creds[j].version < 0xFFFFFFFF then r.creds[j].version + 1 else r.creds[j].version⟩ ∧
      (WriteKind.wipe.values r).failCounts[j] = 0 :=
  ⟨vmap_getElem _ _ _, Vector.getElem_replicate j.isLt⟩

/-! ### A confirm's key changes -/

/-- A revocation revokes an ACTIVE key and no other (R114). -/
def revokeKey (ks : Vector UpdateKey 4) (i : Fin 4) : Vector UpdateKey 4 :=
  if ks[i].state = .active then ks.set i { ks[i] with state := .revoked } else ks

/-- An addition puts an ACTIVE manifest key in place (R114). -/
def addKey (ks : Vector UpdateKey 4) (a : Fin 4 × PubKey) : Vector UpdateKey 4 := ks.set a.1 ⟨.active, .manifest, a.2⟩

theorem applyKeyChanges_eq (keys : Vector UpdateKey 4) (ch : KeyChanges) :
    applyKeyChanges keys ch = ch.additions.foldl addKey (ch.revocations.foldl revokeKey keys) := rfl

theorem Vector.set_getElem_fin {α : Type} {n : Nat} (v : Vector α n) (i j : Fin n) (x : α) :
    (v.set i x)[j] = if i = j then x else v[j] := by
  rw [Fin.getElem_fin, Fin.getElem_fin, Vector.getElem_set]
  simp only [Fin.ext_iff]

theorem revokeKey_getElem (ks : Vector UpdateKey 4) (i j : Fin 4) :
    (revokeKey ks j)[i] = if i = j ∧ ks[i].state = .active then { ks[i] with state := .revoked } else ks[i] := by
  unfold revokeKey
  by_cases hij : j = i
  · subst hij
    by_cases hactive : ks[j].state = .active
    · rw [if_pos hactive, if_pos ⟨rfl, hactive⟩, Vector.set_getElem_fin, if_pos rfl]
    · rw [if_neg hactive, if_neg (not_and_of_not_right _ hactive)]
  · rw [if_neg (not_and_of_not_left _ (Ne.symm hij))]
    by_cases hactive : ks[j].state = .active
    · rw [if_pos hactive, Vector.set_getElem_fin, if_neg hij]
    · rw [if_neg hactive]

theorem revokeKeys_getElem (is : List (Fin 4)) (ks : Vector UpdateKey 4) (i : Fin 4) :
    (is.foldl revokeKey ks)[i] = if i ∈ is ∧ ks[i].state = .active then { ks[i] with state := .revoked } else ks[i] := by
  induction is generalizing ks with
  | nil => simp
  | cons j is ih =>
    rw [List.foldl_cons, ih, revokeKey_getElem]
    by_cases hj : i = j ∧ ks[i].state = .active
    · obtain ⟨hij, hactive⟩ := hj
      rw [if_pos (show i = j ∧ ks[i].state = .active from ⟨hij, hactive⟩)]
      exact (ite_self _).trans (if_pos ⟨List.mem_cons.2 (Or.inl hij), hactive⟩).symm
    · rw [if_neg hj]
      refine if_congr ?_ rfl rfl
      rw [List.mem_cons, or_and_right]
      exact (or_iff_right hj).symm

theorem addKeys_other (as : List (Fin 4 × PubKey)) (ks : Vector UpdateKey 4) {i : Fin 4} (h : i ∉ as.map (·.1)) :
    (as.foldl addKey ks)[i] = ks[i] := by
  induction as generalizing ks with
  | nil => rfl
  | cons a as ih =>
    simp only [List.map_cons, List.mem_cons, not_or] at h
    obtain ⟨hne, hrest⟩ := h
    rw [List.foldl_cons, ih _ hrest, addKey, Vector.set_getElem_fin, if_neg fun e => hne e.symm]

/-- Of the additions into one place the last one stands. -/
theorem addKeys_last (pre post : List (Fin 4 × PubKey)) (ks : Vector UpdateKey 4) {i : Fin 4} (pub : PubKey)
    (h : i ∉ post.map (·.1)) : ((pre ++ (i, pub) :: post).foldl addKey ks)[i] = ⟨.active, .manifest, pub⟩ := by
  rw [List.foldl_append, List.foldl_cons, addKeys_other post _ h, addKey, Vector.set_getElem_fin, if_pos rfl]

/-! ### A group's records -/

theorem Retained.putCreds_other (r : Retained) (rs : List (Fin 32 × Option CredContent)) {k : Fin 32} (h : k ∉ rs.map (·.1)) :
    (r.putCreds rs).creds[k] = r.creds[k] ∧ (r.putCreds rs).failCounts[k] = r.failCounts[k] := by
  induction rs generalizing r with
  | nil => exact ⟨rfl, rfl⟩
  | cons y rs ih =>
    obtain ⟨i, x⟩ := y
    simp only [List.map_cons, List.mem_cons, not_or] at h
    obtain ⟨hne, hrest⟩ := h
    obtain ⟨hcreds, hfails⟩ := ih
      { r with creds := r.creds.set i ⟨x, satInc 0xFFFFFFFF r.creds[i].version⟩, failCounts := r.failCounts.set i 0 } hrest
    rw [Vector.set_getElem_fin, if_neg fun e => hne e.symm] at hcreds hfails
    exact ⟨hcreds, hfails⟩

/-- Each record of a group that names no slot twice stands, with its version counted and its fail count 0 (R143, R155). -/
theorem Retained.putCreds_mem (r : Retained) (rs : List (Fin 32 × Option CredContent)) (hnodup : (rs.map (·.1)).Nodup)
    {k : Fin 32} {x : Option CredContent} (h : (k, x) ∈ rs) :
    (r.putCreds rs).creds[k] = ⟨x, satInc 0xFFFFFFFF r.creds[k].version⟩ ∧ (r.putCreds rs).failCounts[k] = 0 := by
  induction rs generalizing r with
  | nil => exact absurd h List.not_mem_nil
  | cons y rs ih =>
    obtain ⟨i, z⟩ := y
    obtain ⟨hfresh, hrest⟩ := List.nodup_cons.1 hnodup
    rcases List.mem_cons.1 h with heq | hmem
    · obtain ⟨rfl, rfl⟩ := Prod.mk.inj heq
      obtain ⟨hcreds, hfails⟩ := Retained.putCreds_other
        { r with creds := r.creds.set k ⟨x, satInc 0xFFFFFFFF r.creds[k].version⟩, failCounts := r.failCounts.set k 0 } rs hfresh
      rw [Vector.set_getElem_fin, if_pos rfl] at hcreds hfails
      exact ⟨hcreds, hfails⟩
    · have hne : i ≠ k := by
        rintro rfl
        exact hfresh (List.mem_map_of_mem (f := (·.1)) hmem)
      obtain ⟨hcreds, hfails⟩ := ih
        { r with creds := r.creds.set i ⟨z, satInc 0xFFFFFFFF r.creds[i].version⟩, failCounts := r.failCounts.set i 0 } hrest hmem
      rw [Vector.set_getElem_fin, if_neg hne] at hcreds
      exact ⟨hcreds, hfails⟩

/-! ## The statement -/

section decided

variable {s : State} {w : Write} {rest : List Write} {c : Ctx}

/-- What the store decides on a mismatch (R148, R188; log entry 45). -/
theorem execRetainedWriteTake_mismatch {k : Fin 32} {v : Nat} (hrun : s.running = true) (hfed : s.EngineFed)
    (htaken : s.store.taken = none) (hq : s.store.queue = w :: rest) (ho : w.owner = .ctx c) (hk : w.kind = .mismatch k v) :
    (s.store.working.creds[k].version = v →
      exec .retainedWriteTake s =
        .next { s with store := { s.store with queue := rest, taken := some ⟨w, w.kind.values s.store.working⟩ } }) ∧
    (s.store.working.creds[k].version ≠ v → w.live = false →
      exec .retainedWriteTake s = .next { s with store := { s.store with queue := rest } }) ∧
    (s.store.working.creds[k].version ≠ v → w.live = true →
      exec .retainedWriteTake s = .next ((s.unqueue rest).tryCompare c k).startNext) := by
  rw [execRetainedWriteTake_decides hrun htaken hq, State.decideWrite_mismatch ho hk]
  refine ⟨fun hv => ?_, fun hv hlive => ?_, fun hv hlive => ?_⟩
  · rw [if_pos (show (s.unqueue rest).store.working.creds[k].version = v from hv), State.startWrite_fed hfed]
  · rw [if_neg (show ¬ (s.unqueue rest).store.working.creds[k].version = v from hv), hlive, if_neg Bool.false_ne_true,
      State.startNext_fed (s := s.unqueue rest) hfed]
    rfl
  · rw [if_neg (show ¬ (s.unqueue rest).store.working.creds[k].version = v from hv), if_pos hlive]

/-- What the store decides on a conditional group (R155, R188). -/
theorem execRetainedWriteTake_group {rs : List (Fin 32 × Option CredContent)} (hrun : s.running = true) (hfed : s.EngineFed)
    (htaken : s.store.taken = none) (hq : s.store.queue = w :: rest) (ho : w.owner = .ctx c) (hk : w.kind = .credGroup rs) :
    (s.reservationHolds c = true →
      exec .retainedWriteTake s =
        .next { s with store := { s.store with queue := rest, taken := some ⟨w, w.kind.values s.store.working⟩ } }) ∧
    (s.reservationHolds c = false → w.live = false →
      exec .retainedWriteTake s = .next ((s.unqueue rest).setReservation c .none)) ∧
    (s.reservationHolds c = false → w.live = true →
      exec .retainedWriteTake s = .next (((s.unqueue rest).setReservation c .none).answerError c .reservationLost)) := by
  rw [execRetainedWriteTake_decides hrun htaken hq, State.decideWrite_group ho hk]
  refine ⟨fun hres => ?_, fun hres hlive => ?_, fun hres hlive => ?_⟩
  · rw [if_pos (show (s.unqueue rest).reservationHolds c = true from hres), State.startWrite_fed hfed]
  · have hnot : ¬ (s.unqueue rest).reservationHolds c = true := ne_true_of_eq_false hres
    rw [if_neg hnot, hlive, if_neg Bool.false_ne_true, State.startNext_fed (s := (s.unqueue rest).setReservation c .none) hfed]
  · have hnot : ¬ (s.unqueue rest).reservationHolds c = true := ne_true_of_eq_false hres
    rw [if_neg hnot, if_pos hlive,
      State.startNext_fed (s := ((s.unqueue rest).setReservation c .none).answerError c .reservationLost) hfed]

/-- A discarded compare is checked again over its slot as it now stands, and answered or submitted anew (R147, R148). -/
theorem Executing.comparesAgain {tag : Nat} {n : Byte} {cand : List Byte} {k : Fin 32} (h : Executing s c 0x64 tag (n :: cand) .awaitWrite)
    (hfed : s.EngineFed) {t : State} (ht : t = ((s.unqueue rest).tryCompare c k).startNext) :
    t.store = { s.store with queue := rest } ∧
      (∀ st detail body,
        (s.store.working.creds[k].content = none ∧ st = .emptySlot ∧ detail = k.val ∧ body = [] ∨
          ∃ x, s.store.working.creds[k].content = some x ∧
            (s.releaseAnswer (some true) x = some st ∧ detail = k.val ∧ body = [] ∨
              s.releaseAnswer (some true) x = none ∧ st = .lockedOut ∧ detail = 0 ∧
                ∃ d, s.creds.lockouts[k] = some d ∧ body = le 4 (d - s.time.tick))) →
          Answers s t c 0x64 tag st detail body ∧ AlertChange s t 0 (responseSource c) ∧
            { t with requests := s.requests, alert := s.alert, store := s.store } = s) ∧
      ∀ x, s.store.working.creds[k].content = some x → s.releaseAnswer (some true) x = none →
        s.creds.lockouts[k] = none →
          GoesOn s t c 0x64 tag (n :: cand) (.comparing k s.store.working.creds[k].version) ∧
            QueuesJob s t (.ctx c) (.compare k cand) ∧
            { t with requests := s.requests, crypto := s.crypto, store := s.store, draws := s.draws } = s := by
  subst ht
  have hanswered : ∀ st detail body, (s.unqueue rest).tryCompare c k = (s.unqueue rest).answer c st detail body →
      Answers s ((s.unqueue rest).tryCompare c k).startNext c 0x64 tag st detail body ∧
        AlertChange s ((s.unqueue rest).tryCompare c k).startNext 0 (responseSource c) ∧
        { ((s.unqueue rest).tryCompare c k).startNext with requests := s.requests, alert := s.alert, store := s.store } = s := by
    intro st detail body heq
    obtain ⟨hans, hchange, -⟩ := State.answer_only (s.unqueue rest) h.2.2 st detail body
    rw [heq, State.startNext_fed (s := (s.unqueue rest).answer c st detail body) hfed]
    exact ⟨hans, hchange, rfl⟩
  have hbody : (s.unqueue rest).submitCompare c k =
      ((s.unqueue rest).enqueueJob (.ctx c) (.compare k cand)).setWork c (.comparing k s.store.working.creds[k].version) := by
    have hsent : (s.unqueue rest).body c = n :: cand := by
      unfold State.body
      rw [show ((s.unqueue rest).ctx c).request = _ from h.2.1]
    unfold State.submitCompare
    rw [hsent]
    rfl
  refine ⟨?_, fun st detail body hcase => hanswered st detail body ?_, fun x hx hpass hfree => ?_⟩
  · exact (congrArg (·.store) (State.startNext_frame _)).trans (State.tryCompare_store _ c k)
  · rcases hcase with ⟨hempty, rfl, rfl, rfl⟩ | ⟨x, hx, ⟨hst, rfl, rfl⟩ | ⟨hpass, rfl, rfl, d, hd, rfl⟩⟩
    · exact State.tryCompare_refused (State.releaseCheck_empty (s := s.unqueue rest) hempty)
    · exact State.tryCompare_refused ((State.releaseCheck_full (s := s.unqueue rest) hx).trans hst)
    · exact State.tryCompare_locked ((State.releaseCheck_full (s := s.unqueue rest) hx).trans hpass) hd
  · have hcheck := (State.releaseCheck_full (s := s.unqueue rest) hx).trans hpass
    obtain ⟨hgoes, hqueues, hframe⟩ := Executing.submits (s := s.unqueue rest) h (.compare k cand)
      (.comparing k s.store.working.creds[k].version)
    rw [State.tryCompare_submits (s := s.unqueue rest) hcheck hfree, hbody]
    exact ⟨hgoes, hqueues, congrArg (fun t : State => { t with store := s.store }) hframe⟩

end decided

/-- Settles O49: what the store decides on the write it comes to, and each kind's values. -/
theorem retainedWritesAreTakenInOrder : Obligations.RetainedWritesAreTakenInOrder := by
  refine ⟨fun s w rest hrun hfed hq => ⟨execRetainedWriteTake_occupied hrun, fun htaken =>
      ⟨fun hm hg => ?_, fun c k v ho hk => ?_, fun c rs ho hk => ⟨s.reservationHolds_iff c, ?_⟩⟩⟩,
    fun r i k m md u v flag => ⟨rfl, rfl, rfl, rfl, WriteKind.slotPass_values r i v md flag, rfl, rfl,
      fun inForce => WriteKind.commit_values r m inForce flag, rfl, rfl, fun _ _ => rfl, fun _ => rfl, fun _ _ => rfl, rfl, rfl,
      rfl, WriteKind.wipe_values r, rfl⟩,
    fun r => ⟨applyKeyChanges r.updateKeys (r.records.get r.selector).changes, rfl, fun i ch hch => ?_⟩,
    fun r rs hnodup => ⟨r.putCreds_frame rs, fun k => ⟨fun x hx => r.putCreds_mem rs hnodup hx, r.putCreds_other rs⟩⟩⟩
  · rw [execRetainedWriteTake_decides hrun htaken hq, State.decideWrite_plain hm hg, State.startWrite_fed hfed]
  · obtain ⟨htakes, hdrops, hagain⟩ := execRetainedWriteTake_mismatch hrun hfed htaken hq ho hk
    exact ⟨htakes, hdrops, fun tag n cand hv hlive h => ⟨_, hagain hv hlive, h.comparesAgain hfed rfl⟩⟩
  · obtain ⟨htakes, hdrops, hlost⟩ := execRetainedWriteTake_group hrun hfed htaken hq ho hk
    refine ⟨htakes, hdrops, fun hres hlive code tag hpending => ⟨_, hlost hres hlive, ?_, rfl, rfl⟩⟩
    obtain ⟨hans, -, -⟩ := State.answer_only ((s.unqueue rest).setReservation c .none) hpending .reservationLost 0 []
    exact hans
  · rw [applyKeyChanges_eq, ← hch]
    refine ⟨fun pub pre post hadds hlast => ?_, fun hnot => ?_⟩
    · rw [hadds]
      exact addKeys_last pre post _ pub hlast
    · rw [addKeys_other _ _ hnot]
      exact revokeKeys_getElem _ _ _

end Sys2Proof.Machine
end

section
/-! # A completed write

What the block that queued a write does when it is told of its completion (R8, R86, R111, R148, R149, R152, R155, R159, R187), and what
becomes of the claim and of a waiting CONTEXT_RESET (R122, R182). -/

namespace Sys2Proof.Machine

open Sys2Proof

/-! ## The completion -/

/-- The values of the write that was in progress stand whole, in both copies (R187). -/
def State.completed (s : State) (w : TakenWrite) : State :=
  { s with store := ⟨w.values, w.values, s.store.queue, none⟩ }

theorem execRetainedWriteComplete_taken {s : State} {w : TakenWrite} (hrun : s.running = true) (h : s.store.taken = some w) :
    exec .retainedWriteComplete s =
      .next ((((s.completed w).writeDone w.write).finishReset .c0).finishReset .c1).startNext := by
  show execRetainedWriteComplete s = _
  rw [execRetainedWriteComplete, whenRunning_eq hrun]
  split
  · rename_i hnone
    exact nomatch h.symm.trans hnone
  · rename_i t htaken
    obtain rfl := Option.some.inj (h.symm.trans htaken)
    rfl

/-! ## A CONTEXT_RESET that waits for the write -/

section resets

variable {s : State} {c : Ctx}

theorem State.finishReset_none (h : s.work? c ≠ some .awaitDiscarded) : s.finishReset c = s := if_neg fun w => h w.1

theorem State.finishReset_waits (h : s.discardedWrite c = true) : s.finishReset c = s := if_neg fun w => w.2 h

theorem State.finishReset_answers (h : s.work? c = some .awaitDiscarded) (hd : s.discardedWrite c = false) :
    s.finishReset c = s.answerOk c [] := if_pos ⟨h, ne_true_of_eq_false hd⟩

theorem State.finishReset_touches (s : State) (c : Ctx) : ∃ r a, s.finishReset c = { s with requests := r, alert := a } := by
  unfold State.finishReset
  split
  · exact ⟨_, _, rfl⟩
  · exact ⟨_, _, rfl⟩

theorem State.finishReset_other (s : State) (c : Ctx) : (s.finishReset c).ctx (otherCtx c) = s.ctx (otherCtx c) := by
  unfold State.finishReset
  split
  · exact s.ready_other c _ _ _ _ _
  · rfl

/-- Where no CONTEXT_RESET of the other context waits, this context's alone can be answered. -/
theorem State.finishResets_one (h : s.work? (otherCtx c) ≠ some .awaitDiscarded) :
    (s.finishReset .c0).finishReset .c1 = s.finishReset c := by
  cases c with
  | c0 =>
    refine State.finishReset_none ?_
    unfold State.work?
    rw [show (s.finishReset .c0).ctx .c1 = s.ctx .c1 from s.finishReset_other .c0]
    exact h
  | c1 => rw [State.finishReset_none (c := .c0) h]

end resets

/-! ## What the block does -/

/-- What the completion of a request's write does beside the records, the two contexts and the claim. -/
def State.writeActs (s : State) (c : Ctx) : WriteKind → State
  | .loadTable _ =>
    if s.restart.phase ≠ .released then { s with xlat := { s.xlat with loadWaits := s.xlat.loadWaits || s.forwarding } }
    else if s.forwarding then { s with xlat := { s.xlat with loadWaits := true } }
    else s.forceLoaded
  | .confirm =>
    let t := { s with restart := { s.restart with trialDeadline := none } }.clearSource sourceTrial
    if s.watch.trust = .trial then { t with watch := { s.watch with trust := .verified } } else t
  | .mismatch slot _ =>
    if 5 ≤ s.wc.failCounts[slot] ∧ s.restart.phase = .released then
      { s with
        creds :=
          { s.creds with
            lockouts := s.creds.lockouts.set slot (some (s.time.tick + lockoutLength s.wc.failCounts[slot])) } }.raise
        sourceLockout
    else s
  | .credGroup rs =>
    ((s.disarmLockouts (rs.map (·.1))).setReservation c .none).setReservation (otherCtx c)
      ((s.reservation (otherCtx c)).onWrite (rs.map (·.1)))
  | .wipe =>
    { s with
      creds :=
        { s.creds with
          lockouts := Vector.replicate 32 none
          reservations := ⟨s.creds.reservations.c0.lose, s.creds.reservations.c1.lose⟩ } }
  | _ => s

/-- The answer that a live request gets with the completion of its write. -/
def State.writeReply (s : State) : WriteKind → Status × List Byte
  | .identity key _ => (.ok, wideBytes key.pub)
  | .openSession _ => (.sessionState, [])
  | .credGroup rs => (.ok, (rs.map (·.1)).flatMap fun i => le 4 s.wc.creds[i].version)
  | .mismatch slot _ => (.mismatch, le 1 s.wc.failCounts[slot])
  | .wipe => (.ok, le 4 s.wc.ownerEpoch.toNat)
  | _ => (.ok, [])

/-- The writes with which the provisioning claim clears: all provisioning writes but the advance to FIELD (R122). -/
def WriteKind.freesClaim : WriteKind → Bool
  | .loadTable _ => true
  | .identity _ _ => true
  | .certificate _ => true
  | .injectKey _ _ => true
  | _ => false

theorem WriteKind.freesClaim_iff (k : WriteKind) :
    k.freesClaim = true ↔
      (∃ u, k = .loadTable u) ∨ (∃ key secret, k = .identity key secret) ∨ (∃ b, k = .certificate b) ∨
        ∃ i pub, k = .injectKey i pub := by
  cases k <;> simp [WriteKind.freesClaim]

/-- The block has acted, the live request has been answered, and the claim has cleared where it does. -/
def State.writeTold (s : State) (w : Write) (c : Ctx) : State :=
  if w.kind.freesClaim then
    ((s.writeActs c w.kind).answerWrite w (s.writeReply w.kind).1 0 (s.writeReply w.kind).2).dropClaim c
  else (s.writeActs c w.kind).answerWrite w (s.writeReply w.kind).1 0 (s.writeReply w.kind).2

/-- The writes of requests whose completion neither opens a session nor triggers a restart. -/
def State.settles (s : State) : WriteKind → Bool
  | .openSession n => decide (s.intake.session.claim ≠ some n)
  | .commit _ _ restart => !restart
  | .clearPending | .confirm | .loadTable _ | .identity _ _ | .certificate _ | .injectKey _ _ | .resetFails _ | .mismatch _ _
  | .credGroup _ | .wipe => true
  | _ => false

section done

variable {s : State} {w : Write} {c : Ctx}

theorem State.answerWrite_live (ho : w.owner = .ctx c) (h : w.live = true) (st : Status) (detail : Nat) (body : List Byte) :
    s.answerWrite w st detail body = s.answer c st detail body := by
  unfold State.answerWrite
  rw [Write.ctx?_of ho]
  exact if_pos h

theorem State.answerWrite_dead (h : w.live = false) (st : Status) (detail : Nat) (body : List Byte) :
    s.answerWrite w st detail body = s := by
  unfold State.answerWrite
  split
  · rw [h]
    rfl
  · rfl

theorem State.dropWriteClaim_of (ho : w.owner = .ctx c) : s.dropWriteClaim w = s.dropClaim c := by
  unfold State.dropWriteClaim
  rw [Write.ctx?_of ho]

/-- A loaded table whose request is answered at once, or is answered no more (R8). -/
theorem State.loadDone_told {u : Table} (ho : w.owner = .ctx c) (hk : w.kind = .loadTable u)
    (hnow : w.live = false ∨ s.restart.phase ≠ .released ∨ s.forwarding = false) : s.loadDone w = s.writeTold w c := by
  unfold State.writeTold State.loadDone
  rw [hk]
  simp only [State.dropWriteClaim_of ho, Write.ctx?_of ho]
  unfold State.writeActs
  by_cases hphase : s.restart.phase ≠ .released
  · rw [if_pos hphase]
    simp only [if_pos hphase]
    rfl
  · rw [if_neg hphase]
    simp only [if_neg hphase]
    by_cases hf : s.forwarding = true
    · have hdead : w.live = false := by
        rcases hnow with h | h | h
        · exact h
        · exact absurd h hphase
        · exact absurd hf (ne_true_of_eq_false h)
      simp only [if_pos hf, State.answerWrite_dead hdead, hdead]
      rfl
    · simp only [if_neg hf]
      rfl

theorem State.writeDone_settles (ho : w.owner = .ctx c) (h : s.settles w.kind = true)
    (hnow : (∃ u, w.kind = .loadTable u) → w.live = false ∨ s.restart.phase ≠ .released ∨ s.forwarding = false) :
    s.writeDone w = s.writeTold w c := by
  obtain ⟨owner, k, live⟩ := w
  obtain rfl : owner = .ctx c := ho
  cases k with
  | loadTable u => exact State.loadDone_told rfl rfl (hnow ⟨u, rfl⟩)
  | openSession n =>
    have hsettles : decide (s.intake.session.claim ≠ some n) = true := h
    have hcleared := of_decide_eq_true hsettles
    show s.openDone _ n = _
    unfold State.openDone
    rw [if_neg hcleared]
    rfl
  | credGroup rs => cases c <;> rfl
  | commit m u restart =>
    have hsettles : (!restart) = true := h
    obtain rfl := (Bool.not_eq_eq_eq_not.1 hsettles : restart = !true)
    rfl
  | bootCount | applyCommit | countAttempt | revert | slotPass | slotReject | advance => exact absurd h Bool.false_ne_true
  | clearPending | confirm | identity | certificate | injectKey | resetFails | mismatch | wipe => rfl

/-- A commit with its flag and the advance to FIELD trigger a restart behind the answer (R105, R127). -/
theorem State.writeDone_restarts {cause : Cause} (h : w.kind.restarts cause) :
    s.writeDone w = (s.writeTold w c).trigger cause ∧ s.writeTold w c = s.answerWrite w .ok 0 [] := by
  unfold State.writeDone State.writeTold
  rcases h with ⟨⟨m, u, hk⟩, rfl⟩ | ⟨⟨b, hk⟩, rfl⟩
  · rw [hk]
    exact ⟨rfl, rfl⟩
  · rw [hk]
    exact ⟨rfl, rfl⟩

/-! ## The claim, the other context, and what else the completion leaves alone -/

/-- The block's own actions leave the requests and the store alone. -/
theorem State.writeActs_frame (s : State) (c : Ctx) (k : WriteKind) :
    { s.writeActs c k with xlat := s.xlat, watch := s.watch, restart := s.restart, creds := s.creds, alert := s.alert } = s := by
  cases k with
  | loadTable u =>
    unfold State.writeActs
    dsimp only
    split
    · rfl
    · split <;> rfl
  | confirm =>
    unfold State.writeActs
    dsimp only
    split <;> rfl
  | mismatch i v =>
    unfold State.writeActs
    dsimp only
    split <;> rfl
  | _ => rfl

theorem State.dropClaim_requests (s : State) (c : Ctx) :
    (s.dropClaim c).requests = { s.requests with claim := if s.requests.claim = some c then none else s.requests.claim } := by
  unfold State.dropClaim
  split <;> rfl

/-- What the completion makes of the requests. -/
theorem State.writeTold_requests (s : State) (w : Write) (c : Ctx) :
    (s.writeTold w c).requests.ctx =
        ((s.writeActs c w.kind).answerWrite w (s.writeReply w.kind).1 0 (s.writeReply w.kind).2).requests.ctx ∧
      (s.writeTold w c).requests.claimQueue = s.requests.claimQueue ∧
      (s.writeTold w c).requests.claim =
        if w.kind.freesClaim = true ∧ s.requests.claim = some c then none else s.requests.claim := by
  have hkept : ((s.writeActs c w.kind).answerWrite w (s.writeReply w.kind).1 0 (s.writeReply w.kind).2).requests.claim =
        s.requests.claim ∧
      ((s.writeActs c w.kind).answerWrite w (s.writeReply w.kind).1 0 (s.writeReply w.kind).2).requests.claimQueue =
        s.requests.claimQueue := by
    have hreq : (s.writeActs c w.kind).requests = s.requests := congrArg (·.requests) (s.writeActs_frame c w.kind)
    unfold State.answerWrite
    split
    · split
      · exact ⟨congrArg (·.claim) hreq, congrArg (·.claimQueue) hreq⟩
      · exact ⟨congrArg (·.claim) hreq, congrArg (·.claimQueue) hreq⟩
    · exact ⟨congrArg (·.claim) hreq, congrArg (·.claimQueue) hreq⟩
  obtain ⟨hclaim, hqueue⟩ := hkept
  unfold State.writeTold
  by_cases hfree : w.kind.freesClaim = true
  · rw [if_pos hfree, State.dropClaim_requests, hclaim]
    exact ⟨rfl, hqueue, if_congr (by simp [hfree]) rfl rfl⟩
  · rw [if_neg hfree, if_neg (not_and_of_not_left _ hfree)]
    exact ⟨rfl, hqueue, hclaim⟩

/-- The answer and the claim aside, the completion is what the block does. -/
theorem State.writeTold_touches (s : State) (w : Write) (c : Ctx) :
    (s.writeTold w c).alert =
        ((s.writeActs c w.kind).answerWrite w (s.writeReply w.kind).1 0 (s.writeReply w.kind).2).alert ∧
      { s.writeTold w c with requests := (s.writeActs c w.kind).requests, alert := (s.writeActs c w.kind).alert } =
        s.writeActs c w.kind := by
  have hanswer : ∃ r a, (s.writeActs c w.kind).answerWrite w (s.writeReply w.kind).1 0 (s.writeReply w.kind).2 =
      { s.writeActs c w.kind with requests := r, alert := a } := by
    unfold State.answerWrite
    split
    · split
      · exact ⟨_, _, rfl⟩
      · exact ⟨_, _, rfl⟩
    · exact ⟨_, _, rfl⟩
  obtain ⟨r, a, e⟩ := hanswer
  unfold State.writeTold
  rw [e]
  split
  · obtain ⟨r', e'⟩ := State.dropClaim_touches { s.writeActs c w.kind with requests := r, alert := a } c
    rw [e']
    exact ⟨rfl, rfl⟩
  · exact ⟨rfl, rfl⟩

theorem ClaimAfter.of {t : State} {w : TakenWrite} (hqueue : t.requests.claimQueue = s.requests.claimQueue)
    (hclaim : t.requests.claim =
      if w.write.kind.freesClaim = true ∧ s.requests.claim = some c then none else s.requests.claim) : ClaimAfter s t w c := by
  refine ⟨hqueue, fun clears hclears => hclaim.trans (if_congr ?_ rfl rfl)⟩
  rw [hclears, w.write.kind.freesClaim_iff]

end done

/-! ## The actions, kind by kind -/

theorem disarm_getElem (slots : List (Fin 32)) (v : Vector (Option Nat) 32) (i : Fin 32) :
    (slots.foldl (fun (v : Vector (Option Nat) 32) (i : Fin 32) => v.set i none) v)[i] = if i ∈ slots then none else v[i] := by
  induction slots generalizing v with
  | nil => rfl
  | cons j slots ih =>
    rw [List.foldl_cons, ih, Vector.set_getElem_fin]
    by_cases hmem : i ∈ slots
    · rw [if_pos hmem, if_pos (List.mem_cons_of_mem j hmem)]
    · rw [if_neg hmem]
      refine if_congr ?_ rfl rfl
      rw [List.mem_cons, or_iff_left hmem]
      exact eq_comm

theorem Reservation.onWrite_valid (ts : List (Fin 32 × Nat)) (rs : List (Fin 32 × Option CredContent)) :
    Reservation.onWrite (.valid ts) (rs.map (·.1)) =
      if ts.any (fun y => rs.any fun r => r.1 = y.1) then .lost ts else .valid ts := by
  have htargets : (Reservation.valid ts).targets.any (fun t => (rs.map (·.1)).contains t.1) =
      ts.any (fun y => rs.any fun r => r.1 = y.1) := by
    show ts.any _ = ts.any _
    refine congrArg ts.any (funext fun y => ?_)
    rw [Bool.eq_iff_iff]
    simp
  unfold Reservation.onWrite
  rw [htargets]
  rfl

theorem Reservation.onWrite_other {r : Reservation} (h : ∀ ts, r ≠ .valid ts) (slots : List (Fin 32)) : r.onWrite slots = r := by
  cases r with
  | valid ts => exact absurd rfl (h ts)
  | none => exact ite_self _
  | lost ts => exact ite_self _

theorem PerCtx.get_set_behind {α : Type} (p : PerCtx α) (c : Ctx) (x y : α) : ((p.set c x).set (otherCtx c) y).get c = x := by
  cases c <;> rfl

section acts

variable {s t u : State} {w : TakenWrite} {c : Ctx} {told : List (BitVec 8 × BitVec 8)}

/-- A loaded table is in force, or waits for a host forward (R8; log entries 40, 47). -/
theorem State.loadActs {tb : Table} (hu : u = (s.completed w).writeActs c (.loadTable tb))
    (hback : { t with requests := s.requests, alert := s.alert, store := s.store } =
      { u with requests := s.requests, alert := s.alert, store := s.store })
    (hxlat : t.xlat = u.xlat) (hwatch : t.watch = u.watch) (halert : AlertSteps s.time.tick told u.alert t.alert) :
    AlertSteps s.time.tick told s.alert t.alert ∧
      (s.restart.phase ≠ .released →
        t.xlat = { s.xlat with loadWaits := s.xlat.loadWaits || s.storage.forward.isSome } ∧ t.watch = s.watch) ∧
      (s.restart.phase = .released → s.storage.forward ≠ none →
        t.xlat = { s.xlat with loadWaits := true } ∧ t.watch = s.watch) ∧
      (s.restart.phase = .released → s.storage.forward = none →
        t.watch = { s.watch with altered := 0 } ∧
          t.xlat =
            ⟨match w.values.tables.get w.values.selector with
              | some u => .table w.values.selector u
              | none => if w.values.stage = .field then .none else .identity, false⟩) ∧
      { t with requests := s.requests, alert := s.alert, store := s.store, xlat := s.xlat, watch := s.watch } = s := by
  have hrest := congrArg (fun v : State => { v with xlat := s.xlat, watch := s.watch }) hback
  rw [hxlat, hwatch]
  by_cases hphase : s.restart.phase = .released
  · by_cases hf : s.storage.forward = none
    · have hnot : ¬ (s.completed w).forwarding = true := by
        show ¬ s.storage.forward.isSome = true
        rw [hf]
        nofun
      have hacts : u = (s.completed w).forceLoaded := by
        rw [hu, State.writeActs, if_neg (not_not.2 (show (s.completed w).restart.phase = .released from hphase)), if_neg hnot]
      rw [hacts] at halert hrest ⊢
      exact ⟨halert, fun h => absurd hphase h, fun _ h => absurd hf h,
        fun _ _ => ⟨rfl, (s.completed w).releaseTable_eq⟩, hrest⟩
    · have hwaits : (s.completed w).forwarding = true := Option.isSome_iff_ne_none.2 hf
      have hacts : u = { s.completed w with xlat := { s.xlat with loadWaits := true } } := by
        rw [hu, State.writeActs, if_neg (not_not.2 (show (s.completed w).restart.phase = .released from hphase)), if_pos hwaits]
        rfl
      rw [hacts] at halert hrest ⊢
      exact ⟨halert, fun h => absurd hphase h, fun _ _ => ⟨rfl, rfl⟩, fun _ h => absurd h hf, hrest⟩
  · have hacts : u = { s.completed w with
        xlat := { s.xlat with loadWaits := s.xlat.loadWaits || s.storage.forward.isSome } } := by
      rw [hu, State.writeActs, if_pos (show (s.completed w).restart.phase ≠ .released from hphase)]
      rfl
    rw [hacts] at halert hrest ⊢
    exact ⟨halert, fun _ => ⟨rfl, rfl⟩, fun h => absurd h hphase, fun h => absurd h hphase, hrest⟩

/-- A state that differs from what the block's actions leave in the requests, the store and the alert unit alone. -/
theorem State.writeActs_acts (hu : u = (s.completed w).writeActs c w.write.kind)
    (hframe : { t with requests := u.requests, alert := u.alert, store := u.store } = u)
    (halert : AlertSteps s.time.tick told u.alert t.alert) : WriteActs s t w c told := by
  have hback := congrArg (fun v : State => { v with requests := s.requests, alert := s.alert, store := s.store }) hframe
  have hxlat : t.xlat = u.xlat := congrArg (·.xlat) hframe
  have hwatch : t.watch = u.watch := congrArg (·.watch) hframe
  have hcreds : t.creds = u.creds := congrArg (·.creds) hframe
  have hrestart : t.restart = u.restart := congrArg (·.restart) hframe
  refine ⟨fun hk => ?_, fun tb hk => ?_, fun rs hk => ?_, fun hk => ?_, fun k v hk => ?_, fun hk => ?_⟩
  · have hsame : u = s.completed w := by
      rw [hu]
      rcases hk with hk | ⟨_, hk⟩ | ⟨_, _, hk⟩ | ⟨_, hk⟩ | ⟨_, _, hk⟩ | ⟨_, _, hk⟩ | ⟨_, hk, -⟩
      all_goals rw [hk]; rfl
    rw [hsame] at hback halert
    exact ⟨halert, hback⟩
  · rw [hk] at hu
    exact State.loadActs (hu := hu) hback hxlat hwatch halert
  · have hacts : u = (((s.completed w).disarmLockouts (rs.map (·.1))).setReservation c .none).setReservation (otherCtx c)
        ((s.reservation (otherCtx c)).onWrite (rs.map (·.1))) := by
      rw [hu, hk]
      rfl
    have hreservation : ∀ d, t.reservation d = u.reservation d := fun d => congrArg (fun x : Creds => x.reservations.get d) hcreds
    have hother : u.reservation (otherCtx c) = (s.reservation (otherCtx c)).onWrite (rs.map (·.1)) := by
      rw [hacts]
      exact PerCtx.get_set _ _ _
    refine ⟨?_, ?_, fun i => ?_, ?_, fun ts hts => ?_, fun hts => ?_, ?_⟩
    · rw [hacts] at halert
      exact halert
    · rw [hcreds, hacts]
      rfl
    · rw [hcreds, hacts]
      have htarget : i ∈ rs.map (·.1) ↔ rs.any (fun r => decide (r.1 = i)) = true := by simp
      have hclear := disarm_getElem (rs.map (·.1)) s.creds.lockouts i
      exact hclear.trans (if_congr htarget rfl rfl)
    · rw [hreservation, hacts]
      exact PerCtx.get_set_behind _ c _ _
    · rw [hreservation, hother, hts, Reservation.onWrite_valid]
    · rw [hreservation, hother, Reservation.onWrite_other hts]
    · rw [hacts] at hback
      exact congrArg (fun v : State => { v with creds := s.creds }) hback
  · rw [hk] at hu
    rw [hrestart, hwatch]
    have hrest := congrArg (fun v : State => { v with restart := s.restart, watch := s.watch }) hback
    by_cases htrial : s.watch.trust = .trial
    · have hacts : u = { ({ s.completed w with restart := { s.restart with trialDeadline := none } }.clearSource sourceTrial) with
          watch := { s.watch with trust := .verified } } := by
        rw [hu]
        exact if_pos htrial
      have hstep := State.clearSource_step { s.completed w with restart := { s.restart with trialDeadline := none } } sourceTrial
      rw [hacts] at halert hrest ⊢
      rw [if_pos htrial]
      exact ⟨⟨_, hstep, halert⟩, rfl, rfl, hrest⟩
    · have hacts : u = { s.completed w with restart := { s.restart with trialDeadline := none } }.clearSource sourceTrial := by
        rw [hu]
        exact if_neg htrial
      have hstep := State.clearSource_step { s.completed w with restart := { s.restart with trialDeadline := none } } sourceTrial
      rw [hacts] at halert hrest ⊢
      rw [if_neg htrial]
      exact ⟨⟨_, hstep, halert⟩, rfl, rfl, hrest⟩
  · rw [hk] at hu
    rw [hcreds]
    have hrest := congrArg (fun v : State => { v with creds := s.creds }) hback
    by_cases hlock : 5 ≤ w.values.failCounts[k] ∧ s.restart.phase = .released
    · have hacts : u = { s.completed w with
          creds :=
            { s.creds with
              lockouts := s.creds.lockouts.set k
                (some (s.time.tick + 30000 * 2 ^ min (w.values.failCounts[k] - 5) 5)) } }.raise sourceLockout := by
        rw [hu]
        exact if_pos hlock
      obtain ⟨hcount, hphase⟩ := hlock
      rw [hacts] at halert hrest ⊢
      exact ⟨fun h => absurd h (by rw [not_or, not_lt, not_not]; exact ⟨hcount, hphase⟩),
        fun _ _ => ⟨rfl, _, State.raise_step _ sourceLockout, halert⟩, hrest⟩
    · have hacts : u = s.completed w := by
        rw [hu]
        exact if_neg hlock
      rw [hacts] at halert hrest ⊢
      exact ⟨fun _ => ⟨rfl, halert⟩, fun hcount hphase => absurd ⟨hcount, hphase⟩ hlock, hrest⟩
  · have hacts : u = { s.completed w with
        creds :=
          { s.creds with
            lockouts := Vector.replicate 32 none
            reservations := ⟨s.creds.reservations.c0.lose, s.creds.reservations.c1.lose⟩ } } := by
      rw [hu, hk]
      rfl
    rw [hcreds]
    rw [hacts] at halert hback ⊢
    exact ⟨halert, rfl, congrArg (fun v : State => { v with creds := s.creds }) hback⟩

end acts

end Sys2Proof.Machine
end

section
/-! # The completion tells every block

The records and the clock at any completion, then the answers of live and of discarded requests (R178, R182, R187). -/

namespace Sys2Proof.Machine

open Sys2Proof

/-! ## What every block leaves alone -/

/-- The records are as before, no write is taken anew, and the real flash and the clock stand. -/
def KeepsRecords (s t : State) : Prop :=
  t.store.working = s.store.working ∧ t.store.nonvolatile = s.store.nonvolatile ∧
    (s.store.taken = none → t.store.taken = none) ∧ t.flash = s.flash ∧ t.time.tick = s.time.tick ∧ t.time.wall = s.time.wall

section keeps

variable {s t : State}

theorem KeepsRecords.refl (s : State) : KeepsRecords s s := ⟨rfl, rfl, id, rfl, rfl, rfl⟩

theorem KeepsRecords.answerWrite (h : KeepsRecords s t) (w : Write) (st : Status) (detail : Nat) (body : List Byte) :
    KeepsRecords s (t.answerWrite w st detail body) := by
  unfold State.answerWrite
  split
  · split
    · exact h
    · exact h
  · exact h

theorem KeepsRecords.dropClaim (h : KeepsRecords s t) (c : Ctx) : KeepsRecords s (t.dropClaim c) := by
  obtain ⟨_, e⟩ := t.dropClaim_touches c
  rw [e]
  exact h

theorem KeepsRecords.dropWriteClaim (h : KeepsRecords s t) (w : Write) : KeepsRecords s (t.dropWriteClaim w) := by
  unfold State.dropWriteClaim
  split
  · exact h.dropClaim _
  · exact h

theorem KeepsRecords.trigger (h : KeepsRecords s t) (cause : Cause) : KeepsRecords s (t.trigger cause) := by
  unfold State.trigger
  split
  · obtain ⟨hworking, hnonvolatile, htaken, hflash, htick, hwall⟩ := h
    obtain ⟨-, -, -, -, -, -, hstore, -, -, -, -, -, -, -, htick', hwall', -, hflash', -⟩ := t.enterHeld_entersHeld cause
    unfold KeepsRecords
    rw [hstore, hflash', htick', hwall']
    exact ⟨hworking, hnonvolatile, fun h => by rw [htaken h]; rfl, hflash, htick, hwall⟩
  · exact h

theorem KeepsRecords.finishReset (h : KeepsRecords s t) (c : Ctx) : KeepsRecords s (t.finishReset c) := by
  obtain ⟨_, _, e⟩ := t.finishReset_touches c
  rw [e]
  exact h

theorem KeepsRecords.startNext (h : KeepsRecords s t) : KeepsRecords s t.startNext := by
  obtain ⟨_, _, e⟩ := t.startNext_touches
  rw [e]
  exact h

theorem KeepsRecords.beginRelease (h : KeepsRecords s t) (trust : Trust) (halt : HaltReason) :
    KeepsRecords s (t.beginRelease trust halt) := by
  obtain ⟨_, e⟩ := (t.completeOutcome trust halt).enqueueJob_touches .restart (.extend 0 t.register0Input)
  unfold State.beginRelease
  rw [e]
  exact h

/-- The boot count lets the waiting stamps be served (R136 to R138). -/
theorem State.serveAllStamps_keeps (s : State) : KeepsRecords s s.serveAllStamps.tryHaltFlash := by
  obtain ⟨htick, hwall, -⟩ := State.serveStamps_hitFrame (s.time.waiting.length + s.watch.waiting.length) s
  have hhalt := s.serveAllStamps.tryHaltFlash_frame
  have hstore : s.serveAllStamps.tryHaltFlash.store = s.serveAllStamps.store := congrArg (·.store) hhalt
  have hflash : s.serveAllStamps.tryHaltFlash.flash = s.serveAllStamps.flash := congrArg (·.flash) hhalt
  have htime : s.serveAllStamps.tryHaltFlash.time = s.serveAllStamps.time := congrArg (·.time) hhalt
  have hserved : s.serveAllStamps.store = s.store ∧ s.serveAllStamps.flash = s.flash := by
    obtain ⟨_, _, _, _, _, _, _, e⟩ := s.serveAllStamps_touches
    rw [e]
    exact ⟨rfl, rfl⟩
  obtain ⟨hstore', hflash'⟩ := hserved
  unfold KeepsRecords
  rw [hstore, hflash, htime, hstore', hflash']
  exact ⟨rfl, rfl, id, rfl, htick, hwall⟩

/-- The restart controller goes on behind a record write (R60, R61). -/
theorem State.recordDone_keeps (s : State) (passed : Bool) : KeepsRecords s (s.recordDone passed) := by
  unfold State.recordDone
  split
  · split
    · unfold State.afterPass
      dsimp only
      split
      · exact KeepsRecords.beginRelease (t := s.setOutcome { s.restart.outcome with fallback := true }) (KeepsRecords.refl s) _ _
      · exact (KeepsRecords.refl s).beginRelease _ _
    · unfold State.afterReject State.noSlot
      split
      · exact KeepsRecords.refl s
      · split
        · exact KeepsRecords.refl s
        · exact (KeepsRecords.refl s).beginRelease _ _
  · exact KeepsRecords.refl s

theorem State.loadDone_keeps (s : State) (w : Write) : KeepsRecords s (s.loadDone w) := by
  have hkeeps := KeepsRecords.refl s
  unfold State.loadDone
  dsimp only
  split
  · exact (KeepsRecords.answerWrite (by exact hkeeps) _ _ _ _).dropWriteClaim w
  · split
    · split
      · split
        · exact hkeeps
        · exact KeepsRecords.dropClaim (by exact hkeeps) _
      · exact hkeeps
    · exact (KeepsRecords.answerWrite (by exact hkeeps) _ _ _ _).dropWriteClaim w

theorem State.openDone_keeps (s : State) (w : Write) (n : Nat) : KeepsRecords s (s.openDone w n) := by
  unfold State.openDone
  split
  · exact KeepsRecords.answerWrite (by exact KeepsRecords.refl s) _ _ _ _
  · exact (KeepsRecords.refl s).answerWrite _ _ _ _

theorem State.confirmDone_keeps (s : State) (w : Write) : KeepsRecords s (s.confirmDone w) := by
  unfold State.confirmDone
  dsimp only
  split
  · exact KeepsRecords.answerWrite (by exact KeepsRecords.refl s) _ _ _ _
  · exact KeepsRecords.answerWrite (by exact KeepsRecords.refl s) _ _ _ _

theorem State.mismatchDone_keeps (s : State) (w : Write) (k : Fin 32) : KeepsRecords s (s.mismatchDone w k) := by
  unfold State.mismatchDone
  dsimp only
  split
  · exact KeepsRecords.answerWrite (by exact KeepsRecords.refl s) _ _ _ _
  · exact (KeepsRecords.refl s).answerWrite _ _ _ _

theorem State.credGroupDone_keeps (s : State) (w : Write) (rs : List (Fin 32 × Option CredContent)) :
    KeepsRecords s (s.credGroupDone w rs) := by
  unfold State.credGroupDone
  dsimp only
  split
  · exact KeepsRecords.refl s
  · exact KeepsRecords.answerWrite (by exact KeepsRecords.refl s) _ _ _ _

/-- No block that is told of a completed write touches the records, the real flash or the clock (R187). -/
theorem State.writeDone_keeps (s : State) (w : Write) : KeepsRecords s (s.writeDone w) := by
  have hkeeps := KeepsRecords.refl s
  unfold State.writeDone
  split
  · exact State.serveAllStamps_keeps { s with time := { s.time with bootCounted := true } }
  · exact hkeeps
  · exact hkeeps
  · exact hkeeps
  · exact s.recordDone_keeps _
  · exact s.recordDone_keeps _
  · exact s.openDone_keeps w _
  · unfold State.commitDone
    dsimp only
    split
    · exact (hkeeps.answerWrite w _ _ _).trigger _
    · exact hkeeps.answerWrite w _ _ _
  · exact hkeeps.answerWrite w _ _ _
  · exact s.confirmDone_keeps w
  · exact s.loadDone_keeps w
  · exact (hkeeps.answerWrite w _ _ _).dropWriteClaim w
  · exact (hkeeps.answerWrite w _ _ _).dropWriteClaim w
  · exact (hkeeps.answerWrite w _ _ _).dropWriteClaim w
  · exact (hkeeps.answerWrite w _ _ _).trigger _
  · exact hkeeps.answerWrite w _ _ _
  · exact s.mismatchDone_keeps w _
  · exact s.credGroupDone_keeps w _
  · exact KeepsRecords.answerWrite (by exact hkeeps) w _ _ _

/-- The state that a completion leaves (R187). -/
def State.writeCompletes (s : State) (w : TakenWrite) : State :=
  ((((s.completed w).writeDone w.write).finishReset .c0).finishReset .c1).startNext

theorem State.writeCompletes_keeps (s : State) (w : TakenWrite) : KeepsRecords (s.completed w) (s.writeCompletes w) :=
  ((((s.completed w).writeDone_keeps w.write).finishReset _).finishReset _).startNext

end keeps

/-! ## The end of a completion -/

section ends

variable {s v : State} {w : TakenWrite}

/-- Where no CONTEXT_RESET waits, the completion ends with what the block was told. -/
theorem State.writeCompletes_eq (hdone : (s.completed w).writeDone w.write = v) (hnone : ∀ d, v.work? d ≠ some .awaitDiscarded)
    (hfed : v.EngineFed) : s.writeCompletes w = v := by
  unfold State.writeCompletes
  rw [hdone, State.finishReset_none (hnone .c0), State.finishReset_none (hnone .c1), State.startNext_fed hfed]

theorem State.enterHeld_fed (h : s.EngineFed) (cause : Cause) : (s.enterHeld cause).EngineFed := by
  obtain ⟨-, -, -, -, -, -, -, hcrypto, -⟩ := s.enterHeld_entersHeld cause
  unfold State.EngineFed
  rw [hcrypto]
  intro hidle
  show List.filter _ s.crypto.queue = []
  rw [h (Option.map_eq_none_iff.1 hidle)]
  rfl

theorem State.enterHeld_work? (s : State) (cause : Cause) (d : Ctx) : (s.enterHeld cause).work? d = none := by
  obtain ⟨-, -, -, -, hrequests, -⟩ := s.enterHeld_entersHeld cause
  unfold State.work? State.ctx
  rw [hrequests]
  cases d <;> rfl

/-- The block's actions and the answer leave the engine alone. -/
theorem State.writeTold_fed (h : s.EngineFed) (w : Write) (c : Ctx) : (s.writeTold w c).EngineFed := by
  have htold : (s.writeTold w c).crypto = (s.writeActs c w.kind).crypto := congrArg (·.crypto) (s.writeTold_touches w c).2
  have hacts : (s.writeActs c w.kind).crypto = s.crypto := congrArg (·.crypto) (s.writeActs_frame c w.kind)
  unfold State.EngineFed
  rw [htold, hacts]
  exact h

end ends

/-! ## A live request -/

section live

variable {s : State} {w : TakenWrite} {c : Ctx} {code tag : Nat} {body : List Byte}

/-- The answer of a live request, and the alert change of its response. -/
theorem State.writeTold_answers (ho : w.write.owner = .ctx c) (hlive : w.write.live = true)
    (h : (s.ctx c).response = .pending tag code) {st : Status} {reply : List Byte}
    (hreply : (s.completed w).writeReply w.write.kind = (st, reply)) :
    ((s.completed w).writeTold w.write c).ctx c = ⟨.idle, [], none, none, none, .ready tag code st 0 reply, .none⟩ ∧
      ((s.completed w).writeTold w.write c).ctx (otherCtx c) = s.ctx (otherCtx c) ∧
      AlertStep s.time.tick 0 (responseSource c) ((s.completed w).writeActs c w.write.kind).alert
        ((s.completed w).writeTold w.write c).alert := by
  have hacts := (s.completed w).writeActs_frame c w.write.kind
  have hrequests : ((s.completed w).writeActs c w.write.kind).requests = s.requests := congrArg (·.requests) hacts
  have htime : ((s.completed w).writeActs c w.write.kind).time = s.time := congrArg (·.time) hacts
  have hpending : (((s.completed w).writeActs c w.write.kind).ctx c).response = .pending tag code := by
    rw [show ((s.completed w).writeActs c w.write.kind).ctx c = s.ctx c from congrArg (fun r : Requests => r.ctx.get c) hrequests]
    exact h
  obtain ⟨hctx, -, -⟩ := (s.completed w).writeTold_requests w.write c
  obtain ⟨halert, -⟩ := (s.completed w).writeTold_touches w.write c
  rw [hreply, State.answerWrite_live ho hlive] at hctx halert
  obtain ⟨⟨hready, hother, -, -⟩, -, -⟩ :=
    ((s.completed w).writeActs c w.write.kind).answer_only hpending st 0 reply
  refine ⟨?_, ?_, ?_⟩
  · exact (congrArg (fun p : PerCtx Context => p.get c) hctx).trans hready
  · exact ((congrArg (fun p : PerCtx Context => p.get (otherCtx c)) hctx).trans hother).trans
      (congrArg (fun r : Requests => r.ctx.get (otherCtx c)) hrequests)
  · rw [halert, ← htime]
    exact State.raise_step (((s.completed w).writeActs c w.write.kind).setCtx c _) (responseSource c)

end live

end Sys2Proof.Machine
end

section
/-! # The completed write of a request

What a completion comes to for a live request and for a discarded one, kind by kind. -/

namespace Sys2Proof.Machine

open Sys2Proof

/-! ## A live request -/

/-- The answer of a completed write whose live request is answered at once. -/
def RepliesWith (s : State) (w : TakenWrite) (st : Status) (reply : List Byte) : Prop :=
  (w.write.kind = .clearPending ∨ (∃ k, w.write.kind = .resetFails k) ∨ (∃ m u, w.write.kind = .commit m u false) ∨
        (∃ b, w.write.kind = .certificate b) ∨ (∃ k b, w.write.kind = .injectKey k b) ∨ w.write.kind = .confirm ∨
        (∃ u, w.write.kind = .loadTable u) ∧ (s.restart.phase ≠ .released ∨ s.storage.forward = none)) ∧
      st = .ok ∧ reply = [] ∨
    (∃ key secret, w.write.kind = .identity key secret ∧ st = .ok ∧ reply = be 64 key.pub.toNat) ∨
    (∃ n, w.write.kind = .openSession n ∧ s.intake.session.claim ≠ some n ∧ st = .sessionState ∧ reply = []) ∨
    (∃ rs, w.write.kind = .credGroup rs ∧ st = .ok ∧
      reply = rs.flatMap fun r => le 4 w.values.creds[r.1].version) ∨
    (∃ k v, w.write.kind = .mismatch k v ∧ st = .mismatch ∧ reply = [BitVec.ofNat 8 w.values.failCounts[k]]) ∨
    w.write.kind = .wipe ∧ st = .ok ∧ reply = le 4 w.values.ownerEpoch.toNat

theorem State.settles_openSession (s : State) (n : Nat) :
    s.settles (.openSession n) = decide (s.intake.session.claim ≠ some n) := rfl

theorem State.settles_commit (s : State) (m : VerifiedManifest) (u : Option Table) (restart : Bool) :
    s.settles (.commit m u restart) = !restart := rfl

/-- Such a write settles, and the answer is the block's. -/
theorem RepliesWith.reply {s : State} {w : TakenWrite} {st : Status} {reply : List Byte} (h : RepliesWith s w st reply) :
    (s.completed w).settles w.write.kind = true ∧ (s.completed w).writeReply w.write.kind = (st, reply) ∧
      ((∃ u, w.write.kind = .loadTable u) → (s.completed w).restart.phase ≠ .released ∨ (s.completed w).forwarding = false) := by
  rcases h with ⟨hk | ⟨_, hk⟩ | ⟨_, _, hk⟩ | ⟨_, hk⟩ | ⟨_, _, hk⟩ | hk | ⟨⟨u, hk⟩, hnow⟩, rfl, rfl⟩ | ⟨_, _, hk, rfl, rfl⟩ |
    ⟨n, hk, hclaim, rfl, rfl⟩ | ⟨rs, hk, rfl, rfl⟩ | ⟨_, _, hk, rfl, rfl⟩ | ⟨hk, rfl, rfl⟩
  case inl.inr.inr.inr.inr.inr.inr =>
    refine ⟨by rw [hk]; rfl, by rw [hk]; rfl, fun _ => hnow.imp_right fun hf => ?_⟩
    show s.storage.forward.isSome = false
    rw [hf]
    rfl
  case inr.inr.inl =>
    refine ⟨?_, by rw [hk]; rfl, by rw [hk]; nofun⟩
    rw [hk, State.settles_openSession]
    exact decide_eq_true hclaim
  case inr.inr.inr.inl =>
    refine ⟨by rw [hk]; rfl, ?_, by rw [hk]; nofun⟩
    rw [hk]
    exact congrArg (Prod.mk Status.ok) (List.flatMap_map _ _ rs)
  all_goals exact ⟨by rw [hk]; rfl, by rw [hk]; rfl, by rw [hk]; nofun⟩

section live

variable {s : State} {w : TakenWrite} {c : Ctx} {code tag : Nat} {body : List Byte}

theorem State.work?_none {s : State} {c : Ctx} (h : (s.ctx c).request = none) : s.work? c = none := by
  unfold State.work?
  rw [h]
  rfl

theorem State.work?_congr {s t : State} {c : Ctx} (h : t.ctx c = s.ctx c) : t.work? c = s.work? c := by
  unfold State.work?
  rw [h]

/-- The completion ends with what the block was told, where this context waits for no discarded write and the other one is as before. -/
theorem State.writeCompletes_ends {v : State} (hdone : (s.completed w).writeDone w.write = v)
    (hc : v.work? c ≠ some .awaitDiscarded) (hsame : v.ctx (otherCtx c) = s.ctx (otherCtx c))
    (hother : s.work? (otherCtx c) ≠ some .awaitDiscarded) (hfed : v.EngineFed) : s.writeCompletes w = v := by
  have hc' : v.work? (otherCtx c) ≠ some .awaitDiscarded := by rwa [State.work?_congr hsame]
  refine State.writeCompletes_eq hdone (fun d => ?_) hfed
  cases c <;> cases d <;> assumption

/-- A live request is answered in the step in which its write stands. -/
theorem State.writeCompletes_answers (hfed : s.EngineFed) (ho : w.write.owner = .ctx c) (hlive : w.write.live = true)
    (h : (s.ctx c).response = .pending tag code) (hother : s.work? (otherCtx c) ≠ some .awaitDiscarded) {st : Status}
    {reply : List Byte} (hreply : RepliesWith s w st reply) :
    (s.writeCompletes w).ctx c = ⟨.idle, [], none, none, none, .ready tag code st 0 reply, .none⟩ ∧
      (s.writeCompletes w).ctx (otherCtx c) = s.ctx (otherCtx c) ∧ ClaimAfter s (s.writeCompletes w) w c ∧
      WriteActs s (s.writeCompletes w) w c [(0, responseSource c)] := by
  obtain ⟨hsettles, hanswer, hnow⟩ := hreply.reply
  obtain ⟨hctx, hsame, hstep⟩ := State.writeTold_answers ho hlive h hanswer
  obtain ⟨-, hqueue, hclaim⟩ := (s.completed w).writeTold_requests w.write c
  have hdone : s.writeCompletes w = (s.completed w).writeTold w.write c := by
    refine State.writeCompletes_ends (State.writeDone_settles ho hsettles fun hk => Or.inr (hnow hk)) ?_ hsame hother
      (State.writeTold_fed (s := s.completed w) hfed w.write c)
    rw [State.work?_none (congrArg (·.request) hctx)]
    nofun
  rw [hdone]
  refine ⟨hctx, hsame, ClaimAfter.of hqueue hclaim, State.writeActs_acts rfl ?_ ⟨_, hstep, rfl⟩⟩
  exact congrArg (fun v : State => { v with store := ((s.completed w).writeActs c w.write.kind).store })
    ((s.completed w).writeTold_touches w.write c).2

/-- A loaded table waits for a host forward, and its live request with it (R8). -/
theorem Executing.loadWaits (h : Executing s c code tag body .awaitWrite) (hfed : s.EngineFed) (ho : w.write.owner = .ctx c)
    (hlive : w.write.live = true) (hother : s.work? (otherCtx c) ≠ some .awaitDiscarded) {u : Table}
    (hk : w.write.kind = .loadTable u) (hphase : s.restart.phase = .released) (hforward : s.storage.forward ≠ none) :
    GoesOn s (s.writeCompletes w) c code tag body .awaitForce ∧ (s.writeCompletes w).requests.claim = s.requests.claim ∧
      (s.writeCompletes w).requests.claimQueue = s.requests.claimQueue ∧ WriteActs s (s.writeCompletes w) w c [] := by
  have hwaits : (s.completed w).forwarding = true := Option.isSome_iff_ne_none.2 hforward
  have hnot : ¬ (s.completed w).restart.phase ≠ .released := not_not.2 hphase
  have hload : (s.completed w).writeDone w.write =
      State.setWork { s.completed w with xlat := { s.xlat with loadWaits := true } } c .awaitForce := by
    unfold State.writeDone
    rw [hk]
    unfold State.loadDone
    rw [if_neg hnot, if_pos hwaits, Write.ctx?_of ho]
    exact if_pos hlive
  obtain ⟨hctx, hsame⟩ := Executing.setWork_goesOn
    (s := { s.completed w with xlat := { s.xlat with loadWaits := true } }) h .awaitForce
  have hdone : s.writeCompletes w =
      State.setWork { s.completed w with xlat := { s.xlat with loadWaits := true } } c .awaitForce := by
    refine State.writeCompletes_ends hload ?_ hsame hother hfed
    unfold State.work?
    rw [hctx]
    nofun
  have hacts : { s.completed w with xlat := { s.xlat with loadWaits := true } } =
      (s.completed w).writeActs c w.write.kind := by
    rw [hk, State.writeActs, if_neg hnot, if_pos hwaits]
    rfl
  rw [hdone]
  exact ⟨⟨hctx, hsame⟩, rfl, rfl, State.writeActs_acts hacts rfl rfl⟩

/-- A commit with its flag, and the advance to FIELD: the answer, and in RELEASED the entry into HELD behind it (R105, R127). -/
theorem Executing.restarts (h : Executing s c code tag body .awaitWrite) (hfed : s.EngineFed) (ho : w.write.owner = .ctx c)
    (hlive : w.write.live = true) (hother : s.work? (otherCtx c) ≠ some .awaitDiscarded) {cause : Cause}
    (hk : w.write.kind.restarts cause) :
    (s.restart.phase = .released →
      (∃ a, AlertStep s.time.tick 0 (responseSource c) s.alert a ∧
        EntersHeld { s with store := ⟨w.values, w.values, s.store.queue, none⟩, alert := a } (s.writeCompletes w) cause) ∧
      (s.writeCompletes w).pins = s.pins) ∧
    (s.restart.phase ≠ .released →
      OnlyAnswers { s with store := (s.writeCompletes w).store } (s.writeCompletes w) c code tag .ok 0 []) := by
  obtain ⟨hdone, htold⟩ := State.writeDone_restarts (s := s.completed w) (c := c) hk
  rw [htold, State.answerWrite_live ho hlive] at hdone
  refine ⟨fun hphase => ?_, fun hphase => ?_⟩
  · have henter : s.writeCompletes w = ((s.completed w).answer c .ok 0 []).enterHeld cause :=
      State.writeCompletes_eq (hdone.trans (if_pos hphase)) (fun d => by rw [State.enterHeld_work?]; nofun)
        (State.enterHeld_fed (s := (s.completed w).answer c .ok 0 []) hfed cause)
    rw [henter]
    exact ⟨⟨_, State.raise_step ((s.completed w).setCtx c _) (responseSource c),
      ((s.completed w).answer c .ok 0 []).enterHeld_entersHeld cause⟩, State.enterHeld_pins _ cause⟩
  · have hanswers := (s.completed w).answer_only h.2.2 .ok 0 []
    have hends : s.writeCompletes w = (s.completed w).answer c .ok 0 [] := by
      refine State.writeCompletes_ends (hdone.trans (if_neg hphase)) ?_ hanswers.1.2.1 hother hfed
      rw [State.work?_none (congrArg (·.request) hanswers.1.1)]
      nofun
    rw [hends]
    exact hanswers

/-- The session that a completed UPDATE_OPEN begins (R89). -/
def State.opened (s : State) (c : Ctx) : State :=
  { s with
    intake :=
      { s.intake with
        session := { Session.resting with state := .receiving, owner := some c, deadline := some (s.time.tick + 60000) }
        tracker := List.replicate (s.slotSize / 0x1000) .stale
        buffer := []
        absorbed := []
        streamJob := false
        work := .none } }

/-- An UPDATE_OPEN whose claim still stands begins its session (R89; log entry 42). -/
theorem Executing.opens (h : Executing s c code tag body .awaitWrite) (hfed : s.EngineFed) (ho : w.write.owner = .ctx c)
    (hlive : w.write.live = true) (hother : s.work? (otherCtx c) ≠ some .awaitDiscarded) {n : Nat}
    (hk : w.write.kind = .openSession n) (hclaim : s.intake.session.claim = some n) :
    Answers s (s.writeCompletes w) c code tag .ok 0 [] ∧ AlertChange s (s.writeCompletes w) 0 (responseSource c) ∧
      (s.writeCompletes w).intake.session =
        { Session.resting with state := .receiving, owner := some c, deadline := some (s.time.tick + 60000) } ∧
      (s.writeCompletes w).intake.tracker.all (· = .stale) = true ∧ (s.writeCompletes w).intake.buffer = [] ∧
      { s.writeCompletes w with requests := s.requests, alert := s.alert, store := s.store, intake := s.intake } = s := by
  have hopen : (s.completed w).writeDone w.write = ((s.completed w).opened c).answer c .ok 0 [] := by
    have hdone : (s.completed w).writeDone w.write = (s.completed w).openDone w.write n := by
      unfold State.writeDone
      rw [hk]
    rw [hdone]
    unfold State.openDone
    rw [if_pos (show (s.completed w).intake.session.claim = some n from hclaim), Write.ctx?_of ho]
    exact State.answerWrite_live ho hlive _ _ _
  obtain ⟨⟨hctx, hsame, hclaimed⟩, hchange, -⟩ := ((s.completed w).opened c).answer_only h.2.2 .ok 0 []
  have hends : s.writeCompletes w = ((s.completed w).opened c).answer c .ok 0 [] := by
    refine State.writeCompletes_ends hopen ?_ hsame hother hfed
    rw [State.work?_none (congrArg (·.request) hctx)]
    nofun
  rw [hends]
  refine ⟨⟨hctx, hsame, hclaimed⟩, hchange, rfl, List.all_eq_true.2 fun x hx => ?_, rfl, rfl⟩
  exact decide_eq_true (List.eq_of_mem_replicate hx)

end live

/-! ## A discarded request -/

section discarded

variable {s v : State} {w : TakenWrite} {c : Ctx} {tag : Nat} {answered : Bool}

/-- What becomes of a CONTEXT_RESET that waits, or does not, behind a discarded write (R182; log entry 49). -/
theorem State.writeCompletes_resets (hdone : (s.completed w).writeDone w.write = v) (hfed : v.EngineFed)
    (hctx : v.requests.ctx = s.requests.ctx) (hstore : v.store = (s.completed w).store)
    (hother : s.work? (otherCtx c) ≠ some .awaitDiscarded)
    (hreset : answered = true →
      Executing s c 0x02 tag [] .awaitDiscarded ∧ ∀ x ∈ s.store.queue, x.owner = .ctx c → x.live = true)
    (hnone : answered = false → s.work? c ≠ some .awaitDiscarded ∨ ∃ x ∈ s.store.queue, x.owner = .ctx c ∧ x.live = false) :
    (s.writeCompletes w).ctx c =
        (if answered then ⟨.idle, [], none, none, none, .ready tag 0x02 .ok 0 [], .none⟩ else s.ctx c) ∧
      (s.writeCompletes w).ctx (otherCtx c) = s.ctx (otherCtx c) ∧
      (s.writeCompletes w).requests.claim = v.requests.claim ∧
      (s.writeCompletes w).requests.claimQueue = v.requests.claimQueue ∧
      AlertSteps v.time.tick (if answered then [(0, responseSource c)] else []) v.alert (s.writeCompletes w).alert ∧
      { s.writeCompletes w with requests := v.requests, alert := v.alert } = v := by
  have hsame : ∀ d, v.ctx d = s.ctx d := fun d => congrArg (fun p : PerCtx Context => p.get d) hctx
  have hone : s.writeCompletes w = (v.finishReset c).startNext := by
    unfold State.writeCompletes
    rw [hdone, State.finishResets_one]
    rwa [State.work?_congr (hsame _)]
  have hdiscarded : v.discardedWrite c = s.store.queue.any fun x => x.owner = .ctx c && !x.live := by
    unfold State.discardedWrite
    rw [hstore]
    exact Bool.or_false _
  cases answered with
  | true =>
    obtain ⟨hexec, hlive⟩ := hreset rfl
    have hlast : v.discardedWrite c = false := by
      rw [hdiscarded, List.any_eq_false]
      intro x hx
      by_cases howner : x.owner = .ctx c
      · simp [hlive x hx howner]
      · simp [howner]
    have hpending : (v.ctx c).response = .pending tag 0x02 := by
      rw [hsame]
      exact hexec.2.2
    obtain ⟨⟨hready, hkept, hclaim, hqueue⟩, -, hframe⟩ := v.answer_only hpending .ok 0 []
    rw [hone, State.finishReset_answers ((State.work?_congr (hsame c)).trans hexec.work?) hlast,
      State.startNext_fed (s := v.answerOk c []) hfed]
    exact ⟨hready, hkept.trans (hsame _), hclaim, hqueue,
      ⟨_, State.raise_step (v.setCtx c _) (responseSource c), rfl⟩, hframe⟩
  | false =>
    have hstays : v.finishReset c = v := by
      rcases hnone rfl with hwork | ⟨x, hx, howner, hdead⟩
      · exact State.finishReset_none (by rwa [State.work?_congr (hsame c)])
      · refine State.finishReset_waits ?_
        rw [hdiscarded, List.any_eq_true]
        exact ⟨x, hx, by simp [howner, hdead]⟩
    rw [hone, hstays, State.startNext_fed hfed]
    exact ⟨hsame c, hsame _, rfl, rfl, rfl, rfl⟩

end discarded

/-! ## The statement -/

/-- Of the writes of requests, those settle that neither trigger a restart nor open a session. -/
theorem State.settles_of {s : State} {k : WriteKind}
    (hk : k ≠ .bootCount ∧ k.selects = false ∧ k.records = false) (hrestarts : ∀ cause, ¬ k.restarts cause)
    (hopen : ∀ n, k = .openSession n → s.intake.session.claim ≠ some n) : s.settles k = true := by
  obtain ⟨hboot, hselects, hrecords⟩ := hk
  cases k with
  | openSession n => exact decide_eq_true (hopen n rfl)
  | commit m u restart =>
    cases restart with
    | false => rfl
    | true => exact absurd (Or.inl ⟨⟨m, u, rfl⟩, rfl⟩) (hrestarts .commitRestart)
  | advance strict => exact absurd (Or.inr ⟨⟨strict, rfl⟩, rfl⟩) (hrestarts .lifecycleChange)
  | bootCount => exact absurd rfl hboot
  | applyCommit | countAttempt | revert => exact absurd hselects Bool.noConfusion
  | slotPass | slotReject => exact absurd hrecords Bool.noConfusion
  | clearPending | confirm | loadTable | identity | certificate | injectKey | resetFails | mismatch | credGroup | wipe => rfl

section dead

variable {s : State} {w : TakenWrite} {c : Ctx} {tag : Nat} {answered : Bool}

/-- The write of a discarded request acts and answers nothing of its own (R178). -/
theorem State.writeTold_dead (hlive : w.write.live = false) :
    ((s.completed w).writeTold w.write c).requests.ctx = s.requests.ctx ∧
      ((s.completed w).writeTold w.write c).alert = ((s.completed w).writeActs c w.write.kind).alert ∧
      ((s.completed w).writeTold w.write c).store = (s.completed w).store := by
  have hacts := (s.completed w).writeActs_frame c w.write.kind
  obtain ⟨hctx, -, -⟩ := (s.completed w).writeTold_requests w.write c
  obtain ⟨halert, hframe⟩ := (s.completed w).writeTold_touches w.write c
  rw [State.answerWrite_dead hlive] at hctx halert
  exact ⟨hctx.trans (congrArg (·.requests.ctx) hacts), halert, (congrArg (·.store) hframe).trans (congrArg (·.store) hacts)⟩

/-- A discarded request's write acts as a live one's, with the waiting CONTEXT_RESET answered at the last such write (R178, R182). -/
theorem State.writeCompletes_dead (hfed : s.EngineFed) (ho : w.write.owner = .ctx c) (hlive : w.write.live = false)
    (hsettles : (s.completed w).settles w.write.kind = true) (hother : s.work? (otherCtx c) ≠ some .awaitDiscarded)
    (hreset : answered = true →
      Executing s c 0x02 tag [] .awaitDiscarded ∧ ∀ x ∈ s.store.queue, x.owner = .ctx c → x.live = true)
    (hnone : answered = false → s.work? c ≠ some .awaitDiscarded ∨ ∃ x ∈ s.store.queue, x.owner = .ctx c ∧ x.live = false) :
    (s.writeCompletes w).ctx c =
        (if answered then ⟨.idle, [], none, none, none, .ready tag 0x02 .ok 0 [], .none⟩ else s.ctx c) ∧
      (s.writeCompletes w).ctx (otherCtx c) = s.ctx (otherCtx c) ∧ ClaimAfter s (s.writeCompletes w) w c ∧
      WriteActs s (s.writeCompletes w) w c (if answered then [(0, responseSource c)] else []) := by
  obtain ⟨hctx, halert, hstore⟩ := State.writeTold_dead (s := s) (c := c) hlive
  obtain ⟨-, hqueue, hclaim⟩ := (s.completed w).writeTold_requests w.write c
  obtain ⟨-, hframe⟩ := (s.completed w).writeTold_touches w.write c
  have htime : ((s.completed w).writeTold w.write c).time = s.time :=
    (congrArg (·.time) hframe).trans (congrArg (·.time) ((s.completed w).writeActs_frame c w.write.kind))
  obtain ⟨hready, hsame, hclaim', hqueue', hsteps, hkept⟩ := State.writeCompletes_resets
    (State.writeDone_settles ho hsettles fun _ => Or.inl hlive) (State.writeTold_fed (s := s.completed w) hfed w.write c) hctx
    hstore hother hreset hnone
  rw [htime, halert] at hsteps
  refine ⟨hready, hsame, ClaimAfter.of (hqueue'.trans hqueue) (hclaim'.trans hclaim), State.writeActs_acts rfl ?_ hsteps⟩
  have hall := congrArg (fun v : State => { v with
    requests := ((s.completed w).writeActs c w.write.kind).requests
    alert := ((s.completed w).writeActs c w.write.kind).alert }) hkept
  exact congrArg (fun v : State => { v with store := ((s.completed w).writeActs c w.write.kind).store }) (hall.trans hframe)

/-- A discarded request's write that triggers a restart does so without an answer (R105, R127, R178; log entry 28). -/
theorem State.writeCompletes_dead_restarts (hfed : s.EngineFed) (hlive : w.write.live = false)
    {cause : Cause} (hk : w.write.kind.restarts cause) (hother : s.work? (otherCtx c) ≠ some .awaitDiscarded)
    (hreset : answered = true →
      Executing s c 0x02 tag [] .awaitDiscarded ∧ ∀ x ∈ s.store.queue, x.owner = .ctx c → x.live = true)
    (hnone : answered = false → s.work? c ≠ some .awaitDiscarded ∨ ∃ x ∈ s.store.queue, x.owner = .ctx c ∧ x.live = false) :
    (s.restart.phase = .released →
      EntersHeld { s with store := ⟨w.values, w.values, s.store.queue, none⟩ } (s.writeCompletes w) cause ∧
        (s.writeCompletes w).pins = s.pins) ∧
    (s.restart.phase ≠ .released →
      (s.writeCompletes w).ctx c =
          (if answered then ⟨.idle, [], none, none, none, .ready tag 0x02 .ok 0 [], .none⟩ else s.ctx c) ∧
        (s.writeCompletes w).ctx (otherCtx c) = s.ctx (otherCtx c) ∧ ClaimAfter s (s.writeCompletes w) w c ∧
        AlertSteps s.time.tick (if answered then [(0, responseSource c)] else []) s.alert (s.writeCompletes w).alert ∧
        { s.writeCompletes w with requests := s.requests, alert := s.alert, store := s.store } = s) := by
  obtain ⟨hdone, htold⟩ := State.writeDone_restarts (s := s.completed w) (c := c) hk
  obtain ⟨-, -, hclaim⟩ := (s.completed w).writeTold_requests w.write c
  rw [htold, State.answerWrite_dead hlive] at hdone hclaim
  refine ⟨fun hphase => ?_, fun hphase => ?_⟩
  · have henter : s.writeCompletes w = (s.completed w).enterHeld cause :=
      State.writeCompletes_eq (hdone.trans (if_pos hphase)) (fun d => by rw [State.enterHeld_work?]; nofun)
        (State.enterHeld_fed (s := s.completed w) hfed cause)
    rw [henter]
    exact ⟨(s.completed w).enterHeld_entersHeld cause, (s.completed w).enterHeld_pins cause⟩
  · obtain ⟨hready, hsame, hclaim', hqueue', hsteps, hkept⟩ := State.writeCompletes_resets
      (hdone.trans (if_neg hphase)) hfed rfl rfl hother hreset hnone
    exact ⟨hready, hsame, ClaimAfter.of hqueue' (hclaim'.trans hclaim), hsteps,
      congrArg (fun v : State => { v with store := s.store }) hkept⟩

end dead

/-- Settles O50: the records at every completion, the completion of a live request's write, and that of a discarded one's. -/
theorem completedWritesTellTheirBlock : Obligations.CompletedWritesTellTheirBlock := by
  refine ⟨fun s w hrun htaken => ?_, fun s w c code tag body hfed htaken ho hlive h hwaits => ?_,
    fun s w c answered tag hrun hfed htaken ho hlive hk hwaits hreset hnone => ?_⟩
  · obtain ⟨hworking, hnonvolatile, hnext, hflash, htick, hwall⟩ := s.writeCompletes_keeps w
    exact ⟨_, execRetainedWriteComplete_taken hrun htaken, hworking, hnonvolatile, hnext rfl, hflash, htick, hwall⟩
  · have hother : s.work? (otherCtx c) ≠ some .awaitDiscarded := State.work?_of_not hwaits
    refine ⟨s.writeCompletes w, execRetainedWriteComplete_taken h.1 htaken,
      fun st reply hreply => State.writeCompletes_answers hfed ho hlive h.2.2 hother hreply, ?_,
      fun cause hcause => h.restarts hfed ho hlive hother hcause, fun n hn hclaim => h.opens hfed ho hlive hother hn hclaim⟩
    rintro ⟨u, hu⟩ hphase hforward
    exact h.loadWaits hfed ho hlive hother hu hphase hforward
  · have hother : s.work? (otherCtx c) ≠ some .awaitDiscarded := State.work?_of_not hwaits
    have hquiet : answered = false →
        s.work? c ≠ some .awaitDiscarded ∨ ∃ x ∈ s.store.queue, x.owner = .ctx c ∧ x.live = false :=
      fun hfalse => (hnone hfalse).imp_left State.work?_of_not
    exact ⟨s.writeCompletes w, execRetainedWriteComplete_taken hrun htaken,
      fun hrestarts hopen =>
        State.writeCompletes_dead hfed ho hlive (State.settles_of (s := s.completed w) hk hrestarts hopen) hother hreset hquiet,
      fun cause hcause => State.writeCompletes_dead_restarts hfed hlive hcause hother hreset hquiet⟩

end Sys2Proof.Machine
end

section
/-! # What changes the real flash

Every operation of the model but the start of a forward leaves the real flash as it was, and the start of one leaves its contents
(R36, R40). From these rules `exec_flash`: the contents are as before, or a busy period has ended, or the supply has. -/

namespace Sys2Proof.Machine

open Sys2Proof

section flash

variable (s : State)

/-- Two ways of going on that both leave the real flash alone. -/
theorem State.ite_flash {f : Flash} {p : Prop} [Decidable p] {a b : State} (ha : a.flash = f) (hb : b.flash = f) :
    (if p then a else b).flash = f := by
  split
  · exact ha
  · exact hb

/-! ## The engine, the hits and the stamps -/

@[simp] theorem State.enqueueJob_flash (r : Requester) (k : JobKind) : (s.enqueueJob r k).flash = s.flash :=
  congrArg (·.flash) (s.enqueueJob_frame r k)

@[simp] theorem State.startNext_flash : s.startNext.flash = s.flash := congrArg (·.flash) s.startNext_frame

@[simp] theorem State.serveAllStamps_flash : s.serveAllStamps.flash = s.flash := by
  obtain ⟨_, _, _, _, _, _, _, e⟩ := s.serveAllStamps_touches
  rw [e]

@[simp] theorem State.askQuoteStamp_flash (c : Ctx) : (s.askQuoteStamp c).flash = s.flash := by
  obtain ⟨_, _, _, _, e⟩ := s.askQuoteStamp_touches c
  rw [e]

/-! ## The update intake -/

@[simp] theorem State.failSession_flash (reason : FailReason) (detail : Nat) :
    (s.failSession reason detail).flash = s.flash := by
  obtain ⟨_, _, _, _, e⟩ := s.failSession_touches reason detail
  rw [e]

@[simp] theorem State.restSession_flash : s.restSession.flash = s.flash := by
  obtain ⟨_, _, _, e⟩ := s.restSession_touches
  rw [e]

@[simp] theorem State.kickStream_flash : s.kickStream.flash = s.flash := by
  obtain ⟨_, _, e⟩ := s.kickStream_touches
  rw [e]

@[simp] theorem State.pipeRead_flash (u : JobUser) (base : Nat) (p : Pipe) : (s.pipeRead u base p).1.flash = s.flash := by
  unfold State.pipeRead
  split <;> rfl

@[simp] theorem State.pipeDigest_flash (r : Requester) (u : JobUser) (base : Nat) (p : Pipe) (block : List Byte) :
    (s.pipeDigest r u base p block).1.flash = s.flash := by
  unfold State.pipeDigest
  simp only [State.pipeRead_flash, State.enqueueJob_flash]

@[simp] theorem State.pipeBlock_flash (r : Requester) (u : JobUser) (base : Nat) (p : Pipe) (block : List Byte) :
    (s.pipeBlock r u base p block).1.flash = s.flash := by
  unfold State.pipeBlock
  split
  · rfl
  · exact s.pipeDigest_flash r u base p block

@[simp] theorem State.pipeAbsorbed_flash (r : Requester) (u : JobUser) (base : Nat) (p : Pipe) (bytes : List Byte) :
    (s.pipeAbsorbed r u base p bytes).1.flash = s.flash := by
  unfold State.pipeAbsorbed
  dsimp only
  split
  · exact s.pipeDigest_flash r u base _ _
  · rfl

theorem State.checkManifest_flash (block : List Byte) (md : Digest) : (s.checkManifest block md).flash = s.flash := by
  unfold State.checkManifest
  split
  · exact s.failSession_flash _ _
  · split
    · exact s.failSession_flash _ _
    · exact s.enqueueJob_flash _ _

theorem State.choosePath_flash (m : Manifest) (md : Digest) : (s.choosePath m md).flash = s.flash := by
  unfold State.choosePath
  exact State.ite_flash (State.enqueueJob_flash _ _ _) (State.pipeRead_flash _ _ _ _)

theorem State.checkSignature_flash (m : Manifest) (md : Digest) (ok : Bool) : (s.checkSignature m md ok).flash = s.flash := by
  unfold State.checkSignature
  refine State.ite_flash (s.failSession_flash _ _) ?_
  split
  · exact s.failSession_flash _ _
  · exact s.choosePath_flash m md

theorem State.checkImage_flash (m : Manifest) (md d : Digest) : (s.checkImage m md d).flash = s.flash :=
  State.ite_flash (s.failSession_flash _ _) (State.ite_flash (s.failSession_flash _ _) rfl)

@[simp] theorem State.tryManifestDigest_flash : s.tryManifestDigest.flash = s.flash := by
  unfold State.tryManifestDigest
  split
  · exact State.ite_flash (s.enqueueJob_flash _ _) rfl
  · rfl

theorem State.intakeBlock_flash (block : List Byte) : (s.intakeBlock block).flash = s.flash := by
  unfold State.intakeBlock
  split
  · exact State.tryManifestDigest_flash _
  · exact s.pipeBlock_flash _ _ _ _ _
  · rfl

theorem State.intakeJob_flash (result : JobResult) : (s.intakeJob result).flash = s.flash := by
  unfold State.intakeJob
  split
  · split
    · exact (State.tryManifestDigest_flash _).trans (State.kickStream_flash _)
    · rfl
  · split
    · exact s.checkManifest_flash _ _
    · exact s.checkSignature_flash _ _ _
    · exact s.checkImage_flash _ _ _
    · exact (s.setProgress _).pipeAbsorbed_flash _ _ _ _ _
    · exact (s.setProgress _).checkImage_flash _ _ _
    · rfl

/-! ## The restart controller -/

@[simp] theorem State.enterHeld_flash (cause : Cause) : (s.enterHeld cause).flash = s.flash := by
  obtain ⟨-, -, -, -, -, -, -, -, -, -, -, -, -, -, -, -, -, h, -⟩ := s.enterHeld_entersHeld cause
  exact h

theorem State.trigger_flash (cause : Cause) : (s.trigger cause).flash = s.flash := State.ite_flash (s.enterHeld_flash cause) rfl

@[simp] theorem State.beginRelease_flash (trust : Trust) (halt : HaltReason) : (s.beginRelease trust halt).flash = s.flash :=
  (s.completeOutcome trust halt).enqueueJob_flash _ _

theorem State.rejectSlot_flash (v : Verify) (md : Digest) (reason : SlotResult) :
    (s.rejectSlot v md reason).flash = s.flash := by
  obtain ⟨_, e⟩ := s.cancelRead_touches .restart
  unfold State.rejectSlot
  rw [e]
  rfl

theorem State.verifyManifest_flash (v : Verify) (block : List Byte) (md : Digest) :
    (s.verifyManifest v block md).flash = s.flash := by
  unfold State.verifyManifest
  split
  · exact s.rejectSlot_flash _ _ _
  · split
    · exact s.rejectSlot_flash _ _ _
    · dsimp only
      refine (State.enqueueJob_flash _ _ _).trans ?_
      split
      · exact s.pipeRead_flash _ _ _
      · rfl

theorem State.verifySignature_flash (v : Verify) (m : Manifest) (md : Digest) (p : Pipe) (ok : Bool) :
    (s.verifySignature v m md p ok).flash = s.flash := by
  unfold State.verifySignature
  refine State.ite_flash (s.rejectSlot_flash _ _ _) (State.ite_flash (s.rejectSlot_flash _ _ _) ?_)
  split
  · exact s.pipeDigest_flash _ _ _ _ _
  · rfl

theorem State.restartBlock_flash (block : List Byte) : (s.restartBlock block).flash = s.flash := by
  unfold State.restartBlock
  split
  · exact s.enqueueJob_flash _ _
  · rfl
  · exact s.pipeBlock_flash _ _ _ _ _
  · rfl

theorem State.restartJob_flash (result : JobResult) : (s.restartJob result).flash = s.flash := by
  unfold State.restartJob
  split
  · exact s.verifyManifest_flash _ _ _
  · exact s.verifySignature_flash _ _ _ _ _
  · exact s.pipeAbsorbed_flash _ _ _ _ _
  · exact State.ite_flash (s.rejectSlot_flash _ _ _) (State.ite_flash (s.rejectSlot_flash _ _ _) rfl)
  · exact congrArg (·.flash) (s.releaseJob_frame _ _ _)
  · rfl

theorem State.selectSlot_flash : s.selectSlot.flash = s.flash :=
  State.ite_flash rfl (State.ite_flash (State.ite_flash rfl rfl) rfl)

theorem State.reconcileSession_flash : s.reconcileSession.flash = s.flash :=
  State.ite_flash (State.ite_flash rfl rfl) rfl

/-! ## The retained store and the credential store -/

theorem State.compareCheck_flash (c : Ctx) (slot : Fin 32) : (s.compareCheck c slot).1.flash = s.flash := by
  unfold State.compareCheck
  split
  · rfl
  · split <;> rfl

theorem State.submitCompare_flash (c : Ctx) (slot : Fin 32) : (s.submitCompare c slot).flash = s.flash :=
  s.enqueueJob_flash _ _

theorem State.tryCompare_flash (c : Ctx) (slot : Fin 32) : (s.tryCompare c slot).flash = s.flash :=
  State.ite_flash ((State.submitCompare_flash _ c slot).trans (s.compareCheck_flash c slot)) (s.compareCheck_flash c slot)

theorem State.decideWrite_flash (w : Write) : (s.decideWrite w).flash = s.flash := by
  unfold State.decideWrite
  split
  · exact State.ite_flash rfl (State.ite_flash (s.tryCompare_flash _ _) rfl)
  · exact State.ite_flash rfl (State.ite_flash rfl rfl)
  · rfl

theorem State.condRefuse_flash (c : Ctx) (f : Status × Nat) : (s.condRefuse c f).flash = s.flash := by
  unfold State.condRefuse
  dsimp only
  split <;> rfl

theorem State.prepare_flash (c : Ctx) (done : List (Fin 32 × Option CredContent)) (again : Bool) (rs : List NewCred) :
    (s.prepare c done again rs).flash = s.flash := by
  induction rs generalizing done with
  | nil =>
    unfold State.prepare State.queueGroup
    split
    · exact s.condRefuse_flash c _
    · rfl
  | cons n rs ih =>
    unfold State.prepare
    exact State.ite_flash (State.enqueueJob_flash _ _ _) (ih _)

theorem State.compareDone_flash (c : Ctx) (slot : Fin 32) (version : Nat) (matched : Bool) :
    (s.compareDone c slot version matched).flash = s.flash := by
  unfold State.compareDone State.compareStands
  exact State.ite_flash (s.compareCheck_flash c slot)
    (State.ite_flash (s.submitCompare_flash c slot)
      (State.ite_flash (State.ite_flash rfl (s.requestWrite_flash c _)) (s.requestWrite_flash c _)))

theorem State.ctxJob_flash (c : Ctx) (result : JobResult) : (s.ctxJob c result).flash = s.flash := by
  unfold State.ctxJob
  generalize s.work? c = w
  rcases w with _ | w
  · rfl
  · cases w with
    | extending n =>
      cases result with
      | digest d => exact State.ite_flash rfl rfl
      | _ => rfl
    | deriving_ =>
      cases result with
      | digest d => exact State.ite_flash rfl rfl
      | _ => rfl
    | comparing slot version =>
      cases result with
      | matched ok => exact s.compareDone_flash _ _ _ _
      | _ => rfl
    | preparing done n salt rest =>
      cases result with
      | digest d => exact s.prepare_flash _ _ _ _
      | _ => rfl
    | quoting =>
      cases result with
      | signature sig => dsimp only; split <;> rfl
      | _ => rfl
    | _ => rfl

theorem State.handResult_flash (j : RunningJob) : (s.handResult j).flash = s.flash := by
  unfold State.handResult
  refine State.ite_flash rfl ?_
  split
  · exact s.restartJob_flash _
  · exact s.intakeJob_flash _
  · exact s.ctxJob_flash _ _

/-! ## Requests -/

theorem State.whenEmpty_flash {t : State} (c : Ctx) (body : List Byte) (h : t.flash = s.flash) :
    (s.whenEmpty c body t).flash = s.flash := State.ite_flash h rfl

@[simp] theorem State.answerClaimed_flash (c : Ctx) (st : Status) (detail : Nat) (body : List Byte) :
    (s.answerClaimed c st detail body).flash = s.flash := by
  obtain ⟨_, _, e⟩ := s.answerClaimed_touches c st detail body
  rw [e]

theorem State.checkRegionLoad_flash (c : Ctx) (body : List Byte) : (s.checkRegionLoad c body).flash = s.flash := by
  have claimed (st : Status) (detail : Nat) := s.answerClaimed_flash c st detail []
  unfold State.checkRegionLoad
  refine State.ite_flash (claimed _ _) (State.ite_flash (claimed _ _) (State.ite_flash (claimed _ _)
    (State.ite_flash (claimed _ _) ?_)))
  split
  · exact claimed _ _
  · rfl

theorem State.checkInject_flash (c : Ctx) (body : List Byte) : (s.checkInject c body).flash = s.flash := by
  have claimed (st : Status) (detail : Nat) := s.answerClaimed_flash c st detail []
  unfold State.checkInject
  refine State.ite_flash (claimed _ _) (State.ite_flash (claimed _ _) ?_)
  split
  · exact claimed _ _
  · exact State.ite_flash (claimed _ _) (State.ite_flash (claimed _ _) rfl)

theorem State.checkProvisioning_flash (c : Ctx) (code : Nat) (body : List Byte) :
    (s.checkProvisioning c code body).flash = s.flash := by
  have claimed (st : Status) (detail : Nat) := s.answerClaimed_flash c st detail []
  refine State.ite_flash (s.checkRegionLoad_flash c body) (State.ite_flash ?_ (State.ite_flash ?_
    (State.ite_flash (s.checkInject_flash c body) (State.ite_flash ?_ rfl))))
  · exact State.ite_flash (claimed _ _) (State.ite_flash (claimed _ _) rfl)
  · exact State.ite_flash (claimed _ _) (State.ite_flash (claimed _ _) (State.ite_flash (claimed _ _) rfl))
  · exact State.ite_flash (claimed _ _) (State.ite_flash (claimed _ _) (State.ite_flash (claimed _ _)
      (State.ite_flash (claimed _ _) (State.ite_flash (claimed _ _) (State.ite_flash (claimed _ _)
        (State.ite_flash (claimed _ _) rfl))))))

theorem State.provision_flash (c : Ctx) (code : Nat) (body : List Byte) : (s.provision c code body).flash = s.flash :=
  State.ite_flash (State.checkProvisioning_flash _ c code body) rfl

theorem State.openRequest_flash (c : Ctx) (body : List Byte) : (s.openRequest c body).flash = s.flash :=
  State.ite_flash rfl (State.ite_flash rfl (State.ite_flash rfl (State.ite_flash rfl rfl)))

theorem State.resetContext_flash (c : Ctx) : (s.resetContext c).flash = s.flash := by
  have hsession : ((s.setReservation c .none).resetSession c).flash = s.flash :=
    State.ite_flash (State.failSession_flash _ _ _) rfl
  exact State.ite_flash hsession hsession

theorem State.extendRequest_flash (c : Ctx) (body : List Byte) : (s.extendRequest c body).flash = s.flash := by
  unfold State.extendRequest
  refine State.ite_flash rfl ?_
  split
  · rfl
  · exact State.ite_flash rfl (State.ite_flash rfl ((State.startNext_flash _).trans (s.enqueueJob_flash _ _)))

theorem State.condRequest_flash (c : Ctx) (body : List Byte) : (s.condRequest c body).flash = s.flash := by
  unfold State.condRequest
  split
  · rfl
  · split
    · exact s.condRefuse_flash c _
    · exact (State.startNext_flash _).trans (s.prepare_flash _ _ _ _)


/-! ## The upstream link -/

theorem State.refuse_flash (start : Nat) (kind : AccessKind) (region : Option Nat) :
    (s.refuse start kind region).flash = s.flash := by
  obtain ⟨_, _, _, _, _, e⟩ := s.refuse_touches start kind region
  rw [e]

theorem State.deliverProgram_flash (page base : Nat) (runs : List (Nat × List Byte)) :
    (s.deliverProgram page base runs).1.flash = s.flash := by
  obtain ⟨_, _, _, _, _, _, e⟩ := s.deliverProgram_touches page base runs
  rw [e]

theorem State.endRead_flash (b : Bool) : (s.endRead b).flash = s.flash := by
  obtain ⟨_, _, _, _, _, e⟩ := s.endRead_touches b
  rw [e]

theorem State.clockAll_flash (cmd : LinkCmd) (bytes : List Byte) : (s.clockAll cmd bytes).flash = s.flash := by
  obtain ⟨_, _, _, e⟩ := State.clockAll_touches cmd bytes s
  rw [e]

theorem State.ite_mem {m : List Host.Cell} {p : Prop} [Decidable p] {a b : State} (ha : a.flash.mem = m) (hb : b.flash.mem = m) :
    (if p then a else b).flash.mem = m := by
  split
  · exact ha
  · exact hb

/-- A program starts a forward at most: no byte of the real flash has changed yet (R40). -/
theorem State.performProgram_mem (start n : Nat) (bytes : List Byte) :
    (s.performProgram start n bytes).flash.mem = s.flash.mem := by
  unfold State.performProgram
  dsimp only
  split
  · have hout (page base : Nat) (runs : List (Nat × List Byte)) : (s.clearWel.deliverProgram page base runs).1.flash = s.flash :=
      s.clearWel.deliverProgram_flash page base runs
    exact State.ite_mem (congrArg Flash.mem ((State.refuse_flash _ _ _ _).trans (hout _ _ _))) (congrArg Flash.mem (hout _ _ _))
  · exact State.ite_mem rfl rfl
  · exact congrArg Flash.mem ((State.refuse_flash _ _ _ _).trans (State.ite_flash rfl rfl))

theorem State.forwardErase_mem (start : Nat) (ops : List FlashOp) (rs : List (Nat × Record)) :
    (s.forwardErase start ops rs).flash.mem = s.flash.mem := State.ite_mem rfl rfl

theorem State.performSectorErase_mem (start : Nat) : (s.performSectorErase start).flash.mem = s.flash.mem := by
  unfold State.performSectorErase
  dsimp only
  split
  · obtain ⟨_, _, e⟩ := s.clearWel.eraseAperture_touches _
    rw [e]
    rfl
  · exact s.clearWel.forwardErase_mem _ _ _
  · exact congrArg Flash.mem (s.clearWel.refuse_flash _ _ _)

theorem State.performBlockErase_mem (start : Nat) : (s.performBlockErase start).flash.mem = s.flash.mem := by
  unfold State.performBlockErase
  dsimp only
  split
  · exact congrArg Flash.mem (s.clearWel.refuse_flash _ _ _)
  · exact s.clearWel.forwardErase_mem _ _ _

theorem State.perform_mem (cmd : LinkCmd) (stray : Nat) : (s.perform cmd stray).flash.mem = s.flash.mem := by
  cases cmd with
  | read => exact congrArg Flash.mem (s.endRead_flash false)
  | fastRead => exact congrArg Flash.mem (s.endRead_flash false)
  | quadRead => exact congrArg Flash.mem (s.endRead_flash false)
  | writeEnable => exact State.ite_mem rfl rfl
  | writeDisable => exact State.ite_mem rfl rfl
  | chipErase => exact State.ite_mem (congrArg Flash.mem (s.clearWel.refuse_flash _ _ _)) rfl
  | sectorErase => exact State.ite_mem (s.performSectorErase_mem _) rfl
  | blockErase => exact State.ite_mem (s.performBlockErase_mem _) rfl
  | pageProgram => exact State.ite_mem (s.performProgram_mem _ _ _) rfl
  | _ => rfl

/-- No part of a transaction of the host changes the contents of the real flash (R36, R40). -/
theorem State.linkStep_mem (cmd : LinkCmd) (step : LinkStep) : (s.linkStep cmd step).flash.mem = s.flash.mem := by
  cases step with
  | select => exact State.ite_mem rfl rfl
  | command => exact State.ite_mem rfl rfl
  | clock bytes => exact State.ite_mem (congrArg Flash.mem (s.clockAll_flash cmd bytes)) rfl
  | release stray => exact State.ite_mem (s.perform_mem cmd stray) rfl
  | transaction bytes stray =>
    have hclocked : (((s.select).takeCommand cmd).clockAll cmd bytes).flash = s.flash :=
      (State.clockAll_flash _ cmd bytes).trans (State.ite_flash (State.ite_flash rfl rfl) (State.ite_flash rfl rfl))
    exact State.ite_mem ((State.perform_mem _ cmd stray).trans (congrArg Flash.mem hclocked)) rfl

end flash

/-! ## The commands -/

/-- The contents of the real flash are as before. -/
def KeepsFlash (s t : State) : Prop := t.flash.mem = s.flash.mem

/-- The command ended the busy period of the real flash, or with the supply interrupted it. -/
def EndsBusy (i : Instr) (s t : State) : Prop :=
  (∃ took, t.flash.mem = (s.flash.finish took).mem ∧
    ((∃ b, i = .substituteEraseNext b) ∨ (∃ b, i = .hostForwardComplete b) ∨ ∃ id b, i = .capacityHandover id b)) ∨
  (∃ seed, t.flash.mem = (s.flash.interrupt seed).mem ∧ (i = .powerLoss ∨ ∃ a b, i = .powerOn a b))

theorem event_keepsFlash {s t : State} {f : State → State} (e : whenRunning s f = .next t) (hf : (f s).flash = s.flash) :
    KeepsFlash s t := whenRunning_keeps (P := KeepsFlash s) rfl (congrArg Flash.mem hf) e

theorem request_keepsFlash {s t : State} {c : Ctx} {code : Nat} {f : List Byte → State → State}
    (e : (whenRunning s fun s => s.onRequest c code f) = .next t) (hf : ∀ body, (f body s).flash = s.flash) : KeepsFlash s t :=
  event_keepsFlash e (State.onRequest_keeps (P := fun u => u.flash = s.flash) rfl hf)

theorem linkStep_keepsFlash {s t : State} {cmd : LinkCmd} {step : LinkStep}
    (e : (whenRunning s fun s => s.linkStep cmd step) = .next t) : KeepsFlash s t :=
  whenRunning_keeps (P := KeepsFlash s) (f := fun s => s.linkStep cmd step) rfl (s.linkStep_mem cmd step) e

theorem execBackgroundJobRun_keepsFlash {s t : State} {count : Nat} (e : execBackgroundJobRun count s = .next t) :
    KeepsFlash s t := by
  unfold execBackgroundJobRun at e
  split at e
  · cases e; rfl
  · split at e
    · split at e <;> cases e
      rfl
    · cases e; rfl

theorem execBackgroundReadComplete_keepsFlash {s t : State} (e : execBackgroundReadComplete s = .next t) : KeepsFlash s t := by
  refine event_keepsFlash e ?_
  split
  · rfl
  · refine State.ite_flash ((State.startNext_flash _).trans ?_) rfl
    split
    · exact State.restartBlock_flash _ _
    · exact State.intakeBlock_flash _ _

theorem execCryptoJobEnd_keepsFlash {s t : State} (e : execCryptoJobEnd s = .next t) : KeepsFlash s t := by
  refine event_keepsFlash e ?_
  split
  · rfl
  · rename_i j _
    have hres : ((State.handResult { s with crypto := { s.crypto with running := none } } j).enterDeferred
        j.job.requester).flash = s.flash := State.handResult_flash _ j
    exact (State.startNext_flash _).trans (State.ite_flash ((State.kickStream_flash _).trans hres) hres)

theorem execRetainedWriteTake_keepsFlash {s t : State} (e : execRetainedWriteTake s = .next t) : KeepsFlash s t := by
  refine event_keepsFlash e ?_
  split
  · exact (State.startNext_flash _).trans (State.decideWrite_flash _ _)
  · rfl

theorem execRetainedWriteComplete_keepsFlash {s t : State} (e : execRetainedWriteComplete s = .next t) : KeepsFlash s t := by
  refine event_keepsFlash e ?_
  split
  · rfl
  · rename_i w hw
    obtain ⟨-, -, -, hflash, -⟩ := s.writeCompletes_keeps w
    exact hflash

/-- A substituted block erase goes on with the next sector, the one before it having ended (R19). -/
theorem execSubstituteEraseNext_flash {s t : State} {took : Bool} (e : execSubstituteEraseNext took s = .next t) :
    KeepsFlash s t ∨ t.flash.mem = (s.flash.finish took).mem := by
  refine whenRunning_keeps (P := fun u => KeepsFlash s u ∨ u.flash.mem = (s.flash.finish took).mem) (.inl rfl) ?_ e
  split
  · exact .inl rfl
  · split
    · exact .inl rfl
    · exact .inr rfl

theorem execHostForwardComplete_flash {s t : State} {took : Bool} (e : execHostForwardComplete took s = .next t) :
    KeepsFlash s t ∨ t.flash.mem = (s.flash.finish took).mem := by
  refine whenRunning_keeps (P := fun u => KeepsFlash s u ∨ u.flash.mem = (s.flash.finish took).mem) (.inl rfl) ?_ e
  split
  · exact .inl rfl
  · rename_i f _
    split
    · exact .inl rfl
    · exact .inr (congrArg Flash.mem (State.forwardDone_flash (s.forwardEnded took) f))

theorem execCapacityHandover_flash {s t : State} {id : Byte} {took : Bool} (e : execCapacityHandover id took s = .next t) :
    KeepsFlash s t ∨ t.flash.mem = (s.flash.finish took).mem := by
  refine whenRunning_keeps (P := fun u => KeepsFlash s u ∨ u.flash.mem = (s.flash.finish took).mem) (.inl rfl) ?_ e
  split
  · exact .inl rfl
  · exact .inr (congrArg Flash.mem (State.tryHaltFlash_flash _))

/-- Every command leaves the contents of the real flash, or ends a busy period of it (R36, R40, R41). -/
theorem exec_flash {i : Instr} {s t : State} (e : exec i s = .next t) : KeepsFlash s t ∨ EndsBusy i s t := by
  have event {f : State → State} (e : whenRunning s f = .next t) (hf : (f s).flash = s.flash) :
      KeepsFlash s t ∨ EndsBusy i s t := .inl (event_keepsFlash e hf)
  have request {c : Ctx} {code : Nat} {f : List Byte → State → State}
      (e : (whenRunning s fun s => s.onRequest c code f) = .next t) (hf : ∀ body, (f body s).flash = s.flash) :
      KeepsFlash s t ∨ EndsBusy i s t := .inl (request_keepsFlash e hf)
  have empty {c : Ctx} {code : Nat} {f : State → State}
      (e : (whenRunning s fun s => s.onRequest c code fun body s => s.whenEmpty c body (f s)) = .next t)
      (hf : (f s).flash = s.flash) : KeepsFlash s t ∨ EndsBusy i s t := request e fun body => s.whenEmpty_flash c body hf
  unfold exec at e
  cases i with
  | powerOn hcs rstReq =>
    cases e
    refine .inr (.inr ⟨s.draws, ?_, .inr ⟨_, _, rfl⟩⟩)
    exact State.ite_mem rfl rfl
  | powerLoss => cases e; exact .inr (.inr ⟨s.draws, rfl, .inl rfl⟩)
  | substituteEraseNext took =>
    exact (execSubstituteEraseNext_flash e).imp_right fun h => .inl ⟨took, h, .inl ⟨_, rfl⟩⟩
  | hostForwardComplete took =>
    exact (execHostForwardComplete_flash e).imp_right fun h => .inl ⟨took, h, .inr (.inl ⟨_, rfl⟩)⟩
  | capacityHandover id took =>
    exact (execCapacityHandover_flash e).imp_right fun h => .inl ⟨took, h, .inr (.inr ⟨_, _, rfl⟩)⟩
  | resetNLow => cases e; exact .inl rfl
  | lineReset hcs =>
    cases e
    exact .inl (State.ite_mem (State.ite_mem rfl rfl) rfl)
  | restartLine =>
    cases e
    exact .inl (State.ite_mem rfl (State.ite_mem (congrArg Flash.mem (State.trigger_flash _ _)) rfl))
  | rstReqNDeassert => cases e; exact .inl rfl
  | tick presence => exact event e (State.ite_flash rfl rfl)
  | trialExpiry => exact event e (State.ite_flash (s.enterHeld_flash _) rfl)
  | trialAlertRaise =>
    refine event e ?_
    split
    · exact State.ite_flash rfl rfl
    · rfl
  | idleTimeout => exact event e (State.ite_flash (s.failSession_flash _ _) rfl)
  | timeout c => exact event e (State.ite_flash rfl rfl)
  | requestBusyCapExpiry c => exact event e (State.ite_flash rfl rfl)
  | presenceRelease => exact event e (State.ite_flash ((State.startNext_flash _).trans (State.beginRelease_flash _ _ _)) rfl)
  | presenceGrantOpen => exact event e (State.ite_flash rfl rfl)
  | presenceGrantExpiry => exact event e (State.ite_flash rfl rfl)
  | lockoutExpiry slot => exact event e (State.ite_flash rfl rfl)
  | realertExpiry => exact event e (State.ite_flash rfl rfl)
  | pulseEnd => exact event e (State.ite_flash rfl rfl)
  | stampWaitServe => exact event e ((State.startNext_flash _).trans s.serveAllStamps_flash)
  | ignoringTransactionEnd => exact event e (State.ite_flash rfl rfl)
  | read step => exact .inl (linkStep_keepsFlash e)
  | fastRead step => exact .inl (linkStep_keepsFlash e)
  | quadOutputFastRead step => exact .inl (linkStep_keepsFlash e)
  | writeEnable step => exact .inl (linkStep_keepsFlash e)
  | writeDisable step => exact .inl (linkStep_keepsFlash e)
  | readStatus step => exact .inl (linkStep_keepsFlash e)
  | readIdentification step => exact .inl (linkStep_keepsFlash e)
  | pageProgram step => exact .inl (linkStep_keepsFlash e)
  | sectorErase step => exact .inl (linkStep_keepsFlash e)
  | blockErase step => exact .inl (linkStep_keepsFlash e)
  | chipErase step => exact .inl (linkStep_keepsFlash e)
  | unknownCommand code step => exact .inl (linkStep_keepsFlash e)
  | backgroundJobRun count => exact .inl (execBackgroundJobRun_keepsFlash e)
  | backgroundReadComplete => exact .inl (execBackgroundReadComplete_keepsFlash e)
  | cryptoJobEnd => exact .inl (execCryptoJobEnd_keepsFlash e)
  | retainedWriteTake => exact .inl (execRetainedWriteTake_keepsFlash e)
  | retainedWriteComplete => exact .inl (execRetainedWriteComplete_keepsFlash e)
  | heldEnd =>
    refine event e (State.ite_flash ((State.startNext_flash _).trans ?_) rfl)
    exact State.ite_flash ((State.selectSlot_flash _).trans s.reconcileSession_flash)
      ((State.beginRelease_flash _ _ _).trans s.reconcileSession_flash)
  | provisioningClaimGrant =>
    refine event e ?_
    split
    · split
      · exact State.checkProvisioning_flash _ _ _ _
      · rfl
    · rfl
  | identityDrawDone =>
    refine event e ?_
    split
    · exact State.ite_flash rfl rfl
    · rfl
  | info c => exact empty e rfl
  | contextReset c => exact empty e (s.resetContext_flash c)
  | restart c => exact empty e (State.ite_flash (s.enterHeld_flash _) rfl)
  | alertRead c =>
    have hack : s.acknowledge.flash = s.flash := State.ite_flash rfl rfl
    exact empty e (State.ite_flash hack hack)
  | alertSet c => exact request e fun body => State.ite_flash rfl (State.ite_flash (p := _ = _) rfl rfl)
  | closeBootWindow c => exact empty e rfl
  | regionRead c => exact request e fun body => State.ite_flash rfl (State.ite_flash rfl rfl)
  | regionLoad c => exact request e fun body => s.provision_flash c _ body
  | watchLoad c =>
    refine request e fun body => State.ite_flash rfl ?_
    split <;> rfl
  | watchRead c => exact empty e rfl
  | hitsRead c =>
    exact request e fun body => State.ite_flash rfl (State.ite_flash rfl (State.ite_flash (p := _ = _) rfl rfl))
  | extend c => exact request e fun body => s.extendRequest_flash c body
  | measureRead c => exact request e fun body => State.ite_flash rfl (State.ite_flash rfl rfl)
  | quote c =>
    exact request e fun body => State.ite_flash rfl (State.ite_flash rfl
      ((State.startNext_flash _).trans (State.askQuoteStamp_flash _ c)))
  | certRead c => exact empty e rfl
  | updateOpen c => exact request e fun body => s.openRequest_flash c body
  | stagingBank c =>
    exact request e fun body => State.ite_flash rfl (State.ite_flash rfl (State.ite_flash rfl (State.ite_flash rfl
      (State.ite_flash rfl rfl))))
  | updateFinish c =>
    exact request e fun body => State.ite_flash rfl (State.ite_flash rfl (State.ite_flash rfl (State.ite_flash rfl rfl)))
  | updateStatus c => exact empty e rfl
  | updateCommit c =>
    refine request e fun body => State.ite_flash rfl (State.ite_flash rfl ?_)
    split
    · exact State.ite_flash rfl rfl
    · rfl
  | updateAbort c =>
    exact request e fun body => State.ite_flash rfl (State.ite_flash rfl
      (State.ite_flash s.restSession_flash s.restSession_flash))
  | bootConfirm c => exact request e fun body => State.ite_flash rfl (State.ite_flash rfl (State.ite_flash rfl rfl))
  | identityGenerate c => exact request e fun body => s.provision_flash c _ body
  | certStore c => exact request e fun body => s.provision_flash c _ body
  | keyInject c => exact request e fun body => s.provision_flash c _ body
  | keyRead c => exact empty e rfl
  | derive c =>
    exact request e fun body => State.ite_flash rfl (State.ite_flash rfl
      ((State.startNext_flash _).trans (s.enqueueJob_flash _ _)))
  | lifecycleAdvance c => exact request e fun body => s.provision_flash c _ body
  | timeSet c => exact request e fun body => State.ite_flash rfl (State.ite_flash rfl (State.ite_flash rfl rfl))
  | timeRead c => exact empty e rfl
  | credList c => exact empty e rfl
  | credRead c =>
    refine request e fun body => State.ite_flash rfl ?_
    split
    · rfl
    · split <;> rfl
  | credReserve c =>
    refine request e fun body => State.ite_flash rfl (State.ite_flash rfl ?_)
    split
    · rfl
    · split <;> rfl
  | credWriteCond c => exact request e fun body => s.condRequest_flash c body
  | credCompare c =>
    refine request e fun body => State.ite_flash rfl ?_
    split
    · rfl
    · exact (State.startNext_flash _).trans (s.tryCompare_flash c _)
  | ownerWipe c => exact empty e (State.ite_flash rfl rfl)

/-! ## The statement -/

theorem exec_flashCanonical {i : Instr} {s t : State} (h : s.FlashCanonical) (e : exec i s = .next t) : t.FlashCanonical := by
  unfold State.FlashCanonical at *
  rcases exec_flash e with hkeeps | ⟨took, hm, -⟩ | ⟨seed, hm, -⟩
  · exact hkeeps ▸ h
  · exact hm ▸ Flash.finish_wf took h
  · exact hm ▸ Flash.interrupt_wf seed h

/-- Settles O53: all that a command can do to the contents is to end a busy period, and an idle flash has none to end. -/
theorem flashChangesOnlyByItsOperations : Obligations.FlashChangesOnlyByItsOperations := by
  refine ⟨fun s t h e => ?_, fun i s t e hne => ⟨fun hidle => ?_, ?_⟩⟩
  · unfold step at e
    split at e
    · cases e; exact h
    · rename_i rest _
      exact exec_flashCanonical (s := { s with pending := rest }) h e
  · rcases exec_flash e with hkeeps | ⟨took, hm, -⟩ | ⟨seed, hm, -⟩
    · exact hne hkeeps
    · exact hne (hm.trans (congrArg Flash.mem (Flash.finish_idle hidle took)))
    · obtain ⟨-, hsame, -⟩ := s.flash.interrupt_leaves seed
      exact hne (hm.trans (congrArg Flash.mem (hsame hidle)))
  · rcases exec_flash e with hkeeps | ⟨took, -, hi⟩ | ⟨seed, -, hi⟩
    · exact absurd hkeeps hne
    · exact .inr (.inr hi)
    · exact hi.imp_right .inl

end Sys2Proof.Machine
end

section
/-! # Transactions in parts, and transactions that leave no trace

A transaction is what its parts are (R21, R23); READ STATUS and READ IDENTIFICATION drive their bytes and change nothing (R28, R29,
R31); and a command that is abandoned, ignored or unknown leaves the decoder in IDLE and all else as it was (R22 to R26, R30). -/

namespace Sys2Proof.Machine

open Sys2Proof

section link

variable {s : State}

/-! ## Parts of a transaction -/

/-- Each row of the upstream link stands for one command of the decoder (R22, R24). -/
theorem exec_linkRow {row : LinkStep → Instr} {code : Byte}
    (h : row ∈ [Instr.read, .fastRead, .quadOutputFastRead, .writeEnable, .writeDisable, .readStatus, .readIdentification,
      .pageProgram, .sectorErase, .blockErase, .chipErase, .unknownCommand code]) :
    ∃ cmd, ∀ (step : LinkStep) (s : State), exec (row step) s = whenRunning s fun s => s.linkStep cmd step := by
  simp only [List.mem_cons, List.not_mem_nil, or_false] at h
  rcases h with rfl | rfl | rfl | rfl | rfl | rfl | rfl | rfl | rfl | rfl | rfl | rfl
  · exact ⟨.read, fun _ _ => rfl⟩
  · exact ⟨.fastRead, fun _ _ => rfl⟩
  · exact ⟨.quadRead, fun _ _ => rfl⟩
  · exact ⟨.writeEnable, fun _ _ => rfl⟩
  · exact ⟨.writeDisable, fun _ _ => rfl⟩
  · exact ⟨.readStatus, fun _ _ => rfl⟩
  · exact ⟨.readId, fun _ _ => rfl⟩
  · exact ⟨.pageProgram, fun _ _ => rfl⟩
  · exact ⟨.sectorErase, fun _ _ => rfl⟩
  · exact ⟨.blockErase, fun _ _ => rfl⟩
  · exact ⟨.chipErase, fun _ _ => rfl⟩
  · exact ⟨.ofCode code, fun _ _ => rfl⟩

theorem State.holdsCmd_iff {cmd : LinkCmd} :
    s.holdsCmd cmd = true ↔ s.link.decoder.state ≠ .idle ∧ s.link.decoder.cmd = some cmd := by
  simp [State.holdsCmd]

/-- No address byte ends a transaction. -/
theorem Decoder.takeAddress_holds {d : Decoder} (h : d.state ≠ .idle) (cmd : LinkCmd) (b : Byte) :
    (d.takeAddress cmd b).state ≠ .idle ∧ (d.takeAddress cmd b).cmd = d.cmd := by
  unfold Decoder.takeAddress
  dsimp only
  split
  · exact ⟨h, rfl⟩
  · exact ⟨by cases cmd <;> exact nofun, rfl⟩

theorem State.readSlot_holds (s : State) :
    s.readSlot.link.decoder.state = s.link.decoder.state ∧ s.readSlot.link.decoder.cmd = s.link.decoder.cmd := by
  rcases h : s.link.decoder.ahead with _ | ⟨value, region⟩
  · rw [s.readSlot_of_none h]
    exact ⟨rfl, rfl⟩
  · rw [s.readSlot_of_ahead value region h]
    exact ⟨rfl, rfl⟩

/-- A byte slot leaves the transaction in progress (R21). -/
theorem State.clockSlot_holds {cmd : LinkCmd} (h : s.holdsCmd cmd = true) (b : Byte) :
    (s.clockSlot cmd b).holdsCmd cmd = true := by
  obtain ⟨hstate, hcmd⟩ := State.holdsCmd_iff.1 h
  unfold State.clockSlot
  dsimp only
  split
  · exact h
  · exact h
  · obtain ⟨hstate', hcmd'⟩ := Decoder.takeAddress_holds hstate cmd b
    refine State.holdsCmd_iff.2 ?_
    unfold State.addressSlot
    dsimp only
    split
    · exact ⟨hstate', hcmd'.trans hcmd⟩
    · exact ⟨hstate', hcmd'.trans hcmd⟩
  · exact State.holdsCmd_iff.2 ⟨nofun, hcmd⟩
  · obtain ⟨hstate', hcmd'⟩ := s.readSlot_holds
    split
    · exact State.holdsCmd_iff.2 ⟨hstate' ▸ hstate, hcmd'.trans hcmd⟩
    · split
      · exact State.holdsCmd_iff.2 ⟨hstate, hcmd⟩
      · exact State.holdsCmd_iff.2 ⟨hstate, hcmd⟩
  · exact State.holdsCmd_iff.2 ⟨hstate, hcmd⟩
  · exact State.holdsCmd_iff.2 ⟨nofun, hcmd⟩
  · exact h

theorem State.clockAll_holds {cmd : LinkCmd} (h : s.holdsCmd cmd = true) (bytes : List Byte) :
    (s.clockAll cmd bytes).holdsCmd cmd = true := by
  induction bytes generalizing s with
  | nil => exact h
  | cons b bytes ih => exact ih (State.clockSlot_holds h b)

theorem State.clockAll_running (s : State) (cmd : LinkCmd) (bytes : List Byte) :
    (s.clockAll cmd bytes).running = s.running := by
  obtain ⟨_, _, _, e⟩ := State.clockAll_touches cmd bytes s
  rw [e]
  rfl

theorem State.select_idle (hidle : s.link.decoder.state = .idle) :
    s.select = s.setDecoder { Decoder.idle with state := .opcode } := if_pos hidle

/-- The transaction whose command byte has just been taken. -/
theorem State.takeCommand_holds (hidle : s.link.decoder.state = .idle) (cmd : LinkCmd) :
    (s.select.takeCommand cmd).holdsCmd cmd = true ∧ (s.select.takeCommand cmd).running = s.running := by
  unfold State.takeCommand
  rw [State.select_idle hidle, if_pos (by rfl)]
  refine ⟨State.holdsCmd_iff.2 ⟨?_, rfl⟩, rfl⟩
  dsimp only
  split
  · exact nofun
  · cases cmd <;> exact nofun

/-- Settles O18: each part finds the transaction of its command in progress, and the slots of both portions are the slots of all. -/
theorem transactionsAreTheirParts : Obligations.TransactionsAreTheirParts := by
  intro row code xs ys stray s ⟨hrun, hidle⟩ hrow
  obtain ⟨cmd, hexec⟩ := exec_linkRow hrow
  have hpart {u v : State} {step : LinkStep} (hu : u.running = true) (hv : u.linkStep cmd step = v) :
      exec (row step) u = .next v := by rw [hexec, whenRunning_eq hu, hv]
  obtain ⟨hholds, hrun₁⟩ := State.takeCommand_holds hidle cmd
  have hxs := State.clockAll_holds hholds xs
  have hys := State.clockAll_holds hxs ys
  have hrun₁ : (s.select.takeCommand cmd).running = true := hrun₁.trans hrun
  have hrun₂ := (State.clockAll_running _ cmd xs).trans hrun₁
  have hrun₃ := (State.clockAll_running _ cmd ys).trans hrun₂
  have hselected : s.select.running = true := by
    rw [State.select_idle hidle]
    exact hrun
  refine ⟨_, _, _, _, hpart hrun rfl, hpart hselected rfl, hpart hrun₁ (if_pos hholds), hpart hrun₂ (if_pos hxs), ?_⟩
  have hrelease : exec (row (.release stray)) (((s.select.takeCommand cmd).clockAll cmd xs).clockAll cmd ys) =
      .next ((((s.select.takeCommand cmd).clockAll cmd xs).clockAll cmd ys).release cmd stray) :=
    hpart hrun₃ (if_pos hys)
  have hwhole : exec (row (.transaction (xs ++ ys) stray)) s = .next (s.transact cmd (xs ++ ys) stray) :=
    hpart hrun (if_pos hidle)
  rw [hwhole, State.transact, State.clockAll_append]
  exact hrelease

/-! ## Whole transactions -/

/-- A whole transaction on an idle link (R21). -/
theorem LinkIdle.exec_transact (h : LinkIdle s) {i : Instr} {cmd : LinkCmd} {bytes : List Byte} {stray : Nat}
    (hi : exec i s = whenRunning s fun s => s.linkStep cmd (.transaction bytes stray)) :
    exec i s = .next (s.transact cmd bytes stray) := by
  obtain ⟨hrun, hidle⟩ := h
  rw [hi, whenRunning_eq hrun]
  exact congrArg _ (if_pos hidle)

/-- A transaction whose release performs nothing leaves the bytes it drove, and all else as it was. -/
theorem State.release_nothing {cmd : LinkCmd} {d : Decoder} {stray : Nat}
    (h : (s.setDecoder d).perform cmd stray = s.setDecoder d) :
    (s.setDecoder d).release cmd stray = s.setDecoder (Decoder.after d.out) := by
  unfold State.release
  rw [h]
  rfl

/-! ## Bytes driven -/

/-- The decoder of a command that drives bytes of its own, when it has driven these (R29, R31). -/
def Decoder.driving (cmd : LinkCmd) (out : List Byte) : Decoder :=
  { Decoder.commanded cmd with count := out.length, out := out }

theorem State.driveSlot_driving (s : State) (cmd : LinkCmd) (out : List Byte) (b : Byte) :
    (s.setDecoder (Decoder.driving cmd out)).driveSlot b = s.setDecoder (Decoder.driving cmd (out ++ [b])) := by
  unfold Decoder.driving
  rw [List.length_append]
  rfl

/-- Each byte slot of the command drives the byte of its place. -/
theorem State.clockAll_driving {cmd : LinkCmd} {byte : Nat → Byte}
    (hslot : ∀ out b, (s.setDecoder (Decoder.driving cmd out)).clockSlot cmd b =
      (s.setDecoder (Decoder.driving cmd out)).driveSlot (byte out.length)) (clocked : List Byte) :
    (s.setDecoder (Decoder.commanded cmd)).clockAll cmd clocked =
      s.setDecoder (Decoder.driving cmd ((List.range clocked.length).map byte)) := by
  induction clocked using List.reverseRecOn with
  | nil => rfl
  | append_singleton clocked b ih =>
    rw [State.clockAll_append, ih, List.length_append, List.length_singleton, List.range_succ, List.map_append]
    refine (hslot _ b).trans ?_
    rw [State.driveSlot_driving, List.length_map, List.length_range]
    rfl

/-- The bytes of READ IDENTIFICATION, which the statement writes as numbers (R31). -/
theorem idBytes_eq (n : Nat) : (List.range n).map idByte = ([0xD7, 0x2C, 0x18] ++ List.replicate n 0x00).take n := by
  simp only [bind_pure_comp, List.map_eq_map]
  refine List.ext_getElem (by simp; omega) fun i hi _ => ?_
  simp only [List.getElem_map, List.getElem_range, List.getElem_take]
  match i with
  | 0 => rfl
  | 1 => rfl
  | 2 => rfl
  | i + 3 => simp [idByte]

/-- Settles O12: each data slot drives the next byte, and the release performs nothing. -/
theorem readIdentificationIsFixed : Obligations.ReadIdentificationIsFixed := by
  intro clocked stray s h
  have hclocked := State.clockAll_driving (s := s) (cmd := .readId) (byte := idByte) (fun _ _ => rfl) clocked
  rw [h.exec_transact (cmd := .readId) rfl, State.transact, State.select_takeCommand h.2 .readId nofun, hclocked,
    State.release_nothing rfl]
  exact congrArg (fun out => Host.Outcome.next (s.setDecoder (Decoder.after out))) (idBytes_eq clocked.length)

/-! ## Status and the latch -/

/-- The bits of the status byte (R28, R29). -/
theorem State.statusByte_eq {busy : Bool} (hbusy : s.busy = busy) :
    s.statusByte =
      BitVec.ofNat 8
        ((if busy then 1 else 0) + (if s.link.wel then 2 else 0) + (if s.link.refused then 4 else 0) +
          (if s.alert.line = .asserted then 8 else 0)) := by
  unfold State.statusByte State.alertBit
  rw [hbusy]
  by_cases hline : s.alert.line = .asserted
  · simp only [hline, decide_true, if_true]
    cases busy <;> cases s.link.wel <;> cases s.link.refused <;> rfl
  · simp only [hline, decide_false, if_false]
    cases busy <;> cases s.link.wel <;> cases s.link.refused <;> rfl

/-- BUSY is a host forward or a request-busy (R28). -/
theorem State.busy_iff : s.busy = true ↔
    s.storage.forward ≠ none ∨ s.requests.ctx.c0.busyCap ≠ none ∨ s.requests.ctx.c1.busyCap ≠ none := by
  simp [State.busy, State.forwarding, State.requestBusy, Option.isSome_iff_ne_none]

theorem LinkIdle.exec_readStatus (h : LinkIdle s) (clocked : List Byte) (stray : Nat) :
    exec (.readStatus (.transaction clocked stray)) s =
      .next (s.setDecoder (Decoder.after (List.replicate clocked.length s.statusByte))) := by
  have hclocked := State.clockAll_driving (s := s) (cmd := .readStatus) (byte := fun _ => s.statusByte) (fun _ _ => rfl) clocked
  rw [h.exec_transact (cmd := .readStatus) rfl, State.transact, State.select_takeCommand h.2 .readStatus nofun, hclocked,
    State.release_nothing rfl, List.map_const', List.length_range]
  rfl

/-- WRITE ENABLE and WRITE DISABLE of exactly the command byte (R23, R26, R27, R30). -/
theorem LinkIdle.exec_latch (h : LinkIdle s) :
    exec (.writeEnable (.transaction [] 0)) s =
        .next (if s.busy then s.setDecoder (Decoder.after []) else { s with link := ⟨Decoder.after [], true, false⟩ }) ∧
      exec (.writeDisable (.transaction [] 0)) s =
        .next (if s.busy then s.setDecoder (Decoder.after []) else { s with link := ⟨Decoder.after [], false, s.link.refused⟩ }) := by
  have hbusy (cmd : LinkCmd) : (s.setDecoder (Decoder.commanded cmd)).busy = s.busy := rfl
  rw [h.exec_transact (cmd := .writeEnable) rfl, h.exec_transact (cmd := .writeDisable) rfl, State.transact, State.transact,
    State.select_takeCommand h.2 .writeEnable nofun, State.select_takeCommand h.2 .writeDisable nofun]
  cases hb : s.busy with
  | true =>
    have hnot {p : Prop} {cmd : LinkCmd} : ¬ (p ∧ 0 = 0 ∧ ¬ (s.setDecoder (Decoder.commanded cmd)).busy = true) :=
      fun ⟨_, _, hfree⟩ => hfree ((hbusy cmd).trans hb)
    exact ⟨congrArg _ (State.release_nothing (if_neg hnot)), congrArg _ (State.release_nothing (if_neg hnot))⟩
  | false =>
    have hfree {cmd : LinkCmd} : ¬ (s.setDecoder (Decoder.commanded cmd)).busy = true := by
      rw [hbusy, hb]
      exact Bool.false_ne_true
    exact ⟨congrArg (fun u : State => Host.Outcome.next (u.setDecoder (Decoder.after []))) (if_pos ⟨rfl, rfl, hfree⟩),
      congrArg (fun u : State => Host.Outcome.next (u.setDecoder (Decoder.after []))) (if_pos ⟨rfl, rfl, hfree⟩)⟩

/-! ## Abandoned and ignored commands -/

/-- A transaction whose slots drive nothing and whose release performs nothing leaves no trace. -/
theorem LinkIdle.exec_traceless (h : LinkIdle s) {i : Instr} {cmd : LinkCmd} {bytes : List Byte} {stray : Nat} {d : Decoder}
    (hi : exec i s = whenRunning s fun s => s.linkStep cmd (.transaction bytes stray))
    (hclocked : (s.select.takeCommand cmd).clockAll cmd bytes = s.setDecoder d) (hout : d.out = [])
    (hperform : (s.setDecoder d).perform cmd stray = s.setDecoder d) :
    exec i s = .next (s.setDecoder (Decoder.after [])) := by
  rw [h.exec_transact hi, State.transact, hclocked, State.release_nothing hperform, hout]

/-- Nothing happens in IGNORING (R22, R25). -/
theorem State.clockAll_ignoring {d : Decoder} (hd : d.state = .ignoring) (cmd : LinkCmd) (bytes : List Byte) :
    (s.setDecoder d).clockAll cmd bytes = s.setDecoder d := by
  induction bytes with
  | nil => rfl
  | cons b bytes ih =>
    have hslot : (s.setDecoder d).clockSlot cmd b = s.setDecoder d := by
      unfold State.clockSlot
      simp only [State.setDecoder_decoder, hd]
    rw [State.clockAll_cons, hslot, ih]

/-- A program or erase with BUSY set or the latch clear is ignored (R26, R30). -/
theorem State.takeCommand_ignored (hidle : s.link.decoder.state = .idle) {cmd : LinkCmd} (hg : cmd.gated = true)
    (h : s.busy = true ∨ s.link.wel = false) :
    s.select.takeCommand cmd = s.setDecoder { Decoder.commanded cmd with state := .ignoring } := by
  have hignored : cmd.gated = true ∧ (s.busy = true ∨ ¬ s.link.wel = true) := ⟨hg, h.imp_right fun hw => by simp [hw]⟩
  rw [State.select_idle hidle]
  unfold State.takeCommand
  rw [if_pos (by rfl)]
  exact congrArg (fun st => s.setDecoder { Decoder.idle with state := st, cmd := some cmd }) (if_pos hignored)

/-- A program or erase performs nothing in IGNORING, where no whole erase stands (R23). -/
theorem State.perform_ignoring {d : Decoder} (hd : d.state = .ignoring) (hstands : d.eraseStands = false) {cmd : LinkCmd}
    (hg : cmd.gated = true) (stray : Nat) : (s.setDecoder d).perform cmd stray = s.setDecoder d := by
  unfold State.perform
  cases cmd with
  | pageProgram => simp [hd]
  | sectorErase => simp [hd, hstands]
  | blockErase => simp [hd, hstands]
  | chipErase => simp [hd]
  | _ => cases hg

theorem LinkIdle.exec_ignored (h : LinkIdle s) {i : Instr} {cmd : LinkCmd} {bytes : List Byte} {stray : Nat}
    (hi : exec i s = whenRunning s fun s => s.linkStep cmd (.transaction bytes stray)) (hg : cmd.gated = true)
    (hignored : s.busy = true ∨ s.link.wel = false) : exec i s = .next (s.setDecoder (Decoder.after [])) :=
  h.exec_traceless hi (by rw [State.takeCommand_ignored h.2 hg hignored, State.clockAll_ignoring rfl]) rfl
    (State.perform_ignoring rfl rfl hg stray)

/-- A program or erase that clocks within a byte end nothing is abandoned (R23). -/
theorem State.perform_stray (s : State) {cmd : LinkCmd} {stray : Nat} (hs : stray ≠ 0)
    (hcmd : cmd.gated = true ∨ cmd = .writeEnable ∨ cmd = .writeDisable) : s.perform cmd stray = s := by
  unfold State.perform
  cases cmd with
  | _ => simp [hs, LinkCmd.gated] at hcmd ⊢

/-- One of the first two address bytes (R21). -/
theorem State.clockSlot_short {d : Decoder} (hd : d.state = .address) (hlen : d.addrBytes.length < 2) (cmd : LinkCmd) (b : Byte) :
    (s.setDecoder d).clockSlot cmd b = s.setDecoder { d with addrBytes := d.addrBytes ++ [b] } := by
  have htake : d.takeAddress cmd b = { d with addrBytes := d.addrBytes ++ [b] } :=
    if_pos (by rw [List.length_append, List.length_singleton]; omega)
  unfold State.clockSlot State.addressSlot
  simp only [State.setDecoder_decoder, hd, htake, ne_eq, not_true_eq_false, and_false, if_false]
  rfl

/-- Up to two address bytes are gathered, and no more happens (R21). -/
theorem State.clockAll_short {cmd : LinkCmd} (hphase : cmd.firstPhase = .address) {bytes : List Byte} (hlen : bytes.length < 3) :
    (s.setDecoder (Decoder.commanded cmd)).clockAll cmd bytes =
      s.setDecoder { Decoder.commanded cmd with addrBytes := bytes } := by
  induction bytes using List.reverseRecOn with
  | nil => rfl
  | append_singleton bytes b ih =>
    rw [List.length_append, List.length_singleton] at hlen
    rw [State.clockAll_append, ih (by omega)]
    exact State.clockSlot_short (d := { Decoder.commanded cmd with addrBytes := bytes }) hphase (by exact Nat.lt_of_succ_lt_succ hlen)
      cmd b

/-- The decoder is in none of the phases in which bytes are driven. -/
def Decoder.Silent (d : Decoder) : Prop := d.state ≠ .dataOut ∧ d.state ≠ .dummy ∧ d.out = []

theorem LinkCmd.gated_isRead {cmd : LinkCmd} (hg : cmd.gated = true) : cmd.isRead = false := by
  cases cmd with
  | read => cases hg
  | fastRead => cases hg
  | quadRead => cases hg
  | _ => rfl

theorem Decoder.Silent.takeAddress {d : Decoder} (h : d.Silent) {cmd : LinkCmd} (hg : cmd.gated = true) (b : Byte) :
    (d.takeAddress cmd b).Silent := by
  obtain ⟨hdata, hdummy, hout⟩ := h
  unfold Decoder.takeAddress
  dsimp only
  split
  · exact ⟨hdata, hdummy, hout⟩
  · cases cmd with
    | read => cases hg
    | fastRead => cases hg
    | quadRead => cases hg
    | _ => exact ⟨nofun, nofun, hout⟩

/-- A byte slot of a program or erase changes the decoder alone, and drives nothing (R21). -/
theorem State.clockSlot_gated {d : Decoder} (h : d.Silent) {cmd : LinkCmd} (hg : cmd.gated = true) (b : Byte) :
    ∃ d' : Decoder, (s.setDecoder d).clockSlot cmd b = s.setDecoder d' ∧ d'.Silent := by
  have ⟨hdata, hdummy, hout⟩ := h
  cases hd : d.state with
  | address => exact ⟨_, State.clockSlot_address (LinkCmd.gated_isRead hg) hd b, h.takeAddress hg b⟩
  | dataOut => exact absurd hd hdata
  | dummy => exact absurd hd hdummy
  | dataIn =>
    refine ⟨d.takeData b, ?_, hdata, hdummy, hout⟩
    unfold State.clockSlot
    simp only [State.setDecoder_decoder, hd]
    rfl
  | complete =>
    refine ⟨{ d with state := .ignoring, eraseStands := cmd = .sectorErase ∨ cmd = .blockErase }, ?_, nofun, nofun, hout⟩
    unfold State.clockSlot
    simp only [State.setDecoder_decoder, hd]
    rfl
  | _ =>
    refine ⟨d, ?_, h⟩
    unfold State.clockSlot
    simp only [State.setDecoder_decoder, hd]

theorem State.clockAll_gated {d : Decoder} (h : d.Silent) {cmd : LinkCmd} (hg : cmd.gated = true) (bytes : List Byte) :
    ∃ d' : Decoder, (s.setDecoder d).clockAll cmd bytes = s.setDecoder d' ∧ d'.Silent := by
  induction bytes generalizing d with
  | nil => exact ⟨d, rfl, h⟩
  | cons b bytes ih =>
    obtain ⟨d', hslot, hsilent⟩ := State.clockSlot_gated h hg b
    rw [State.clockAll_cons, hslot]
    exact ih hsilent

theorem Decoder.commanded_silent {cmd : LinkCmd} (hg : cmd.gated = true) : (Decoder.commanded cmd).Silent := by
  cases cmd with
  | pageProgram => exact ⟨nofun, nofun, rfl⟩
  | sectorErase => exact ⟨nofun, nofun, rfl⟩
  | blockErase => exact ⟨nofun, nofun, rfl⟩
  | chipErase => exact ⟨nofun, nofun, rfl⟩
  | _ => cases hg

/-- A program or erase that is not ignored, and ends within a byte (R23). -/
theorem LinkIdle.exec_cut (h : LinkIdle s) {i : Instr} {cmd : LinkCmd} {bytes : List Byte} {stray : Nat}
    (hi : exec i s = whenRunning s fun s => s.linkStep cmd (.transaction bytes stray)) (hg : cmd.gated = true)
    (hready : s.link.wel = true ∧ s.busy = false) (hs : stray ≠ 0) : exec i s = .next (s.setDecoder (Decoder.after [])) := by
  obtain ⟨d, hclocked, -, -, hout⟩ := State.clockAll_gated (s := s) (Decoder.commanded_silent hg) hg bytes
  exact h.exec_traceless hi (by rw [State.select_takeCommand h.2 cmd fun _ => hready, hclocked]) hout
    (State.perform_stray _ hs (.inl hg))

/-- Too few address bytes: an erase or a program performs nothing, and a read returned nothing (R23). -/
theorem LinkIdle.exec_short (h : LinkIdle s) {i : Instr} {cmd : LinkCmd} {bytes : List Byte} {stray : Nat}
    (hi : exec i s = whenRunning s fun s => s.linkStep cmd (.transaction bytes stray))
    (hready : cmd.gated = true → s.link.wel = true ∧ s.busy = false) (hphase : cmd.firstPhase = .address)
    (hlen : bytes.length < 3) (hlink : cmd.isRead = true → s.storage.link ≠ .hostRead) :
    exec i s = .next (s.setDecoder (Decoder.after [])) := by
  refine h.exec_traceless hi (by rw [State.select_takeCommand h.2 cmd hready, State.clockAll_short hphase hlen]) rfl ?_
  have hread (hr : cmd.isRead = true) : (s.setDecoder { Decoder.commanded cmd with addrBytes := bytes }).endRead false =
      s.setDecoder { Decoder.commanded cmd with addrBytes := bytes } :=
    (State.endRead_silent (.inl rfl)).trans (if_neg (hlink hr))
  have hstate : ({ Decoder.commanded cmd with addrBytes := bytes } : Decoder).state = .address := hphase
  unfold State.perform
  cases cmd with
  | read => exact hread rfl
  | fastRead => exact hread rfl
  | quadRead => exact hread rfl
  | pageProgram => exact if_neg nofun
  | sectorErase => exact if_neg nofun
  | blockErase => exact if_neg nofun
  | _ => cases hphase

/-- Three address bytes and no data byte: a program performs nothing (R23). -/
theorem LinkIdle.exec_programWithoutData (h : LinkIdle s) {bytes : List Byte} {stray : Nat}
    (hready : s.link.wel = true ∧ s.busy = false) (hlen : bytes.length = 3) :
    exec (.pageProgram (.transaction bytes stray)) s = .next (s.setDecoder (Decoder.after [])) := by
  obtain ⟨x, y, z, rfl⟩ := List.length_eq_three.1 hlen
  have hclocked : (s.setDecoder (Decoder.commanded .pageProgram)).clockAll .pageProgram [x, y, z] =
      s.setDecoder ([x, y, z].foldl (fun d b => d.takeAddress .pageProgram b) (Decoder.commanded .pageProgram)) := by
    rw [State.clockAll_cons, State.clockSlot_address rfl rfl, State.clockAll_cons, State.clockSlot_address rfl rfl,
      State.clockAll_cons, State.clockSlot_address rfl rfl]
    rfl
  refine h.exec_traceless (d := [x, y, z].foldl (fun d b => d.takeAddress .pageProgram b) (Decoder.commanded .pageProgram))
    rfl (by rw [State.select_takeCommand h.2 .pageProgram fun _ => hready, hclocked]) rfl ?_
  unfold State.perform
  exact if_neg fun ⟨_, hcount, _⟩ => Nat.lt_irrefl 0 hcount

/-- A command that ends with its command byte is abandoned by anything clocked behind it (R23). -/
theorem LinkIdle.exec_behind (h : LinkIdle s) {i : Instr} {cmd : LinkCmd} {bytes : List Byte} {stray : Nat}
    (hi : exec i s = whenRunning s fun s => s.linkStep cmd (.transaction bytes stray))
    (hready : cmd.gated = true → s.link.wel = true ∧ s.busy = false)
    (hcmd : cmd = .writeEnable ∨ cmd = .writeDisable ∨ cmd = .chipErase) (hmore : bytes ≠ [] ∨ stray ≠ 0) :
    exec i s = .next (s.setDecoder (Decoder.after [])) := by
  have hcommand := State.select_takeCommand h.2 cmd hready
  by_cases hs : stray = 0
  · subst hs
    obtain ⟨b, bytes, rfl⟩ := List.exists_cons_of_ne_nil (hmore.resolve_right fun hs => hs rfl)
    have hslot : (s.setDecoder (Decoder.commanded cmd)).clockSlot cmd b =
        s.setDecoder { Decoder.commanded cmd with state := .ignoring, eraseStands := cmd = .sectorErase ∨ cmd = .blockErase } := by
      rcases hcmd with rfl | rfl | rfl <;> rfl
    refine h.exec_traceless hi (by rw [hcommand, State.clockAll_cons, hslot, State.clockAll_ignoring rfl]) rfl ?_
    unfold State.perform
    rcases hcmd with rfl | rfl | rfl <;> exact if_neg fun ⟨hstate, _⟩ => DecoderState.noConfusion hstate
  · have hclocked : ∃ d : Decoder, (s.setDecoder (Decoder.commanded cmd)).clockAll cmd bytes = s.setDecoder d ∧ d.out = [] := by
      cases bytes with
      | nil => exact ⟨_, rfl, rfl⟩
      | cons b bytes =>
        refine ⟨{ Decoder.commanded cmd with state := .ignoring, eraseStands := cmd = .sectorErase ∨ cmd = .blockErase }, ?_, rfl⟩
        rw [State.clockAll_cons, ← State.clockAll_ignoring (s := s)
          (d := { Decoder.commanded cmd with state := .ignoring, eraseStands := cmd = .sectorErase ∨ cmd = .blockErase })
          rfl cmd bytes]
        rcases hcmd with rfl | rfl | rfl <;> rfl
    obtain ⟨d, hclocked, hout⟩ := hclocked
    exact h.exec_traceless hi (by rw [hcommand, hclocked]) hout
      (State.perform_stray _ hs (by rcases hcmd with rfl | rfl | rfl <;> simp [LinkCmd.gated]))

/-- A command byte that is none of the eleven (R24). -/
theorem LinkCmd.ofCode_unknown {code : Byte} (h : decodedCommandBytes.contains code = false) :
    LinkCmd.ofCode code = .unknown code := by
  simp only [decodedCommandBytes, List.contains_cons, List.contains_nil, Bool.or_eq_false_iff, beq_eq_false_iff_ne] at h
  obtain ⟨h1, h2, h3, h4, h5, h6, h7, h8, h9, h10, h11, -⟩ := h
  simp only [LinkCmd.ofCode]
  rw [if_neg h1, if_neg h2, if_neg h3, if_neg h4, if_neg h5, if_neg h6, if_neg h8, if_neg h9, if_neg h10, if_neg h11, if_neg h7]

/-- A program or erase is ignored, or can be performed (R26, R30). -/
theorem State.ignored_or_ready (s : State) : (s.busy = true ∨ s.link.wel = false) ∨ s.link.wel = true ∧ s.busy = false := by
  cases s.busy <;> cases s.link.wel <;> simp

end link

/-- Settles O11: the latch and the status byte, and each way a transaction can leave no trace. -/
theorem latchStatusAndIgnoredCommands : Obligations.LatchStatusAndIgnoredCommands := by
  refine ⟨fun s busy h hbusy => ?_, fun bytes stray s h hignored i hi => ?_, fun bytes stray s i h hi => ?_,
    fun code bytes stray s h hcode => ?_, fun s hrun hundecoded hstate => ?_⟩
  · have hbusy : s.busy = busy := Bool.eq_iff_iff.2 (State.busy_iff.trans hbusy.symm)
    obtain ⟨henable, hdisable⟩ := h.exec_latch
    rw [hbusy] at henable hdisable
    refine ⟨?_, ?_, fun clocked stray => ?_⟩
    · rintro rfl
      exact ⟨henable, hdisable⟩
    · rintro rfl
      exact ⟨henable, hdisable⟩
    · rw [← State.statusByte_eq hbusy]
      exact h.exec_readStatus clocked stray
  · rcases hi with rfl | rfl | rfl | rfl
    · exact h.exec_ignored (cmd := .pageProgram) rfl rfl hignored
    · exact h.exec_ignored (cmd := .sectorErase) rfl rfl hignored
    · exact h.exec_ignored (cmd := .blockErase) rfl rfl hignored
    · exact h.exec_ignored (cmd := .chipErase) rfl rfl hignored
  · rcases hi with ⟨hmore, rfl | rfl | rfl⟩ | ⟨hcut, hi⟩ | ⟨hcut, rfl⟩ | ⟨hlen, hlink, rfl | rfl | rfl⟩
    · exact h.exec_behind rfl nofun (.inl rfl) hmore
    · exact h.exec_behind rfl nofun (.inr (.inl rfl)) hmore
    · rcases s.ignored_or_ready with hignored | hready
      · exact h.exec_ignored (cmd := .chipErase) rfl rfl hignored
      · exact h.exec_behind rfl (fun _ => hready) (.inr (.inr rfl)) hmore
    · have herase {cmd : LinkCmd} (hg : cmd.gated = true) (hphase : cmd.firstPhase = .address)
          (hi : exec i s = whenRunning s fun s => s.linkStep cmd (.transaction bytes stray)) :
          exec i s = .next (s.setDecoder (Decoder.after [])) := by
        rcases s.ignored_or_ready with hignored | hready
        · exact h.exec_ignored hi hg hignored
        · rcases hcut with hlen | hs
          · exact h.exec_short hi (fun _ => hready) hphase hlen fun hread => by rw [LinkCmd.gated_isRead hg] at hread; cases hread
          · exact h.exec_cut hi hg hready hs
      rcases hi with rfl | rfl
      · exact herase (cmd := .sectorErase) rfl rfl rfl
      · exact herase (cmd := .blockErase) rfl rfl rfl
    · rcases s.ignored_or_ready with hignored | hready
      · exact h.exec_ignored (cmd := .pageProgram) rfl rfl hignored
      · rcases hcut with hlen | hs
        · rcases Nat.lt_succ_iff_lt_or_eq.1 hlen with hlen | hlen
          · exact h.exec_short (cmd := .pageProgram) rfl (fun _ => hready) rfl hlen nofun
          · exact h.exec_programWithoutData hready hlen
        · exact h.exec_cut (cmd := .pageProgram) rfl rfl hready hs
    · exact h.exec_short (cmd := .read) rfl nofun rfl hlen fun _ => hlink
    · exact h.exec_short (cmd := .fastRead) rfl nofun rfl hlen fun _ => hlink
    · exact h.exec_short (cmd := .quadRead) rfl nofun rfl hlen fun _ => hlink
  · refine h.exec_traceless (cmd := .unknown code) ?_
      (bytes := bytes) (stray := stray)
      (by rw [State.select_takeCommand h.2 (.unknown code) nofun, State.clockAll_ignoring rfl]) rfl rfl
    rw [← LinkCmd.ofCode_unknown hcode]
    rfl
  · show execIgnoringTransactionEnd s = _
    rw [execIgnoringTransactionEnd, whenRunning_eq hrun]
    exact congrArg _ (if_pos ⟨hundecoded, hstate⟩)

end Sys2Proof.Machine
end


section
/-! # The supply, RESET_N, and the end of HELD

A loss of the supply and RESET_N low leave the cold state (R41, R47, R48, R187). HELD ends into the release sequence or into slot
selection (R47, R55, R57, R58, R88). -/

namespace Sys2Proof.Machine

open Sys2Proof

/-- The part without its supply or with RESET_N low does not run (R47, R48). -/
theorem State.cold_stopped (s : State) {pins : Pins} (hpins : pins.supply = false ∨ pins.resetLow = true) (flash : Flash) :
    (s.cold pins flash).running = false := by
  show (pins.supply && !pins.resetLow) = false
  rcases hpins with h | h <;> simp [h]

/-- Settles O3: both leave the cold state, and differ in the real flash alone. -/
theorem supplyAndResetStopThePart : Obligations.SupplyAndResetStopThePart := by
  rintro i s (rfl | rfl)
  · exact ⟨_, rfl, s.cold_stopped (.inl rfl) _, rfl, rfl, rfl, rfl, rfl, rfl, rfl, rfl, rfl, rfl, rfl, rfl, nofun,
      fun _ => s.flash.interrupt_leaves s.draws⟩
  · exact ⟨_, rfl, s.cold_stopped (.inr rfl) _, rfl, rfl, rfl, rfl, rfl, rfl, rfl, rfl, rfl, rfl, rfl, rfl, fun _ => rfl, nofun⟩

/-! ## The begin of the release sequence -/

/-- The outcome record as R63 step 1 completes it (R55, R64). -/
def State.outcomeAt (s : State) (trust : Trust) (halt : HaltReason) : Outcome :=
  { s.restart.outcome with
    selected := s.active, trust := trust, halt := halt, attemptsLeft := if s.inField then s.attemptsLeft else 0 }

/-- The outcome record is complete, and the first digest job of the release has joined the FIFO (R63). -/
theorem State.beginRelease_queued (s : State) (trust : Trust) (halt : HaltReason) :
    QueuesJob s (s.beginRelease trust halt).startNext .restart (.extend 0 s.register0Input) ∧
      (s.beginRelease trust halt).startNext.restart =
        { s.restart with outcome := s.outcomeAt trust halt, work := .release .extend0 trust } ∧
      { (s.beginRelease trust halt).startNext with restart := s.restart, crypto := s.crypto, draws := s.draws } = s := by
  obtain ⟨hjob, hrestart, hframe⟩ :=
    (s.completeOutcome trust halt).restartJob_queued (.extend 0 s.register0Input) (.release .extend0 trust)
  exact ⟨hjob, hrestart, congrArg (fun t : State => { t with restart := s.restart }) hframe⟩

/-! ## The end of HELD -/

section held

variable {s : State}

theorem State.heldDone_idle (h : s.heldDone = true) :
    s.restart.phase = .held ∧ s.store.queue = [] ∧ s.store.taken = none := by
  simp only [State.heldDone, Bool.and_eq_true, decide_eq_true_eq, Option.isNone_iff_eq_none] at h
  obtain ⟨⟨⟨⟨hphase, -⟩, hqueue⟩, htaken⟩, -⟩ := h
  exact ⟨hphase, hqueue, htaken⟩

theorem execHeldEnd_done (hrun : s.running = true) (h : s.heldDone = true) :
    exec .heldEnd s = .next
      (if s.reconcileSession.inField then (s.reconcileSession.setPhase .checking).selectSlot
        else s.reconcileSession.beginRelease .unverified .none).startNext := by
  show execHeldEnd s = _
  rw [execHeldEnd, whenRunning_eq hrun, if_pos h]

/-- The session follows the retained pending flag, and nothing else changes (R88, R106). -/
theorem State.reconcileSession_follows (s : State) :
    s.reconcileSession.intake.session.state = (if s.store.working.pendingCommit then .commitPending else .idle) ∧
      ∃ i, s.reconcileSession = { s with intake := i } := by
  unfold State.reconcileSession State.wc
  split
  · split
    · rename_i hstate
      exact ⟨hstate, _, rfl⟩
    · exact ⟨rfl, _, rfl⟩
  · exact ⟨rfl, _, rfl⟩

/-- Slot selection queues one write, or asks for the active slot's manifest sector (R57 to R59). -/
theorem State.selectSlot_cases (s : State) :
    (s.store.working.pendingCommit = true → s.selectSlot = (s.enqueueWrite .restart .applyCommit).setRestartWork .select) ∧
      (s.store.working.pendingCommit = false →
        (s.store.working.records.get s.store.working.selector).state = .trial →
          s.selectSlot =
            (s.enqueueWrite .restart (if 0 < s.store.working.attempts then .countAttempt else .revert)).setRestartWork .select) ∧
      (s.store.working.pendingCommit = false →
        (s.store.working.records.get s.store.working.selector).state ≠ .trial →
          s.selectSlot = s.startVerify ⟨s.store.working.selector, false⟩) := by
  refine ⟨fun hp => if_pos hp, fun hp ht => ?_, fun hp ht => ?_⟩
  · unfold State.selectSlot
    rw [if_neg (by rw [State.wc, hp]; nofun), if_pos (by exact ht)]
    split
    · rename_i hleft
      rw [if_pos (by exact hleft)]
    · rename_i hleft
      rw [if_neg (by exact hleft)]
  · unfold State.selectSlot
    rw [if_neg (by rw [State.wc, hp]; nofun), if_neg (by exact ht)]
    rfl

/-- Slot selection touches the write queue, the background job and the controller's work. -/
theorem State.selectSlot_touches (s : State) :
    ∃ q j w, s.selectSlot =
      { s with
        store := { s.store with queue := q }
        storage := { s.storage with job := j }
        restart := { s.restart with work := w } } := by
  unfold State.selectSlot
  split
  · exact ⟨_, _, _, rfl⟩
  · split
    · split <;> exact ⟨_, _, _, rfl⟩
    · exact ⟨_, _, _, rfl⟩

/-- In FIELD the end of HELD is the slot selection (R57, R58, R88). -/
theorem execHeldEnd_field (hrun : s.running = true) (h : s.heldDone = true) (hfed : s.EngineFed)
    (hfield : s.store.working.stage = .field) :
    exec .heldEnd s = .next (s.reconcileSession.setPhase .checking).selectSlot := by
  obtain ⟨-, i, hi⟩ := s.reconcileSession_follows
  have hin : s.reconcileSession.inField = true := by
    rw [hi]
    exact decide_eq_true hfield
  rw [execHeldEnd_done hrun h, if_pos hin]
  obtain ⟨q, j, w, hselect⟩ := (s.reconcileSession.setPhase .checking).selectSlot_touches
  have hfed' : (s.reconcileSession.setPhase .checking).selectSlot.EngineFed := by
    rw [hselect, hi]
    exact hfed
  rw [State.startNext_fed hfed']

/-- In MANUFACTURE the end of HELD begins the release sequence (R47, R55). -/
theorem execHeldEnd_manufacture (hrun : s.running = true) (h : s.heldDone = true) (hstage : s.store.working.stage = .manufacture) :
    exec .heldEnd s = .next (s.reconcileSession.beginRelease .unverified .none).startNext := by
  obtain ⟨-, i, hi⟩ := s.reconcileSession_follows
  have hin : ¬ s.reconcileSession.inField = true := by
    rw [hi]
    simp [State.inField, State.wc, hstage]
  rw [execHeldEnd_done hrun h, if_neg hin]

end held

/-- Settles O5, by the stage; in FIELD by the pending commit and the active slot's record. -/
theorem heldEnds : Obligations.HeldEnds := by
  intro s hrun hdone hfed
  obtain ⟨hphase, hqueue, -⟩ := State.heldDone_idle hdone
  obtain ⟨hsession, i, hi⟩ := s.reconcileSession_follows
  rw [hi] at hsession
  cases hstage : s.store.working.stage with
  | field =>
    have hexec := execHeldEnd_field hrun hdone hfed hstage
    rw [hi] at hexec
    obtain ⟨hcommit, htrial, hverify⟩ := (State.setPhase { s with intake := i } .checking).selectSlot_cases
    obtain ⟨q, j, w, hselect⟩ := (State.setPhase { s with intake := i } .checking).selectSlot_touches
    refine ⟨_, hexec, fun _ => ?_, nofun, fun _ hp => ?_, fun _ hp ht => ?_, fun _ hp ht => ?_, ?_⟩
    · rw [hselect]; rfl
    · rw [hcommit hp]
      exact congrArg (· ++ _) hqueue
    · rw [htrial hp ht]
      exact congrArg (· ++ _) hqueue
    · rw [hverify hp ht]
      exact ⟨hqueue, rfl⟩
    · rw [hselect]
      exact ⟨hsession, rfl, rfl, rfl, rfl⟩
  | manufacture =>
    have hexec := execHeldEnd_manufacture hrun hdone hstage
    rw [hi] at hexec
    have hin : ¬ State.inField { s with intake := i } = true := by simp [State.inField, State.wc, hstage]
    obtain ⟨hjob, hrestart, hframe⟩ := State.beginRelease_queued { s with intake := i } .unverified .none
    have hinput : State.register0Input { s with intake := i } = 0 := if_neg hin
    rw [hinput] at hjob
    refine ⟨_, hexec, nofun, fun _ => ?_, nofun, nofun, nofun, ?_⟩
    · rw [hrestart]
      exact ⟨hphase, rfl, hjob, rfl, if_neg hin⟩
    · exact ⟨(congrArg (·.intake.session.state) hframe).trans hsession, congrArg (·.store.working) hframe,
        congrArg (·.flash) hframe, congrArg (·.watch) hframe, congrArg (·.time) hframe⟩

end Sys2Proof.Machine
end


section
/-! # Ends of crypto jobs and of background reads

What the end of a job and the end of a read leave, and how an image is taken block by block into its digest: the parts that the
restart controller's verification and the update intake's share (R42, R59, R102, R118). -/

namespace Sys2Proof.Machine

open Sys2Proof

/-! ## The end of a job (R118) -/

section jobs

variable {s u : State} {r : Requester}

theorem execCryptoJobEnd_restart {k : JobKind} {x : JobResult} (hrun : s.running = true)
    (hjob : s.crypto.running = some ⟨⟨.restart, k⟩, x, false⟩) :
    exec .cryptoJobEnd s = .next ((s.jobEnded.restartJob x).enterDeferred .restart).startNext := by
  show execCryptoJobEnd s = _
  rw [execCryptoJobEnd, whenRunning_eq hrun]
  simp only [hjob]
  rfl

theorem execCryptoJobEnd_intake {k : JobKind} {x : JobResult} (hrun : s.running = true)
    (hjob : s.crypto.running = some ⟨⟨.intake, k⟩, x, false⟩) :
    exec .cryptoJobEnd s = .next ((s.jobEnded.intakeJob x).enterDeferred .intake).kickStream.startNext := by
  show execCryptoJobEnd s = _
  rw [execCryptoJobEnd, whenRunning_eq hrun]
  simp only [hjob]
  rfl

/-- Behind an idle engine without a job of the requester, its submission joins the FIFO (R118). -/
theorem State.enqueueJob_alone (hr : s.crypto.running = none) (hq : ∀ j ∈ s.crypto.queue, j.requester ≠ r) (k : JobKind) :
    s.enqueueJob r k = { s with crypto := { s.crypto with queue := s.crypto.queue ++ [⟨r, k⟩] } } := by
  have hno : NoJob s r := by
    intro j hj
    rw [show s.crypto.fifo = s.crypto.queue by simp [Crypto.fifo, hr]] at hj
    exact hq j hj
  exact if_neg (ne_true_of_eq_false hno.holds)

/-- With nothing waiting outside the FIFO, the end of a job leaves what its requester made of it, and the next job starts. -/
theorem State.jobEnd_leaves {more : List Job} (hd : s.crypto.deferred = [])
    (hu : u.crypto = ⟨none, s.crypto.queue ++ more, s.crypto.deferred⟩) :
    (u.enterDeferred r).startNext.crypto.fifo = s.crypto.queue ++ more ∧
      { (u.enterDeferred r).startNext with crypto := u.crypto, draws := u.draws } = u := by
  rw [u.enterDeferred_none r (by rw [hu, hd])]
  refine ⟨?_, u.startNext_frame⟩
  rw [u.startNext_fifo, hu]
  rfl

/-- The same for the intake, which finds no stream bytes that it could submit (R94). -/
theorem State.intakeEnd_leaves {more : List Job} (hd : s.crypto.deferred = [])
    (hu : u.crypto = ⟨none, s.crypto.queue ++ more, s.crypto.deferred⟩) (hstill : u.kickStream = u) :
    (u.enterDeferred .intake).kickStream.startNext.crypto.fifo = s.crypto.queue ++ more ∧
      { (u.enterDeferred .intake).kickStream.startNext with crypto := u.crypto, draws := u.draws } = u := by
  have hnone := u.enterDeferred_none .intake (by rw [hu, hd])
  have hleaves := State.jobEnd_leaves (r := .intake) hd hu
  rw [hnone] at hleaves ⊢
  rwa [hstill]

theorem State.kickStream_empty (h : s.intake.buffer = []) : s.kickStream = s := if_neg fun hkick => hkick.1 h

/-- A job of the intake in the FIFO holds the stream back (R94). -/
theorem State.kickStream_behind {k : JobKind} (h : ⟨.intake, k⟩ ∈ s.crypto.queue) : s.kickStream = s :=
  State.kickStream_waits fun hno => hno ⟨.intake, k⟩ (List.mem_append_right _ h) rfl

end jobs

/-! ## The end of a background read (R42) -/

section reads

variable {s : State} {block : List Byte}

/-- The link is idle and the job gone. -/
def State.readEnded (s : State) : State := { s with storage := { s.storage with link := .idle, job := none } }

theorem ReadEnding.exec_restart (h : ReadEnding s .restart block) :
    exec .backgroundReadComplete s = .next (s.readEnded.restartBlock block).startNext := by
  obtain ⟨hrun, j, hjob, hrunning, huser, rfl⟩ := h
  exact execBackgroundReadComplete_restart hrun hjob hrunning huser

theorem ReadEnding.exec_update (h : ReadEnding s .update block) :
    exec .backgroundReadComplete s = .next (s.readEnded.intakeBlock block).startNext := by
  obtain ⟨hrun, j, hjob, hrunning, huser, rfl⟩ := h
  show execBackgroundReadComplete s = _
  rw [execBackgroundReadComplete, whenRunning_eq hrun]
  simp only [hjob, hrunning, if_true, huser]
  rfl

end reads

/-! ## Cancelled reads (R45) -/

/-- No job of the requester is left, and the rest of the storage link stays, but for the link itself. -/
theorem State.cancelRead_leaves (s : State) (user : JobUser) :
    ∃ x : Storage, s.cancelRead user = { s with storage := x } ∧ (∀ j, x.job = some j → j.user ≠ user) ∧
      { x with job := s.storage.job, link := s.storage.link } = s.storage := by
  unfold State.cancelRead
  split
  · rename_i hnone
    exact ⟨s.storage, rfl, fun j hj => (nomatch hnone.symm.trans hj), rfl⟩
  · rename_i i hi
    split
    · exact ⟨_, rfl, nofun, rfl⟩
    · rename_i hother
      refine ⟨s.storage, rfl, fun j hj => ?_, rfl⟩
      obtain rfl := Option.some.inj (hi.symm.trans hj)
      exact hother

/-! ## Blocks of an image (R59, R102) -/

/-- The digest job over a block, with finish set for the last one. -/
def Pipe.digestJob (p : Pipe) (block : List Byte) : JobKind := .digest p.absorbed block (decide (p.stop ≤ p.next))

/-- The pipe once a block is in its digest job and the next block is asked for. -/
def Pipe.taken (p : Pipe) : Pipe :=
  { p with waiting := none, jobOut := true, next := if p.next < p.stop then p.next + min 4096 (p.stop - p.next) else p.next }

/-- The background job once the next block is asked for, where one is left. -/
def Pipe.nextRead (p : Pipe) (user : JobUser) (base : Nat) (left : Option BackgroundJob) : Option BackgroundJob :=
  if p.next < p.stop then some ⟨user, base + p.next, min 4096 (p.stop - p.next), base + p.next, [], false⟩ else left

theorem State.pipeDigest_eq (s : State) (r : Requester) (user : JobUser) (base : Nat) (p : Pipe) (block : List Byte) :
    s.pipeDigest r user base p block =
      ({ s.enqueueJob r (p.digestJob block) with storage := { s.storage with job := p.nextRead user base s.storage.job } },
        p.taken) := by
  obtain ⟨x, hx⟩ := s.enqueueJob_touches r (p.digestJob block)
  unfold State.pipeDigest State.pipeRead Pipe.taken Pipe.nextRead
  rw [show s.enqueueJob r (.digest p.absorbed block (p.stop ≤ p.next)) = _ from hx, hx]
  by_cases hleft : p.next < p.stop
  · simp only [hleft, if_true]
    rfl
  · simp only [hleft, if_false]

theorem State.pipeDigest_pipe (s : State) (r : Requester) (user : JobUser) (base : Nat) (p : Pipe) (block : List Byte) :
    (s.pipeDigest r user base p block).2 = p.taken := by rw [State.pipeDigest_eq]

theorem State.pipeAbsorbed_waits {p : Pipe} (h : p.waiting = none) (s : State) (r : Requester) (user : JobUser) (base : Nat)
    (bytes : List Byte) :
    s.pipeAbsorbed r user base p bytes = (s, { p with absorbed := bytes, jobOut := false }) := by
  unfold State.pipeAbsorbed
  simp only [h]

theorem State.pipeAbsorbed_digests {p : Pipe} {block : List Byte} (h : p.waiting = some block) (s : State) (r : Requester)
    (user : JobUser) (base : Nat) (bytes : List Byte) :
    s.pipeAbsorbed r user base p bytes = s.pipeDigest r user base { p with absorbed := bytes, jobOut := false } block := by
  unfold State.pipeAbsorbed
  simp only [h]

theorem Pipe.takesBlock {t : State} {user : JobUser} {base : Nat} {p : Pipe} {left : Option BackgroundJob} (block : List Byte)
    (h : t.storage.job = p.nextRead user base left) : TakesBlock t user base p p.taken block (p.digestJob block) left := by
  refine ⟨rfl, fun hlast => ?_, fun hmore => ?_⟩
  · have hlast := Nat.not_lt.2 hlast
    exact ⟨by simp [Pipe.taken, hlast], h.trans (if_neg hlast)⟩
  · exact ⟨by simp [Pipe.taken, hmore], h.trans (if_pos hmore)⟩

/-- The first block of an image with at least one byte. -/
theorem State.pipeRead_start (s : State) (user : JobUser) (base : Nat) {length : Nat} (h : 1 ≤ length) :
    s.pipeRead user base (Pipe.start length) =
      (s.submitRead user (base + 0x1000) (min 4096 length), ⟨0x1000 + min 4096 length, 0x1000 + length, none, [], false⟩) := by
  unfold State.pipeRead Pipe.start Pipe.blockLength
  rw [if_pos (by exact Nat.lt_add_of_pos_right h)]
  simp only [Nat.add_sub_cancel_left]

theorem lengthOk_iff {s : State} {m : Manifest} : lengthOk s.slotSize m.length = true ↔ LengthInRange s m := by
  simp [lengthOk, LengthInRange]

theorem State.activeKey_some {s : State} {k : Fin 4} (h : s.store.working.updateKeys[k].state = .active) :
    s.activeKey k = some s.store.working.updateKeys[k].pub := if_pos h

theorem State.activeKey_none {s : State} {k : Fin 4} (h : s.store.working.updateKeys[k].state ≠ .active) :
    s.activeKey k = none := if_neg h

end Sys2Proof.Machine
end


section
/-! # The verification of a slot

The restart controller's checks 1 to 6 of a slot (R59 to R61), from the end of the manifest's digest job to the record write. -/

namespace Sys2Proof.Machine

open Sys2Proof

section verify

variable {s : State} {v : Verify} {m : Manifest} {md : Digest} {p : Pipe} {block : List Byte}

/-! ## A rejection -/

/-- A check that fails at the end of a job rejects the slot (R61). -/
theorem State.rejectSlot_leaves (hd : s.crypto.deferred = []) (v : Verify) (md : Digest) (reason : SlotResult) :
    RejectsSlot s ((s.jobEnded.rejectSlot v md reason).enterDeferred .restart).startNext v md reason := by
  obtain ⟨x, hx, hjob, hstorage⟩ := s.jobEnded.cancelRead_leaves .restart
  unfold State.rejectSlot
  rw [hx]
  obtain ⟨hfifo, hframe⟩ := State.jobEnd_leaves (s := s) (r := .restart) (more := []) hd
    (u := ((State.setResult { s.jobEnded with storage := x } v.slot reason).enqueueWrite .restart
      (.slotReject v.slot md)).setRestartWork (.writeRecord v)) (by rw [List.append_nil]; rfl)
  have ht : ∀ t : State, t.storage = x → (∀ j, t.storage.job = some j → j.user ≠ .restart) ∧
      { t.storage with job := s.storage.job, link := s.storage.link } = s.storage := by
    rintro t rfl
    exact ⟨hjob, hstorage⟩
  obtain ⟨hgone, hkept⟩ := ht _ (congrArg (·.storage) hframe)
  exact ⟨congrArg (·.restart) hframe, congrArg (·.store) hframe, hgone, hkept, hfifo.trans (List.append_nil _),
    congrArg (fun t : State =>
      { t with restart := s.restart, store := s.store, storage := s.storage, crypto := s.crypto, draws := s.draws }) hframe⟩

/-! ## The equations of the checks -/

theorem State.restartJob_manifest (h : s.restart.work = .manifestDigest v block) (md : Digest) :
    s.restartJob (.digest md) = s.verifyManifest v block md := by
  unfold State.restartJob
  rw [h]

theorem State.restartJob_signature (h : s.restart.work = .signature v m md p) (ok : Bool) :
    s.restartJob (.valid ok) = s.verifySignature v m md p ok := by
  unfold State.restartJob
  rw [h]

theorem State.restartJob_image (h : s.restart.work = .image v m md p) (d : Digest) :
    s.restartJob (.digest d) = s.verifyImage v m md d := by
  unfold State.restartJob
  rw [h]

theorem State.restartJob_absorbed (h : s.restart.work = .image v m md p) (bytes : List Byte) :
    s.restartJob (.absorbed bytes) =
      (s.pipeAbsorbed .restart .restart (s.slotBase v.slot) p bytes).1.setRestartWork
        (.image v m md (s.pipeAbsorbed .restart .restart (s.slotBase v.slot) p bytes).2) := by
  unfold State.restartJob
  rw [h]

theorem State.verifyManifest_unparsed (h : Manifest.parse block = none) (v : Verify) (md : Digest) :
    s.verifyManifest v block md = s.rejectSlot v md .manifestFormat := by
  unfold State.verifyManifest
  rw [h]

theorem State.verifyManifest_unusable (h : Manifest.parse block = some m)
    (hkey : s.store.working.updateKeys[m.signer].state ≠ .active) (v : Verify) (md : Digest) :
    s.verifyManifest v block md = s.rejectSlot v md .keyUnusable := by
  unfold State.verifyManifest
  simp only [h, State.activeKey_none hkey]

/-- Checks 1 and 2 passed: the first image block is asked for where the length lies in range, and the signature is checked (R59). -/
theorem State.verifyManifest_passes (h : Manifest.parse block = some m)
    (hkey : s.store.working.updateKeys[m.signer].state = .active) (v : Verify) (md : Digest) :
    ∃ q x, s.verifyManifest v block md =
        (State.enqueueJob { s with storage := x } .restart
          (.signatureCheck s.store.working.updateKeys[m.signer].pub m.body m.signature)).setRestartWork (.signature v m md q) ∧
      (LengthInRange s m →
        q = ⟨0x1000 + min 4096 m.length, 0x1000 + m.length, none, [], false⟩ ∧
          x = { s.storage with
            job := some ⟨.restart, s.slotBase v.slot + 0x1000, min 4096 m.length, s.slotBase v.slot + 0x1000, [], false⟩ }) ∧
      (¬ LengthInRange s m → x = s.storage) := by
  unfold State.verifyManifest
  simp only [h, State.activeKey_some hkey]
  by_cases hlen : LengthInRange s m
  · rw [if_pos (lengthOk_iff.2 hlen), State.pipeRead_start _ _ _ hlen.1]
    exact ⟨_, _, rfl, fun _ => ⟨rfl, rfl⟩, fun hout => absurd hlen hout⟩
  · rw [if_neg fun hok => hlen (lengthOk_iff.1 hok)]
    exact ⟨_, _, rfl, fun hin => absurd hin hlen, fun _ => rfl⟩

theorem State.verifySignature_invalid (v : Verify) (m : Manifest) (md : Digest) (p : Pipe) :
    s.verifySignature v m md p false = s.rejectSlot v md .signature := if_pos nofun

theorem State.verifySignature_length (h : ¬ LengthInRange s m) (v : Verify) (md : Digest) (p : Pipe) :
    s.verifySignature v m md p true = s.rejectSlot v md .length := by
  unfold State.verifySignature
  rw [if_neg (not_not_intro rfl), if_pos fun hok => h (lengthOk_iff.1 hok)]

/-- Checks 3 and 4 passed: a block that is there enters the image digest (R59). -/
theorem State.verifySignature_passes (h : LengthInRange s m) (v : Verify) (md : Digest) (p : Pipe) :
    (p.waiting = none → s.verifySignature v m md p true = s.setRestartWork (.image v m md p)) ∧
      ∀ block, p.waiting = some block →
        s.verifySignature v m md p true =
          (s.pipeDigest .restart .restart (s.slotBase v.slot) p block).1.setRestartWork (.image v m md p.taken) := by
  unfold State.verifySignature
  rw [if_neg (not_not_intro rfl), if_neg (not_not_intro (lengthOk_iff.2 h))]
  refine ⟨fun hnone => by rw [hnone], fun block hsome => ?_⟩
  simp only [hsome, State.pipeDigest_pipe]

/-! ## What the image digest's steps leave -/

/-- No block is there for the next digest job. -/
theorem State.imageWaits_leaves (hd : s.crypto.deferred = []) (v : Verify) (m : Manifest) (md : Digest) (p : Pipe) {t : State}
    (ht : t = ((s.jobEnded.setRestartWork (.image v m md p)).enterDeferred .restart).startNext) :
    t.restart = { s.restart with work := .image v m md p } ∧ t.crypto.fifo = s.crypto.queue ∧ t.storage = s.storage ∧
      { t with restart := s.restart, crypto := s.crypto, storage := s.storage, draws := s.draws } = s := by
  obtain ⟨hfifo, hframe⟩ := State.jobEnd_leaves (s := s) (r := .restart) (more := []) hd
    (u := s.jobEnded.setRestartWork (.image v m md p)) (by rw [List.append_nil]; rfl)
  rw [ht]
  exact ⟨congrArg (·.restart) hframe, hfifo.trans (List.append_nil _), congrArg (·.storage) hframe, congrArg (fun t : State =>
    { t with restart := s.restart, crypto := s.crypto, storage := s.storage, draws := s.draws }) hframe⟩

/-- The block that is there enters the next digest job, and the next one is asked for. -/
theorem State.imageDigest_leaves (hd : s.crypto.deferred = []) (hq : ∀ j ∈ s.crypto.queue, j.requester ≠ .restart) (v : Verify)
    (m : Manifest) (md : Digest) (p : Pipe) (block : List Byte) {t : State}
    (ht : t = (((s.jobEnded.pipeDigest .restart .restart (s.slotBase v.slot) p block).1.setRestartWork
      (.image v m md p.taken)).enterDeferred .restart).startNext) :
    (∃ q job, t.restart = { s.restart with work := .image v m md q } ∧ t.crypto.fifo = s.crypto.queue ++ [⟨.restart, job⟩] ∧
      TakesBlock t .restart (s.slotBase v.slot) p q block job s.storage.job) ∧
      { t with restart := s.restart, crypto := s.crypto, storage := s.storage, draws := s.draws } = s := by
  rw [State.pipeDigest_eq, State.enqueueJob_alone (s := s.jobEnded) rfl hq] at ht
  obtain ⟨hfifo, hframe⟩ := State.jobEnd_leaves (s := s) (r := .restart) (more := [⟨.restart, p.digestJob block⟩]) hd
    (u := State.setRestartWork
      { s.jobEnded with
        crypto := { s.jobEnded.crypto with queue := s.jobEnded.crypto.queue ++ [⟨.restart, p.digestJob block⟩] }
        storage := { s.storage with job := p.nextRead .restart (s.slotBase v.slot) s.storage.job } }
      (.image v m md p.taken)) rfl
  rw [ht]
  exact ⟨⟨_, _, congrArg (·.restart) hframe, hfifo, Pipe.takesBlock block (congrArg (·.storage.job) hframe)⟩,
    congrArg (fun t : State =>
      { t with restart := s.restart, crypto := s.crypto, storage := s.storage, draws := s.draws }) hframe⟩

/-- Checks 1 and 2 passed at the end of the manifest's digest job (R59). -/
theorem State.verifyManifest_leaves (hd : s.crypto.deferred = []) (hq : ∀ j ∈ s.crypto.queue, j.requester ≠ .restart)
    (hsome : Manifest.parse block = some m) (hkey : s.store.working.updateKeys[m.signer].state = .active) {t : State}
    (ht : t = ((s.jobEnded.verifyManifest v block md).enterDeferred .restart).startNext) :
    ∃ p, t.restart = { s.restart with work := .signature v m md p } ∧
      t.crypto.fifo = s.crypto.queue ++
        [⟨.restart, .signatureCheck s.store.working.updateKeys[m.signer].pub m.body m.signature⟩] ∧
      (LengthInRange s m →
        p = ⟨0x1000 + min 4096 m.length, 0x1000 + m.length, none, [], false⟩ ∧
          t.storage = { s.storage with
            job := some ⟨.restart, s.slotBase v.slot + 0x1000, min 4096 m.length, s.slotBase v.slot + 0x1000, [], false⟩ }) ∧
      (¬ LengthInRange s m → t.storage = s.storage) ∧
      { t with restart := s.restart, crypto := s.crypto, storage := s.storage, draws := s.draws } = s := by
  obtain ⟨q, x, hverify, hin, hout⟩ := State.verifyManifest_passes (s := s.jobEnded) hsome hkey v md
  rw [State.enqueueJob_alone (by rfl) (by exact hq)] at hverify
  obtain ⟨hfifo, hframe⟩ := State.jobEnd_leaves (s := s) (r := .restart) (u := s.jobEnded.verifyManifest v block md)
    (more := [⟨.restart, .signatureCheck s.store.working.updateKeys[m.signer].pub m.body m.signature⟩]) hd (by rw [hverify]; rfl)
  rw [← ht, hverify] at hframe
  rw [← ht] at hfifo
  have hstorage := congrArg (·.storage) hframe
  exact ⟨q, congrArg (·.restart) hframe, hfifo, fun hlen => ⟨(hin hlen).1, hstorage.trans (hin hlen).2⟩,
    fun hlen => hstorage.trans (hout hlen), congrArg (fun t : State =>
      { t with restart := s.restart, crypto := s.crypto, storage := s.storage, draws := s.draws }) hframe⟩

/-! ## A block that has been read -/

theorem State.restartBlock_signature (h : s.restart.work = .signature v m md p) (block : List Byte) :
    s.restartBlock block = s.setRestartWork (.signature v m md { p with waiting := some block }) := by
  unfold State.restartBlock
  rw [h]

theorem State.restartBlock_behind (h : s.restart.work = .image v m md p) (hout : p.jobOut = true) (block : List Byte) :
    s.restartBlock block = s.setRestartWork (.image v m md { p with waiting := some block }) := by
  unfold State.restartBlock State.pipeBlock
  simp only [h, hout, if_true]

theorem State.restartBlock_digests (h : s.restart.work = .image v m md p) (hout : p.jobOut = false) (block : List Byte) :
    s.restartBlock block =
      (s.pipeDigest .restart .restart (s.slotBase v.slot) p block).1.setRestartWork (.image v m md p.taken) := by
  unfold State.restartBlock State.pipeBlock
  simp only [h, hout, Bool.false_eq_true, if_false, State.pipeDigest_eq]

end verify

/-- Settles O7: each step by the equations of its check, and what the end of the job or of the read leaves. -/
theorem slotChecksAreTakenInOrder : Obligations.SlotChecksAreTakenInOrder := by
  refine ⟨fun s v block md k h hwork => ?_, fun s v m md p k ok h hwork => ?_,
    fun s v m md p block h => ⟨fun hwait => ?_, fun hwork hout => ?_⟩, fun s v m md p k bytes h hwork => ?_⟩
  · obtain ⟨hrun, hjob, hd, hq⟩ := h
    have hexec := execCryptoJobEnd_restart hrun hjob
    rw [State.restartJob_manifest (s := s.jobEnded) hwork] at hexec
    refine ⟨_, hexec, fun hnone => ?_, fun m hsome => ⟨fun hkey => ?_, fun hkey => ?_⟩⟩
    · rw [State.verifyManifest_unparsed hnone]
      exact State.rejectSlot_leaves hd v md _
    · rw [State.verifyManifest_unusable (s := s.jobEnded) hsome hkey]
      exact State.rejectSlot_leaves hd v md _
    · exact State.verifyManifest_leaves hd hq hsome hkey rfl
  · obtain ⟨hrun, hjob, hd, hq⟩ := h
    have hexec := execCryptoJobEnd_restart hrun hjob
    rw [State.restartJob_signature (s := s.jobEnded) hwork] at hexec
    refine ⟨_, hexec, ?_, ?_, ?_⟩
    · rintro rfl
      rw [State.verifySignature_invalid]
      exact State.rejectSlot_leaves hd v md _
    · rintro rfl hlen
      rw [State.verifySignature_length (s := s.jobEnded) hlen]
      exact State.rejectSlot_leaves hd v md _
    · rintro rfl hlen
      obtain ⟨hnone, hsome⟩ := State.verifySignature_passes (s := s.jobEnded) hlen v md p
      cases hw : p.waiting with
      | none =>
        obtain ⟨hr, hf, hs, hframe⟩ := State.imageWaits_leaves hd v m md p rfl
        rw [hnone hw]
        exact ⟨fun _ => ⟨hr, hf, hs⟩, nofun, hframe⟩
      | some block =>
        obtain ⟨htakes, hframe⟩ := State.imageDigest_leaves hd hq v m md p block rfl
        rw [hsome block hw]
        refine ⟨nofun, ?_, hframe⟩
        rintro _ ⟨⟩
        exact htakes
  · rcases hwait with hwork | ⟨hwork, hout⟩
    · have hframe := State.startNext_frame (s.readEnded.setRestartWork (.signature v m md { p with waiting := some block }))
      refine ⟨_, h.exec_restart, ?_⟩
      rw [State.restartBlock_signature (s := s.readEnded) hwork, hwork]
      exact ⟨congrArg (·.restart) hframe, congrArg (·.storage) hframe, State.startNext_fifo _, congrArg (fun t : State =>
        { t with restart := s.restart, storage := s.storage, crypto := s.crypto, draws := s.draws }) hframe⟩
    · have hframe := State.startNext_frame (s.readEnded.setRestartWork (.image v m md { p with waiting := some block }))
      refine ⟨_, h.exec_restart, ?_⟩
      rw [State.restartBlock_behind (s := s.readEnded) hwork hout, hwork]
      exact ⟨congrArg (·.restart) hframe, congrArg (·.storage) hframe, State.startNext_fifo _, congrArg (fun t : State =>
        { t with restart := s.restart, storage := s.storage, crypto := s.crypto, draws := s.draws }) hframe⟩
  · have hqueues := s.readEnded.enqueueJob_queues .restart (p.digestJob block)
    obtain ⟨x, hx⟩ := s.readEnded.enqueueJob_touches .restart (p.digestJob block)
    have hexec := h.exec_restart
    rw [State.restartBlock_digests (s := s.readEnded) hwork hout, State.pipeDigest_eq, hx] at hexec
    rw [hx] at hqueues
    have hframe := State.startNext_frame (State.setRestartWork
      { s.readEnded with
        crypto := x, storage := { s.readEnded.storage with job := p.nextRead .restart (s.slotBase v.slot) none } }
      (.image v m md p.taken))
    exact ⟨_, _, _, hexec, congrArg (·.restart) hframe, QueuesJob.startNext (t := State.setRestartWork _ _) hqueues,
      Pipe.takesBlock block (congrArg (·.storage.job) hframe), congrArg (fun t : State =>
        { t with restart := s.restart, storage := s.storage, crypto := s.crypto, draws := s.draws }) hframe⟩
  · obtain ⟨hrun, hjob, hd, hq⟩ := h
    have hexec := execCryptoJobEnd_restart hrun hjob
    rw [State.restartJob_absorbed (s := s.jobEnded) hwork] at hexec
    refine ⟨_, hexec, ?_⟩
    rcases Option.eq_none_or_eq_some p.waiting with hw | ⟨block, hw⟩
    · obtain ⟨hr, hf, hs, hframe⟩ := State.imageWaits_leaves hd v m md { p with absorbed := bytes, jobOut := false } rfl
      rw [State.pipeAbsorbed_waits hw]
      exact ⟨fun _ => ⟨hr, hf, hs⟩, fun b hb => (nomatch hw.symm.trans hb), hframe⟩
    · obtain ⟨htakes, hframe⟩ := State.imageDigest_leaves hd hq v m md { p with absorbed := bytes, jobOut := false } block rfl
      rw [State.pipeAbsorbed_digests hw, State.pipeDigest_pipe]
      refine ⟨fun hnone => (nomatch hw.symm.trans hnone), fun b hb => ?_, hframe⟩
      obtain rfl := Option.some.inj (hw.symm.trans hb)
      exact htakes

end Sys2Proof.Machine
end


section
/-! # The end of a slot's verification, and the writes of the restart controller

The last digest of a slot and its record write (R59 to R62), and what the controller does when one of its writes has completed (R54,
R57 to R62, R88, R187). -/

namespace Sys2Proof.Machine

open Sys2Proof

/-! ## What a completion leaves of the store -/

section store

variable {s : State}

theorem State.answerWrite_store (s : State) (w : Write) (st : Status) (detail : Nat) (body : List Byte) :
    (s.answerWrite w st detail body).store = s.store := by
  unfold State.answerWrite
  split
  · split <;> rfl
  · rfl

theorem State.answerWrite_restart (s : State) (w : Write) (st : Status) (detail : Nat) (body : List Byte) :
    (s.answerWrite w st detail body).restart = s.restart := by
  unfold State.answerWrite
  split
  · split <;> rfl
  · rfl

theorem State.dropWriteClaim_store (s : State) (w : Write) : (s.dropWriteClaim w).store = s.store := by
  unfold State.dropWriteClaim
  split
  · rename_i c _
    obtain ⟨r, e⟩ := s.dropClaim_touches c
    rw [e]
  · rfl

/-- Outside RELEASED a trigger is ignored (R48). -/
theorem State.trigger_ignored (h : s.restart.phase ≠ .released) (cause : Cause) : s.trigger cause = s := if_neg h

theorem State.answerThenTrigger_store (h : s.restart.phase ≠ .released) (w : Write) (cause : Cause) :
    ((s.answerWrite w .ok 0 []).trigger cause).store = s.store := by
  rw [State.trigger_ignored (by rw [State.answerWrite_restart]; exact h), State.answerWrite_store]

theorem State.beginRelease_store (s : State) (trust : Trust) (halt : HaltReason) : (s.beginRelease trust halt).store = s.store := by
  obtain ⟨x, hx⟩ := (s.completeOutcome trust halt).enqueueJob_touches .restart (.extend 0 s.register0Input)
  unfold State.beginRelease
  rw [hx]
  rfl

theorem State.recordDone_store (s : State) (passed : Bool) : (s.recordDone passed).store = s.store := by
  unfold State.recordDone State.afterPass State.afterReject State.noSlot
  split
  · split
    · rw [State.beginRelease_store]
      split <;> rfl
    · split
      · rfl
      · split
        · rfl
        · exact s.beginRelease_store _ _
  · rfl

theorem State.loadDone_store (s : State) (w : Write) : (s.loadDone w).store = s.store := by
  unfold State.loadDone
  split
  · rw [State.dropWriteClaim_store, State.answerWrite_store]
  · split
    · split
      · split
        · rfl
        · rename_i c _ _
          obtain ⟨r, e⟩ := State.dropClaim_touches { s with xlat := { s.xlat with loadWaits := true } } c
          rw [e]
      · rfl
    · rw [State.dropWriteClaim_store, State.answerWrite_store]
      rfl

theorem State.serveAllStamps_store (s : State) : s.serveAllStamps.store = s.store := by
  obtain ⟨_, _, _, _, _, _, _, e⟩ := s.serveAllStamps_touches
  rw [e]

/-- Outside RELEASED no block that is told of a completed write touches the store (R187). -/
theorem State.writeDone_store (h : s.restart.phase ≠ .released) (w : Write) : (s.writeDone w).store = s.store := by
  unfold State.writeDone
  split
  · exact (congrArg (·.store) (State.tryHaltFlash_frame _)).trans (State.serveAllStamps_store _)
  · rfl
  · rfl
  · rfl
  · exact s.recordDone_store _
  · exact s.recordDone_store _
  · unfold State.openDone
    split
    · exact State.answerWrite_store _ _ _ _ _
    · exact s.answerWrite_store _ _ _ _
  · unfold State.commitDone
    dsimp only
    split
    · exact State.answerThenTrigger_store h w _
    · exact s.answerWrite_store _ _ _ _
  · exact s.answerWrite_store _ _ _ _
  · unfold State.confirmDone
    dsimp only
    rw [State.answerWrite_store]
    split <;> rfl
  · exact s.loadDone_store w
  · rw [State.dropWriteClaim_store, State.answerWrite_store]
  · rw [State.dropWriteClaim_store, State.answerWrite_store]
  · rw [State.dropWriteClaim_store, State.answerWrite_store]
  · exact State.answerThenTrigger_store h w _
  · exact s.answerWrite_store _ _ _ _
  · unfold State.mismatchDone
    dsimp only
    rw [State.answerWrite_store]
    split <;> rfl
  · unfold State.credGroupDone
    dsimp only
    split
    · rfl
    · rw [State.answerWrite_store]
      rfl
  · exact State.answerWrite_store _ _ _ _ _

/-- Behind what its block did, a completion touches the contexts, the alert unit, the engine and the count of draws. -/
theorem State.writeCompletes_touches (s : State) (w : TakenWrite) :
    ∃ r a x d, s.writeCompletes w =
      { (s.completed w).writeDone w.write with requests := r, alert := a, crypto := x, draws := d } := by
  obtain ⟨_, _, e0⟩ := ((s.completed w).writeDone w.write).finishReset_touches .c0
  obtain ⟨_, _, e1⟩ := (((s.completed w).writeDone w.write).finishReset .c0).finishReset_touches .c1
  obtain ⟨_, _, e2⟩ := ((((s.completed w).writeDone w.write).finishReset .c0).finishReset .c1).startNext_touches
  unfold State.writeCompletes
  rw [e2, e1, e0]
  exact ⟨_, _, _, _, rfl⟩

theorem State.writeCompletes_store {w : TakenWrite} (h : ((s.completed w).writeDone w.write).store = (s.completed w).store) :
    (s.writeCompletes w).store = ⟨w.values, w.values, s.store.queue, none⟩ := by
  obtain ⟨_, _, _, _, e⟩ := s.writeCompletes_touches w
  rw [e]
  exact h

/-- Where no CONTEXT_RESET waits, a completion leaves what its block did, and the next job starts. -/
theorem State.writeCompletes_untouched {w : TakenWrite} {u : State} (hdone : (s.completed w).writeDone w.write = u)
    (hrequests : u.requests = s.requests) (hnone : ∀ c r, (s.ctx c).request = some r → r.work ≠ .awaitDiscarded) :
    s.writeCompletes w = u.startNext := by
  have hwork (c : Ctx) : u.work? c ≠ some .awaitDiscarded := by
    intro hwork
    have hctx : u.ctx c = s.ctx c := congrArg (fun r => r.ctx.get c) hrequests
    unfold State.work? at hwork
    rw [hctx] at hwork
    obtain ⟨r, hr, he⟩ := Option.map_eq_some_iff.1 hwork
    exact hnone c r hr he
  unfold State.writeCompletes
  rw [hdone, State.finishReset_none (hwork .c0), State.finishReset_none (hwork .c1)]

end store

/-! ## The last digest of a slot (R59 to R61) -/

section last

variable {s : State}

/-- Every check passed: the record is to be written, and the storage link stays (R60, R61). -/
theorem State.passSlot_leaves (hd : s.crypto.deferred = []) (v : Verify) (m : Manifest) (md : Digest) {t : State}
    (ht : t = ((s.jobEnded.passSlot v m md).enterDeferred .restart).startNext) :
    t.crypto.fifo = s.crypto.queue ∧
      t.restart =
        { s.restart with
          work := .writeRecord v
          outcome := { s.restart.outcome with results := s.restart.outcome.results.set v.slot .pass } } ∧
      t.store = { s.store with queue := s.store.queue ++ [⟨.restart, .slotPass v.slot m.version md v.fallback, true⟩] } ∧
      t.storage = s.storage ∧
      { t with restart := s.restart, crypto := s.crypto, store := s.store, draws := s.draws } = s := by
  obtain ⟨hfifo, hframe⟩ := State.jobEnd_leaves (s := s) (r := .restart) (more := []) hd (u := s.jobEnded.passSlot v m md)
    (by rw [List.append_nil]; rfl)
  rw [ht]
  exact ⟨hfifo.trans (List.append_nil _), congrArg (·.restart) hframe, congrArg (·.store) hframe, congrArg (·.storage) hframe,
    congrArg (fun t : State => { t with restart := s.restart, crypto := s.crypto, store := s.store, draws := s.draws }) hframe⟩

/-- Checks 5 and 6 (R59). -/
theorem State.verifyImage_cases (s : State) (v : Verify) (m : Manifest) (md d : Digest) :
    (d ≠ m.digest → s.verifyImage v m md d = s.rejectSlot v md .digest) ∧
      (d = m.digest → m.version < s.store.working.floor → s.verifyImage v m md d = s.rejectSlot v md .rollback) ∧
      (d = m.digest → s.store.working.floor ≤ m.version → s.verifyImage v m md d = s.passSlot v m md) := by
  refine ⟨fun hdigest => if_pos hdigest, fun hdigest hfloor => ?_, fun hdigest hfloor => ?_⟩
  · exact (if_neg (not_not_intro hdigest)).trans (if_pos hfloor)
  · exact (if_neg (not_not_intro hdigest)).trans (if_neg (Nat.not_lt.2 hfloor))

end last

/-! ## The writes of a slot's record (R60 to R62) -/

section records

variable {s : State} {w : TakenWrite} {v : Verify}

theorem State.writeDone_slotReject {w : Write} {k : Slot} {md : Digest} (hk : w.kind = .slotReject k md)
    (hwork : s.restart.work = .writeRecord v) : s.writeDone w = s.afterReject v := by
  unfold State.writeDone State.recordDone
  rw [hk, hwork]
  rfl

theorem State.writeDone_slotPass {w : Write} {k : Slot} {n : Nat} {md : Digest} {f : Bool} (hk : w.kind = .slotPass k n md f)
    (hwork : s.restart.work = .writeRecord v) : s.writeDone w = s.afterPass v := by
  unfold State.writeDone State.recordDone
  rw [hk, hwork]
  rfl

theorem State.afterReject_cases (s : State) (v : Verify) :
    (v.fallback = false ∧ (s.store.working.records.get v.slot.other).state = .good →
        s.afterReject v = s.startVerify ⟨v.slot.other, true⟩) ∧
      (¬ (v.fallback = false ∧ (s.store.working.records.get v.slot.other).state = .good) →
        (s.store.working.strict = true → s.afterReject v = s.halt .noBootableSlot) ∧
          (s.store.working.strict = false → s.afterReject v = s.beginRelease .unverified .none)) := by
  unfold State.afterReject State.noSlot
  simp only [Bool.not_eq_true]
  refine ⟨fun h => if_pos h, fun h => ⟨fun hstrict => ?_, fun hstrict => ?_⟩⟩
  · exact (if_neg h).trans (if_pos hstrict)
  · exact (if_neg h).trans (if_neg (ne_true_of_eq_false hstrict))

/-- What register 0 is extended with (R55, R63). -/
theorem State.register0Input_eq (s : State) :
    s.register0Input =
      if s.store.working.stage = .field then (s.store.working.records.get s.store.working.selector).digest else 0 := by
  unfold State.register0Input State.inField
  simp only [decide_eq_true_eq]
  rfl

/-- The outcome record of a release or halt, with its trial attempts (R55, R64). -/
theorem State.outcomeAt_eq (s : State) (trust : Trust) (halt : HaltReason) :
    s.outcomeAt trust halt =
      { s.restart.outcome with
        selected := s.store.working.selector
        attemptsLeft :=
          if s.store.working.stage = .field ∧ (s.store.working.records.get s.store.working.selector).state = .trial then
            s.store.working.attempts
          else 0
        trust := trust, halt := halt } := by
  unfold State.outcomeAt State.inField State.attemptsLeft
  simp only [decide_eq_true_eq, ite_and]
  rfl

/-- The release behind a slot that passed (R60, R61). -/
theorem State.afterPass_eq (s : State) (v : Verify) :
    s.afterPass v =
      (s.setOutcome { s.restart.outcome with fallback := s.restart.outcome.fallback || v.fallback }).beginRelease
        (if v.fallback = false ∧ (s.store.working.records.get v.slot).state = .trial then .trial else .verified) .none := by
  obtain ⟨slot, fallback⟩ := v
  cases fallback with
  | false =>
    simp only [State.afterPass, Bool.false_eq_true, if_false, not_false_eq_true, true_and, Bool.or_false]
    rfl
  | true =>
    simp only [State.afterPass, if_true, not_true_eq_false, false_and, if_false, Bool.or_true, Bool.true_eq_false]

/-- A release that a completed record write begins (R60 to R64). -/
theorem State.writeCompletes_releases {u : State} {trust : Trust}
    (hdone : (s.completed w).writeDone w.write = u.beginRelease trust .none) {o : Outcome}
    (hu : u = { s.completed w with restart := { s.restart with outcome := o } })
    (hnone : ∀ c r, (s.ctx c).request = some r → r.work ≠ .awaitDiscarded) {d : Digest} {left : Nat}
    (hd : d = if w.values.stage = .field then (w.values.records.get w.values.selector).digest else 0)
    (hleft : left =
      if w.values.stage = .field ∧ (w.values.records.get w.values.selector).state = .trial then w.values.attempts else 0) :
    BeginsRelease s (s.writeCompletes w)
      { o with selected := w.values.selector, attemptsLeft := left, trust := trust, halt := .none } d := by
  obtain ⟨hjob, hrestart, hframe⟩ := u.beginRelease_queued trust .none
  have hrequests : (u.beginRelease trust .none).requests = s.requests :=
    ((congrArg (·.requests) (State.startNext_frame _)).symm.trans (congrArg (·.requests) hframe)).trans (by rw [hu]; rfl)
  have hinput : u.register0Input = d := by
    rw [hd, u.register0Input_eq, hu]
    rfl
  have houtcome : u.outcomeAt trust .none =
      { o with selected := w.values.selector, attemptsLeft := left, trust := trust, halt := .none } := by
    rw [hleft, u.outcomeAt_eq, hu]
    rfl
  rw [State.writeCompletes_untouched hdone hrequests hnone]
  rw [hinput] at hjob
  rw [houtcome] at hrestart
  rw [hu] at hjob hrestart hframe ⊢
  exact ⟨hrestart, hjob, congrArg (fun t : State => { t with restart := s.restart, store := s.store }) hframe⟩

/-- What the slot's record has as its digest once a record write has fixed it. -/
theorem digest_setRecord {k : Slot} {r : Retained} {x : SlotRecord} (hsel : r.selector = k) {d : Digest}
    (hfield : r.stage = .field)
    (hd : d = if (r.setRecord k x).stage = .field then ((r.setRecord k x).records.get (r.setRecord k x).selector).digest else 0) :
    d = x.digest := by
  subst hsel
  have hget : (r.setRecord r.selector x).records.get (r.setRecord r.selector x).selector = x := by
    show (r.records.set r.selector x).get r.selector = x
    cases r.selector <;> rfl
  rw [hd, if_pos (by exact hfield), hget]

end records

/-- Settles O8: the last digest by the two checks it is compared with; the record write by its kind, and by what may be booted. -/
theorem slotVerificationEnds : Obligations.SlotVerificationEnds := by
  refine ⟨fun s v m md d p k hrun hwork hjob hd => ?_, fun s w v d left hrun hfed htaken hwork hphase hnone hd hleft => ?_⟩
  · have hexec := execCryptoJobEnd_restart hrun hjob
    rw [State.restartJob_image (s := s.jobEnded) hwork] at hexec
    obtain ⟨hdigest, hrollback, hpass⟩ := s.jobEnded.verifyImage_cases v m md d
    by_cases hsame : d = m.digest
    · by_cases hfloor : m.version < s.store.working.floor
      · rw [hrollback hsame hfloor] at hexec
        obtain ⟨hrestart, hstore, hgone, hkept, hfifo, hframe⟩ := State.rejectSlot_leaves hd v md .rollback
        rw [if_neg (not_not_intro hsame), if_pos hfloor, if_pos (.inr hfloor)]
        exact ⟨_, hexec, hfifo, hrestart, hstore, fun _ hin => absurd hfloor (Nat.not_lt.2 hin), fun j hj _ => hgone j hj, hkept,
          hframe⟩
      · rw [hpass hsame (Nat.not_lt.1 hfloor)] at hexec
        obtain ⟨hfifo, hrestart, hstore, hstorage, hframe⟩ := State.passSlot_leaves hd v m md rfl
        have hneither : ¬ (d ≠ m.digest ∨ m.version < s.store.working.floor) := fun h =>
          h.elim (fun hne => hne hsame) hfloor
        rw [if_neg (not_not_intro hsame), if_neg hfloor, if_neg hneither]
        refine ⟨_, hexec, hfifo, hrestart, hstore, fun _ _ => hstorage, fun _ _ h => absurd h hneither, ?_, ?_⟩
        · rw [hstorage]
        · exact congrArg (fun t : State => { t with storage := s.storage }) hframe
    · rw [hdigest hsame] at hexec
      obtain ⟨hrestart, hstore, hgone, hkept, hfifo, hframe⟩ := State.rejectSlot_leaves hd v md .digest
      rw [if_pos hsame, if_pos (.inl hsame)]
      exact ⟨_, hexec, hfifo, hrestart, hstore, fun h => absurd h hsame, fun j hj _ => hgone j hj, hkept, hframe⟩
  · have hexec : exec .retainedWriteComplete s = .next (s.writeCompletes w) := execRetainedWriteComplete_taken hrun htaken
    have hreleased : s.restart.phase ≠ .released := by rw [hphase]; nofun
    refine ⟨_, hexec, State.writeCompletes_store (State.writeDone_store (s := s.completed w) hreleased w.write),
      fun k md hk => ⟨fun r hv hfield hsel => ?_, ?_⟩, fun k n md f hk => ⟨fun r hv hfield hsel => ?_, ?_⟩⟩
    · rw [hv] at hd
      exact digest_setRecord hsel hfield hd
    · have hdone := State.writeDone_slotReject (s := s.completed w) hk hwork
      obtain ⟨hfallback, hnoslot⟩ := (s.completed w).afterReject_cases v
      refine ⟨fun hgood => ?_, fun hnot => ⟨fun hstrict => ?_, fun hstrict => ?_⟩⟩
      · rw [hfallback hgood] at hdone
        rw [State.writeCompletes_untouched hdone rfl hnone, State.startNext_fed (by exact hfed)]
        exact ⟨rfl, rfl, rfl⟩
      · rw [(hnoslot hnot).1 hstrict] at hdone
        rw [State.writeCompletes_untouched hdone rfl hnone, State.startNext_fed (by exact hfed)]
        have houtcome := (s.completed w).outcomeAt_eq .unverified .noBootableSlot
        refine ⟨?_, rfl⟩
        rw [hleft]
        exact congrArg (fun o : Outcome =>
          { s.restart with phase := .halted .noBootableSlot, outcome := o, presenceHold := 0, work := .none }) houtcome
      · rw [(hnoslot hnot).2 hstrict] at hdone
        exact State.writeCompletes_releases hdone (o := s.restart.outcome) rfl hnone hd hleft
    · rw [hv] at hd
      have hactive : (if f = true then k else r.selector) = k := by
        rcases hsel with hf | hsel
        · exact if_pos hf
        · rw [hsel, ite_self]
      exact digest_setRecord (r := { r with selector := if f then k else r.selector }) hactive hfield hd
    · have hdone := State.writeDone_slotPass (s := s.completed w) hk hwork
      rw [State.afterPass_eq] at hdone
      exact State.writeCompletes_releases hdone rfl hnone hd hleft

end Sys2Proof.Machine
end


section
/-! # The writes of HELD and of slot selection

The boot count, the applied commit, the counted attempt and the revert (R54, R57, R58, R64, R88, R136 to R138). -/

namespace Sys2Proof.Machine

open Sys2Proof

section writes

variable {s : State} {w : TakenWrite}

/-! ## The boot count -/

/-- The state in which the completed boot count write serves the waiting stamps (R54, R137). -/
def State.bootCounted (s : State) (w : TakenWrite) : State :=
  { s.completed w with time := { s.time with bootCounted := true } }

theorem State.writeDone_bootCount (hk : w.write.kind = .bootCount) :
    (s.completed w).writeDone w.write = (s.bootCounted w).serveAllStamps.tryHaltFlash := by
  unfold State.writeDone
  rw [hk]
  rfl

theorem State.serveStamps_none (h : s.time.waiting = []) (n : Nat) : s.serveStamps n = s := by
  cases n with
  | zero => rfl
  | succ n =>
    unfold State.serveStamps
    rw [h]

/-- A part without a capacity below 32 MiB, or with its work of HELD done, does not halt for it (R54). -/
theorem State.tryHaltFlash_stays
    (h : s.restart.work ≠ .held true ∨ s.storage.capacity = none ∨ ∃ n, s.storage.capacity = some n ∧ flashSize ≤ n) :
    s.tryHaltFlash = s := by
  rcases h with hwork | hnone | ⟨n, hsome, hlarge⟩
  · unfold State.tryHaltFlash
    split
    · rename_i hheld _
      exact absurd hheld hwork
    · rfl
  · unfold State.tryHaltFlash
    split
    · rename_i hsome
      exact nomatch hnone.symm.trans hsome
    · rfl
  · exact State.tryHaltFlash_full hsome hlarge

/-- A hit that waited for the boot count is recorded with the first stamp of the power cycle, and has no action (R137, R138). -/
theorem State.bootCounted_serves {h : PendingHit} (hfed : s.EngineFed) (htime : s.time.waiting = [.hit])
    (hwatch : s.watch.waiting = [h]) (hlast : s.time.lastStamp = none) (htick : s.time.tick ≠ 0xFFFFFFFFFFFF)
    (hboot : w.values.bootCount ≠ 0xFFFFFFFF) (ha : h.alert = false) (hd : h.degrade = false) (he : h.endsHold = false) :
    (s.bootCounted w).serveAllStamps.startNext =
      { s.bootCounted w with
        watch :=
          Watch.add { s.watch with waiting := [] }
            ⟨⟨w.values.bootCount, s.time.tick, 0⟩, h.start, h.kind, h.region, h.entry⟩
        time :=
          { s.time with bootCounted := true, waiting := [], lastStamp := some ⟨w.values.bootCount, s.time.tick, 0⟩ } } := by
  have hexhausted : (s.bootCounted w).stampsExhausted = false := by
    have hne : ¬ (s.bootCounted w).time.tick = tickMax := htick
    have hcount : ¬ (s.bootCounted w).wc.bootCount = 0xFFFFFFFF := hboot
    simp [State.stampsExhausted, hne, hcount]
  have hnext : (s.bootCounted w).nextStamp = some ⟨w.values.bootCount, s.time.tick, 0⟩ := by
    have hcounted : (s.bootCounted w).time.bootCounted = true := rfl
    unfold State.nextStamp
    rw [if_neg (not_not_intro hcounted), show (s.bootCounted w).time.lastStamp = none from hlast]
    rfl
  rw [State.serveHold (s := s.bootCounted w) (by exact hfed) hwatch htime hexhausted hnext]
  exact State.hitActions_none _ ha hd he

/-! ## Slot selection goes on -/

theorem State.writeDone_applyCommit (hk : w.write.kind = .applyCommit) :
    (s.completed w).writeDone w.write =
      (((s.completed w).setOutcome { s.restart.outcome with commitApplied := true }).setSession Session.resting).startVerify
        ⟨w.values.selector, false⟩ := by
  unfold State.writeDone
  rw [hk]
  rfl

theorem State.writeDone_countAttempt (hk : w.write.kind = .countAttempt) :
    (s.completed w).writeDone w.write = (s.completed w).startVerify ⟨w.values.selector, false⟩ := by
  unfold State.writeDone
  rw [hk]
  rfl

theorem State.writeDone_revert (hk : w.write.kind = .revert) :
    (s.completed w).writeDone w.write =
      ((s.completed w).setOutcome
        { s.restart.outcome with
          reverted := true, results := s.restart.outcome.results.set w.values.selector.other .trialExhausted }).startVerify
        ⟨w.values.selector, false⟩ := by
  unfold State.writeDone
  rw [hk]
  rfl

end writes

/-- Settles O51, by the kind of the write; for the boot count also by what waits for a stamp. -/
theorem restartWritesTellTheirBlock : Obligations.RestartWritesTellTheirBlock := by
  intro s w hrun hfed htaken hnone
  have hexec : exec .retainedWriteComplete s = .next (s.writeCompletes w) := execRetainedWriteComplete_taken hrun htaken
  refine ⟨_, hexec, fun hkind => State.writeCompletes_store ?_, fun hk hwait => ?_,
    fun h hk htime hwatch hlast htick hboot ha hd he => ?_, fun k hkind hsel => ?_⟩
  · rcases hkind with hk | hk | hk | hk
    · rw [State.writeDone_bootCount hk]
      exact (congrArg (·.store) (State.tryHaltFlash_frame _)).trans (State.serveAllStamps_store _)
    · rw [State.writeDone_applyCommit hk]
      rfl
    · rw [State.writeDone_countAttempt hk]
      rfl
    · rw [State.writeDone_revert hk]
      rfl
  · have hdone := State.writeDone_bootCount (s := s) hk
    rw [State.serveAllStamps, State.serveStamps_none (s := s.bootCounted w) hwait] at hdone
    have hframe := (s.bootCounted w).tryHaltFlash_frame
    have hfed' : (s.bootCounted w).tryHaltFlash.EngineFed := by
      rw [State.EngineFed, show State.crypto _ = _ from congrArg (·.crypto) hframe]
      exact hfed
    rw [State.writeCompletes_untouched hdone (congrArg (·.requests) hframe) hnone, State.startNext_fed hfed']
    refine ⟨congrArg (·.time) hframe, congrArg (fun t : State => { t with time := s.time, store := s.store }) hframe,
      fun n hwork hcap hlow => ?_, fun h => ?_⟩
    · rw [State.tryHaltFlash_low (s := s.bootCounted w) hcap hlow hwork rfl]
      exact ⟨rfl, rfl, rfl, rfl⟩
    · rw [State.tryHaltFlash_stays (s := s.bootCounted w) h]
      rfl
  · have hserved := State.bootCounted_serves (w := w) hfed htime hwatch hlast htick hboot ha hd he
    have hhalt := (s.bootCounted w).serveAllStamps.tryHaltFlash_frame
    have hstart := (s.bootCounted w).serveAllStamps.startNext_frame
    obtain ⟨_, _, _, _, htold⟩ := s.writeCompletes_touches w
    rw [htold, State.writeDone_bootCount hk]
    have hwatch' := (congrArg (·.watch) hhalt).trans ((congrArg (·.watch) hstart).symm.trans (congrArg (·.watch) hserved))
    have htime' := (congrArg (·.time) hhalt).trans ((congrArg (·.time) hstart).symm.trans (congrArg (·.time) hserved))
    exact ⟨congrArg (·.hits) hwatch', congrArg (·.waiting) hwatch', htime'⟩
  · subst hsel
    rcases hkind with hk | hk | hk
    · have hdone := State.writeDone_applyCommit (s := s) hk
      rw [State.writeCompletes_untouched hdone rfl hnone, State.startNext_fed (by exact hfed), hk]
      exact ⟨rfl, rfl, rfl, rfl⟩
    · have hdone := State.writeDone_countAttempt (s := s) hk
      rw [State.writeCompletes_untouched hdone rfl hnone, State.startNext_fed (by exact hfed), hk]
      exact ⟨rfl, rfl, rfl, rfl⟩
    · have hdone := State.writeDone_revert (s := s) hk
      rw [State.writeCompletes_untouched hdone rfl hnone, State.startNext_fed (by exact hfed), hk]
      exact ⟨rfl, rfl, rfl, rfl⟩

end Sys2Proof.Machine
end


section
/-! # The verification of the staged slot

The update intake's checks 1 to 10 of the staged slot (R94, R98 to R103), from the read of its manifest sector to the end of its image's
digest. -/

namespace Sys2Proof.Machine

open Sys2Proof

section intake

variable {s : State} {m : Manifest} {md : Digest} {p : Pipe} {block : List Byte}

/-! ## A failed check -/

theorem Storage.withoutUpdate_gone (x : Storage) : ∀ j, x.withoutUpdate.job = some j → j.user ≠ .update := fun j hj => by
  have hkept := (Option.filter_eq_some_iff.1 hj).2
  exact of_decide_eq_true hkept

theorem Crypto.without_others {q : List Job} {r : Requester} (hq : ∀ j ∈ q, j.requester ≠ r) :
    (⟨none, q, []⟩ : Crypto).without r = ⟨none, q, []⟩ := by
  have hfilter : q.filter (fun j => j.requester ≠ r) = q := List.filter_eq_self.2 fun j hj => decide_eq_true (hq j hj)
  unfold Crypto.without
  rw [hfilter]
  rfl

/-- A check that fails at the end of a job fails the session (R103). -/
theorem State.failSession_leaves (hd : s.crypto.deferred = []) (hq : ∀ j ∈ s.crypto.queue, j.requester ≠ .intake) (x : Session)
    (reason : FailReason) (detail : Nat) :
    FailsSession s ((((s.jobEnded.setSession x).failSession reason detail).enterDeferred .intake).kickStream.startNext) x reason
      detail := by
  generalize hu : (s.jobEnded.setSession x).failSession reason detail = u
  unfold State.failSession at hu
  rw [State.dropIntakeWork_eq] at hu
  have hcrypto : u.crypto = ⟨none, s.crypto.queue ++ [], s.crypto.deferred⟩ := by
    rw [← hu, List.append_nil]
    show (⟨none, s.crypto.queue, s.crypto.deferred⟩ : Crypto).without .intake = _
    rw [hd, Crypto.without_others hq]
  have hbuffer : u.intake.buffer = [] := by rw [← hu]; rfl
  obtain ⟨hfifo, hframe⟩ := State.intakeEnd_leaves hd hcrypto (State.kickStream_empty hbuffer)
  generalize (u.enterDeferred .intake).kickStream.startNext = t at hfifo hframe ⊢
  have hstorage : t.storage = s.storage.withoutUpdate := (congrArg (·.storage) hframe).trans (by rw [← hu]; rfl)
  have hintake : t.intake = u.intake := congrArg (·.intake) hframe
  have halert : t.alert = u.alert := congrArg (·.alert) hframe
  unfold FailsSession AlertChange
  rw [hintake, hstorage, halert]
  refine ⟨by rw [← hu]; rfl, by rw [← hu]; rfl, hbuffer, by rw [← hu]; rfl, by rw [← hu]; rfl,
    s.storage.withoutUpdate_gone, rfl, hfifo.trans (List.append_nil _), ?_, ?_⟩
  · rw [← hu]
    exact ⟨_, AlertStep.refl _ _, _, State.raise_step _ sourceUpdate, rfl⟩
  · rw [← hu] at hframe
    exact congrArg (fun t : State =>
      { t with intake := s.intake, storage := s.storage, crypto := s.crypto, alert := s.alert, draws := s.draws }) hframe

/-! ## The manifest sector (R94, R98) -/

theorem State.intakeBlock_manifest (h : s.intake.work = .readManifest) (block : List Byte) :
    s.intakeBlock block = (s.setIntakeWork (.flush block)).tryManifestDigest := by
  unfold State.intakeBlock
  rw [h]

/-- With no stream work left, the manifest's digest job is submitted (R98). -/
theorem State.tryManifestDigest_submits (hwork : s.intake.work = .flush block) (hbuffer : s.intake.buffer = [])
    (hstream : s.intake.streamJob = false) :
    s.tryManifestDigest = (s.enqueueJob .intake (.digest [] block true)).setIntakeWork (.manifestDigest block) := by
  unfold State.tryManifestDigest
  simp only [hwork]
  exact if_pos ⟨hbuffer, ne_true_of_eq_false hstream⟩

/-- Stream work that is left goes first (R98). -/
theorem State.tryManifestDigest_waits (h : s.intake.buffer ≠ [] ∨ s.intake.streamJob = true) : s.tryManifestDigest = s := by
  unfold State.tryManifestDigest
  split
  · exact if_neg fun ⟨hbuffer, hstream⟩ => h.elim (fun hne => hne hbuffer) hstream
  · rfl

theorem State.tryManifestDigest_none (h : s.intake.work = .none) : s.tryManifestDigest = s := by
  unfold State.tryManifestDigest
  rw [h]

theorem State.tryManifestDigest_touches (s : State) : ∃ x i, s.tryManifestDigest = { s with crypto := x, intake := i } := by
  unfold State.tryManifestDigest
  split
  · rename_i block _
    split
    · obtain ⟨x, e⟩ := s.enqueueJob_touches .intake (.digest [] block true)
      rw [e]
      exact ⟨_, _, rfl⟩
    · exact ⟨_, _, rfl⟩
  · exact ⟨_, _, rfl⟩

/-- The intake when a stream job has ended (R94). -/
def State.streamEnded (s : State) (bytes : List Byte) : State :=
  { s.jobEnded with intake := { s.intake with absorbed := bytes, streamJob := false } }

/-- A stream job has ended: the gathered bytes go next, then the manifest's digest job (R94, R98). -/
theorem State.intakeJob_stream (h : s.intake.streamJob = true) (bytes : List Byte) :
    s.jobEnded.intakeJob (.absorbed bytes) = (s.streamEnded bytes).kickStream.tryManifestDigest := if_pos h

/-- The end of a stream job touches the engine and the intake. -/
theorem State.streamEnd_frame (h : s.intake.streamJob = true) (bytes : List Byte) :
    { ((s.jobEnded.intakeJob (.absorbed bytes)).enterDeferred .intake).kickStream.startNext with
      intake := s.intake, crypto := s.crypto, draws := s.draws } = s := by
  obtain ⟨_, _, e0⟩ := (s.streamEnded bytes).kickStream_touches
  obtain ⟨_, _, e1⟩ := (s.streamEnded bytes).kickStream.tryManifestDigest_touches
  obtain ⟨_, _, e2⟩ := ((s.streamEnded bytes).kickStream.tryManifestDigest.enterDeferred .intake).kickStream_touches
  obtain ⟨_, _, e3⟩ := ((s.streamEnded bytes).kickStream.tryManifestDigest.enterDeferred .intake).kickStream.startNext_touches
  rw [State.intakeJob_stream h, e3, e2, e1, e0]
  rfl

/-- Bytes that gathered during a stream job go into the next one (R94). -/
theorem State.streamEnd_next (hd : s.crypto.deferred = []) (hq : ∀ j ∈ s.crypto.queue, j.requester ≠ .intake)
    (hstream : s.intake.streamJob = true) (hbroken : s.intake.session.broken = false) (hbuffer : s.intake.buffer ≠ [])
    (bytes : List Byte) {t : State}
    (ht : t = ((s.jobEnded.intakeJob (.absorbed bytes)).enterDeferred .intake).kickStream.startNext) :
    t.intake = { s.intake with absorbed := bytes, buffer := [] } ∧
      t.crypto.fifo = s.crypto.queue ++ [⟨.intake, .digest bytes s.intake.buffer false⟩] := by
  have hno : NoJob (s.streamEnded bytes) .intake := hq
  rw [State.intakeJob_stream hstream, State.kickStream_queues (s := s.streamEnded bytes) hbuffer hbroken hno,
    State.tryManifestDigest_waits (.inr rfl)] at ht
  obtain ⟨hfifo, hframe⟩ := State.intakeEnd_leaves (s := s) (more := [⟨.intake, .digest bytes s.intake.buffer false⟩])
    (u := { s.streamEnded bytes with
      crypto :=
        { s.jobEnded.crypto with queue := s.crypto.queue ++ [⟨.intake, .digest bytes s.intake.buffer false⟩] }
      intake := { s.intake with absorbed := bytes, buffer := [], streamJob := true } }) hd rfl (State.kickStream_empty rfl)
  rw [ht]
  refine ⟨(congrArg (·.intake) hframe).trans ?_, hfifo⟩
  rw [← hstream]

/-- With no bytes left, the manifest's digest job follows the last stream job (R98). -/
theorem State.streamEnd_manifest (hd : s.crypto.deferred = []) (hq : ∀ j ∈ s.crypto.queue, j.requester ≠ .intake)
    (hstream : s.intake.streamJob = true) (hbuffer : s.intake.buffer = []) (hwork : s.intake.work = .flush block)
    (bytes : List Byte) {t : State}
    (ht : t = ((s.jobEnded.intakeJob (.absorbed bytes)).enterDeferred .intake).kickStream.startNext) :
    t.intake = { s.intake with absorbed := bytes, streamJob := false, work := .manifestDigest block } ∧
      t.crypto.fifo = s.crypto.queue ++ [⟨.intake, .digest [] block true⟩] := by
  rw [State.intakeJob_stream hstream, State.kickStream_empty (s := s.streamEnded bytes) hbuffer,
    State.tryManifestDigest_submits (s := s.streamEnded bytes) hwork hbuffer rfl,
    State.enqueueJob_alone (s := s.streamEnded bytes) rfl hq] at ht
  obtain ⟨hfifo, hframe⟩ := State.intakeEnd_leaves (s := s) (more := [⟨.intake, .digest [] block true⟩])
    (u := { s.jobEnded with
      crypto := { s.jobEnded.crypto with queue := s.crypto.queue ++ [⟨.intake, .digest [] block true⟩] }
      intake := { s.intake with absorbed := bytes, streamJob := false, work := .manifestDigest block } }) hd rfl
    (State.kickStream_empty hbuffer)
  rw [ht]
  exact ⟨congrArg (·.intake) hframe, hfifo⟩

/-- With no bytes left and no verification begun, nothing follows the last stream job. -/
theorem State.streamEnd_rests (hd : s.crypto.deferred = []) (hstream : s.intake.streamJob = true) (hbuffer : s.intake.buffer = [])
    (hwork : s.intake.work = .none) (bytes : List Byte) {t : State}
    (ht : t = ((s.jobEnded.intakeJob (.absorbed bytes)).enterDeferred .intake).kickStream.startNext) :
    t.intake = { s.intake with absorbed := bytes, streamJob := false } ∧ t.crypto.fifo = s.crypto.queue := by
  rw [State.intakeJob_stream hstream, State.kickStream_empty (s := s.streamEnded bytes) hbuffer,
    State.tryManifestDigest_none (s := s.streamEnded bytes) hwork] at ht
  obtain ⟨hfifo, hframe⟩ := State.intakeEnd_leaves (s := s) (more := [])
    (u := s.streamEnded bytes) hd
    (by rw [List.append_nil]; rfl) (State.kickStream_empty hbuffer)
  rw [ht]
  exact ⟨congrArg (·.intake) hframe, hfifo.trans (List.append_nil _)⟩

end intake

end Sys2Proof.Machine
end


section
/-! # The checks of the staged manifest

Checks 1 to 8 of the staged slot in their order, and the path of check 9 (R98 to R101). -/

namespace Sys2Proof.Machine

open Sys2Proof

section checks

variable {s : State} {m : Manifest} {md : Digest} {block : List Byte}

/-! ## Checks 1 and 2 -/

theorem State.intakeJob_manifest (hstream : s.intake.streamJob = false) (hwork : s.intake.work = .manifestDigest block)
    (md : Digest) : s.intakeJob (.digest md) = s.checkManifest block md := by
  unfold State.intakeJob
  rw [if_neg (ne_true_of_eq_false hstream), hwork]

theorem State.checkManifest_unparsed (h : Manifest.parse block = none) (md : Digest) :
    s.checkManifest block md = s.failSession .manifestFormat 0 := by
  unfold State.checkManifest
  rw [h]

theorem State.checkManifest_unusable (h : Manifest.parse block = some m)
    (hkey : s.store.working.updateKeys[m.signer].state ≠ .active) (md : Digest) :
    s.checkManifest block md = s.failSession .keyUnusable 0 := by
  unfold State.checkManifest
  simp only [h, State.activeKey_none hkey]

theorem State.checkManifest_passes (h : Manifest.parse block = some m)
    (hkey : s.store.working.updateKeys[m.signer].state = .active) (md : Digest) :
    s.checkManifest block md =
      (s.enqueueJob .intake (.signatureCheck s.store.working.updateKeys[m.signer].pub m.body m.signature)).setIntakeWork
        (.signature m md) := by
  unfold State.checkManifest
  simp only [h, State.activeKey_some hkey]

/-! ## Check 5: the carried table (R100) -/

theorem State.checkCarried_invalid {u : Table} {detail : Nat} (hu : m.table = some u) (hfail : u.firstFailure = some detail) :
    s.checkCarried m = some (.tableInvalid, detail) := by
  unfold State.checkCarried
  simp only [hu, hfail]

theorem State.tableInForce_some {u : Table} : s.tableInForce = some u ↔ ∃ slot, s.xlat.inForce = .table slot u := by
  unfold State.tableInForce
  cases s.xlat.inForce <;> simp

/-- The geometry of the carried table is that of the table in force (R100). -/
def SameGeometry (u w : Table) : Prop := (u.baseA, u.baseB, u.slotSize) = (w.baseA, w.baseB, w.slotSize)

theorem State.checkCarried_geometry {u : Table} (hu : m.table = some u) (hvalid : u.firstFailure = none)
    (hdiffers : ∀ slot w, s.xlat.inForce = .table slot w → ¬ SameGeometry u w) : s.checkCarried m = some (.geometry, 0) := by
  unfold State.checkCarried
  simp only [hu, hvalid]
  split
  · rename_i w hw
    obtain ⟨slot, hforce⟩ := State.tableInForce_some.1 hw
    refine if_neg fun ⟨ha, hb, hsize⟩ => hdiffers slot w hforce ?_
    rw [SameGeometry, ha, hb, hsize]
  · rfl

theorem State.checkCarried_passes
    (h : ∀ u, m.table = some u → u.firstFailure = none ∧ ∃ slot w, s.xlat.inForce = .table slot w ∧ SameGeometry u w) :
    s.checkCarried m = none := by
  unfold State.checkCarried
  split
  · rfl
  · rename_i u hu
    obtain ⟨hvalid, slot, w, hforce, hsame⟩ := h u hu
    obtain ⟨ha, hrest⟩ := Prod.mk.inj hsame
    simp only [hvalid, State.tableInForce_some.2 ⟨slot, hforce⟩]
    exact if_pos ⟨ha, Prod.mk.inj hrest⟩

/-! ## Checks 7 and 8 (R100, R101) -/

theorem pairwise_ne_iff {α β : Type} [BEq β] [LawfulBEq β] (f : α → β) (l : List α) :
    pairwise (fun a b => f a != f b) l = true ↔ (l.map f).Nodup := by
  induction l with
  | nil => simp [pairwise]
  | cons x xs ih =>
    have hfresh : (xs.all fun b => f x != f b) = true ↔ f x ∉ xs.map f := by
      simp only [List.all_eq_true, bne_iff_ne, List.mem_map, not_exists, not_and]
      exact ⟨fun h y hy he => h y hy he.symm, fun h y hy he => h y hy he.symm⟩
    rw [pairwise, Bool.and_eq_true, List.map_cons, List.nodup_cons, ih, hfresh]

theorem UpdateKey.not_held_iff (k : UpdateKey) (pub : PubKey) : (!k.held pub) = true ↔ (k.state ≠ .empty → k.pub ≠ pub) := by
  by_cases hk : k.state = .empty <;> simp [UpdateKey.held, hk]

theorem additionsOk_iff (keys : Vector UpdateKey 4) (adds : List (Fin 4 × PubKey)) :
    additionsOk keys adds = true ↔
      (∀ a ∈ adds, keys[a.1].state ≠ .active ∧ ∀ j : Fin 4, keys[j].state ≠ .empty → keys[j].pub ≠ a.2) ∧
        (adds.map (·.2)).Nodup := by
  have hall (pub : PubKey) : (keys.toList.all fun k => !k.held pub) = true ↔
      ∀ j : Fin 4, keys[j].state ≠ .empty → keys[j].pub ≠ pub := by
    rw [List.all_eq_true]
    refine ⟨fun h j => (UpdateKey.not_held_iff _ _).1 (h keys[j] (by simp)), fun h k hk => ?_⟩
    obtain ⟨j, hj, rfl⟩ := Vector.mem_iff_getElem.1 (Vector.mem_toList_iff.1 hk)
    exact (UpdateKey.not_held_iff _ _).2 (h ⟨j, hj⟩)
  unfold additionsOk
  rw [Bool.and_eq_true, pairwise_ne_iff, List.all_eq_true]
  simp only [Bool.and_eq_true, decide_eq_true_eq, hall]

theorem Intake.sectorsReady_iff (x : Intake) (length : Nat) :
    x.sectorsReady length = true ↔ ∀ i, i * 0x1000 < 0x1000 + length → x.tracker.getD i .stale ≠ .stale := by
  have hcovered (i : Nat) : i < (0x1000 + length + 0xFFF) / 0x1000 ↔ i * 0x1000 < 0x1000 + length := by omega
  simp only [Intake.sectorsReady, List.all_eq_true, List.mem_range, decide_eq_true_eq, hcovered]

/-! ## Checks 3 to 8 in their order -/

theorem State.checkStaged_length (h : ¬ LengthInRange s m) : s.checkStaged m = some (.length, 0) :=
  if_pos fun hok => h (lengthOk_iff.1 hok)

theorem State.checkStaged_carried (h : LengthInRange s m) {f : FailReason × Nat} (hcarried : s.checkCarried m = some f) :
    s.checkStaged m = some f := by
  unfold State.checkStaged
  rw [if_neg (not_not_intro (lengthOk_iff.2 h)), hcarried]

/-- Behind check 5, the signer, the additions and the sectors (R100, R101). -/
theorem State.checkStaged_later (h : LengthInRange s m) (hcarried : s.checkCarried m = none) :
    s.checkStaged m =
      if m.signer ∈ m.changes.revocations then some (.revokeSigner, 0)
      else if additionsOk s.store.working.updateKeys m.changes.additions = false then some (.keyUnusable, 0)
      else if s.intake.sectorsReady m.length = false then some (.staleSectors, 0)
      else none := by
  unfold State.checkStaged
  rw [if_neg (not_not_intro (lengthOk_iff.2 h)), hcarried]
  simp only [List.contains_iff_mem, Bool.not_eq_true]
  rfl

theorem State.checkSignature_invalid (s : State) (m : Manifest) (md : Digest) :
    s.checkSignature m md false = s.failSession .signature 0 := if_pos nofun

theorem State.checkSignature_fails {f : FailReason × Nat} (h : s.checkStaged m = some f) (md : Digest) :
    s.checkSignature m md true = s.failSession f.1 f.2 := by
  unfold State.checkSignature
  rw [if_neg (not_not_intro rfl), h]

theorem State.checkSignature_passes (h : s.checkStaged m = none) (md : Digest) :
    s.checkSignature m md true = s.choosePath m md := by
  unfold State.checkSignature
  rw [if_neg (not_not_intro rfl), h]

theorem State.intakeJob_signature (hstream : s.intake.streamJob = false) (hwork : s.intake.work = .signature m md) (ok : Bool) :
    s.intakeJob (.valid ok) = s.checkSignature m md ok := by
  unfold State.intakeJob
  rw [if_neg (ne_true_of_eq_false hstream), hwork]

/-! ## Check 9 chooses its path (R101) -/

theorem State.choosePath_stream (hbroken : s.intake.session.broken = false)
    (hexpected : s.intake.session.expected = 0x1000 + m.length) (md : Digest) :
    s.choosePath m md =
      ((s.setSession { s.intake.session with path := .stream }).enqueueJob .intake
        (.digest s.intake.absorbed [] true)).setIntakeWork (.finishStream m md) :=
  if_pos ⟨ne_true_of_eq_false hbroken, hexpected⟩

theorem State.choosePath_readBack (h : s.intake.session.broken = true ∨ s.intake.session.expected ≠ 0x1000 + m.length)
    (hlen : LengthInRange s m) (md : Digest) :
    s.choosePath m md =
      ((s.setSession { s.intake.session with path := .readBack }).submitRead .update (s.stagedBase + 0x1000)
        (min 4096 m.length)).setIntakeWork
          (.readBack m md ⟨0x1000 + min 4096 m.length, 0x1000 + m.length, none, [], false⟩) := by
  unfold State.choosePath
  dsimp only
  rw [if_neg fun ⟨hwhole, heq⟩ => h.elim hwhole fun hne => hne heq, State.pipeRead_start _ _ _ hlen.1]

/-! ## What the ends of the checks' jobs leave -/

/-- Check 2 passed: the signature check is queued (R99). -/
theorem State.checkManifest_leaves (hd : s.crypto.deferred = []) (hq : ∀ j ∈ s.crypto.queue, j.requester ≠ .intake)
    (hsome : Manifest.parse block = some m) (hkey : s.store.working.updateKeys[m.signer].state = .active) {t : State}
    (ht : t = ((s.jobEnded.checkManifest block md).enterDeferred .intake).kickStream.startNext) :
    t.intake = { s.intake with work := .signature m md } ∧
      t.crypto.fifo = s.crypto.queue ++
        [⟨.intake, .signatureCheck s.store.working.updateKeys[m.signer].pub m.body m.signature⟩] ∧
      { t with intake := s.intake, crypto := s.crypto, draws := s.draws } = s := by
  rw [State.checkManifest_passes (s := s.jobEnded) hsome hkey, State.enqueueJob_alone (by rfl) (by exact hq)] at ht
  obtain ⟨hfifo, hframe⟩ := State.intakeEnd_leaves (s := s)
    (more := [⟨.intake, .signatureCheck s.store.working.updateKeys[m.signer].pub m.body m.signature⟩])
    (u := State.setIntakeWork
      { s.jobEnded with
        crypto :=
          { s.jobEnded.crypto with
            queue := s.crypto.queue ++
              [⟨.intake, .signatureCheck s.store.working.updateKeys[m.signer].pub m.body m.signature⟩] } }
      (.signature m md)) hd rfl (State.kickStream_behind (List.mem_append_right _ (List.mem_singleton.2 rfl)))
  rw [ht]
  exact ⟨congrArg (·.intake) hframe, hfifo,
    congrArg (fun t : State => { t with intake := s.intake, crypto := s.crypto, draws := s.draws }) hframe⟩

/-- Check 9 completes the running digest of the stream (R101). -/
theorem State.choosePath_stream_leaves (hd : s.crypto.deferred = []) (hq : ∀ j ∈ s.crypto.queue, j.requester ≠ .intake)
    (hbroken : s.intake.session.broken = false) (hexpected : s.intake.session.expected = 0x1000 + m.length) {t : State}
    (ht : t = ((s.jobEnded.choosePath m md).enterDeferred .intake).kickStream.startNext) :
    t.intake = { s.intake with session := { s.intake.session with path := .stream }, work := .finishStream m md } ∧
      t.crypto.fifo = s.crypto.queue ++ [⟨.intake, .digest s.intake.absorbed [] true⟩] ∧
      { t with intake := s.intake, crypto := s.crypto, draws := s.draws } = s := by
  rw [State.choosePath_stream (s := s.jobEnded) hbroken hexpected, State.enqueueJob_alone (by rfl) (by exact hq)] at ht
  obtain ⟨hfifo, hframe⟩ := State.intakeEnd_leaves (s := s) (more := [⟨.intake, .digest s.intake.absorbed [] true⟩])
    (u := State.setIntakeWork
      { s.jobEnded.setSession { s.intake.session with path := .stream } with
        crypto := { s.jobEnded.crypto with queue := s.crypto.queue ++ [⟨.intake, .digest s.intake.absorbed [] true⟩] } }
      (.finishStream m md)) hd rfl (State.kickStream_behind (List.mem_append_right _ (List.mem_singleton.2 rfl)))
  rw [ht]
  exact ⟨congrArg (·.intake) hframe, hfifo,
    congrArg (fun t : State => { t with intake := s.intake, crypto := s.crypto, draws := s.draws }) hframe⟩

/-- Check 9 reads the image back (R101, R102). -/
theorem State.choosePath_readBack_leaves (hd : s.crypto.deferred = []) (hbuffer : s.intake.buffer = [])
    (h : s.intake.session.broken = true ∨ s.intake.session.expected ≠ 0x1000 + m.length) (hlen : LengthInRange s m) {t : State}
    (ht : t = ((s.jobEnded.choosePath m md).enterDeferred .intake).kickStream.startNext) :
    t.intake =
        { s.intake with
          session := { s.intake.session with path := .readBack }
          work := .readBack m md ⟨0x1000 + min 4096 m.length, 0x1000 + m.length, none, [], false⟩ } ∧
      t.storage =
        { s.storage with
          job := some ⟨.update, s.stagedBase + 0x1000, min 4096 m.length, s.stagedBase + 0x1000, [], false⟩ } ∧
      t.crypto.fifo = s.crypto.queue ∧
      { t with intake := s.intake, crypto := s.crypto, storage := s.storage, draws := s.draws } = s := by
  have hpath := State.choosePath_readBack (s := s.jobEnded) h hlen md
  obtain ⟨hfifo, hframe⟩ := State.intakeEnd_leaves (s := s) (more := []) (u := s.jobEnded.choosePath m md) hd
    (by rw [hpath, List.append_nil]; rfl) (State.kickStream_empty (by rw [hpath]; exact hbuffer))
  rw [← ht, hpath] at hframe
  rw [← ht] at hfifo
  exact ⟨congrArg (·.intake) hframe, congrArg (·.storage) hframe, hfifo.trans (List.append_nil _), congrArg (fun t : State =>
    { t with intake := s.intake, crypto := s.crypto, storage := s.storage, draws := s.draws }) hframe⟩

end checks

/-- Settles O39: the read and the stream's end by what stream work is left, the checks by the first that fails. -/
theorem stagedManifestIsChecked : Obligations.StagedManifestIsChecked := by
  refine ⟨fun s block h hwork => ?_, fun s k bytes h hstream hbroken => ?_, fun s block md k h hstream hwork => ?_,
    fun s m md k ok h hstream hbuffer hwork => ?_⟩
  · have hexec := h.exec_update
    rw [State.intakeBlock_manifest (s := s.readEnded) hwork] at hexec
    generalize hu : s.readEnded.setIntakeWork (.flush block) = u at hexec
    obtain ⟨x, i, htouch⟩ := u.tryManifestDigest_touches
    have hframe := u.tryManifestDigest.startNext_frame
    refine ⟨_, hexec, ?_, fun hbuffer hstream => ?_, fun hleft => ?_, ?_⟩
    · rw [State.startNext_storage, htouch, ← hu]
      rfl
    · have hsubmits := State.tryManifestDigest_submits (s := u) (block := block) (by rw [← hu]; rfl) (by rw [← hu]; exact hbuffer)
        (by rw [← hu]; exact hstream)
      have hqueues := u.enqueueJob_queues .intake (.digest [] block true)
      obtain ⟨y, hy⟩ := u.enqueueJob_touches .intake (.digest [] block true)
      rw [State.startNext_intake, hsubmits, hy]
      rw [hy] at hqueues
      rw [← hu] at hqueues ⊢
      exact ⟨rfl, QueuesJob.startNext (t := State.setIntakeWork _ _) hqueues⟩
    · rw [State.startNext_intake, State.startNext_fifo, State.tryManifestDigest_waits (s := u) (by rw [← hu]; exact hleft), ← hu]
      exact ⟨rfl, rfl⟩
    · rw [htouch, ← hu] at hframe
      rw [htouch, ← hu]
      exact congrArg (fun t : State =>
        { t with storage := s.storage, intake := s.intake, crypto := s.crypto, draws := s.draws }) hframe
  · obtain ⟨hrun, hjob, hd, hq⟩ := h
    exact ⟨_, execCryptoJobEnd_intake hrun hjob,
      fun hbuffer => State.streamEnd_next hd hq hstream hbroken hbuffer bytes rfl,
      fun block hbuffer hwork => State.streamEnd_manifest hd hq hstream hbuffer hwork bytes rfl,
      fun hbuffer hwork => State.streamEnd_rests hd hstream hbuffer hwork bytes rfl, State.streamEnd_frame hstream bytes⟩
  · obtain ⟨hrun, hjob, hd, hq⟩ := h
    have hexec := execCryptoJobEnd_intake hrun hjob
    rw [State.intakeJob_manifest (s := s.jobEnded) hstream hwork] at hexec
    refine ⟨_, hexec, fun hnone => ?_, fun m hsome => ⟨fun hkey => ?_, fun hkey => ?_⟩⟩
    · rw [State.checkManifest_unparsed hnone]
      exact State.failSession_leaves hd hq s.intake.session _ _
    · rw [State.checkManifest_unusable (s := s.jobEnded) hsome hkey]
      exact State.failSession_leaves hd hq s.intake.session _ _
    · exact State.checkManifest_leaves hd hq hsome hkey rfl
  · obtain ⟨hrun, hjob, hd, hq⟩ := h
    have hexec := execCryptoJobEnd_intake hrun hjob
    rw [State.intakeJob_signature (s := s.jobEnded) hstream hwork] at hexec
    have hfails {reason : FailReason} {detail : Nat} (hcheck : s.jobEnded.checkStaged m = some (reason, detail)) :
        FailsSession s (((s.jobEnded.checkSignature m md true).enterDeferred .intake).kickStream.startNext) s.intake.session
          reason detail := by
      rw [State.checkSignature_fails hcheck]
      exact State.failSession_leaves hd hq s.intake.session _ _
    refine ⟨_, hexec, ?_, ?_, ?_⟩
    · rintro rfl
      rw [State.checkSignature_invalid]
      exact State.failSession_leaves hd hq s.intake.session _ _
    · rintro rfl hlen
      exact hfails (State.checkStaged_length (s := s.jobEnded) hlen)
    · rintro rfl hlen
      refine ⟨fun u detail hu hfail => ?_, fun u hu hvalid hdiffers => ?_, fun hcarried => ?_⟩
      · exact hfails (State.checkStaged_carried (s := s.jobEnded) hlen (State.checkCarried_invalid hu hfail))
      · exact hfails (State.checkStaged_carried (s := s.jobEnded) hlen (State.checkCarried_geometry hu hvalid hdiffers))
      · have hlater := State.checkStaged_later (s := s.jobEnded) hlen (State.checkCarried_passes hcarried)
        refine ⟨fun hrevoked => hfails (hlater.trans (if_pos hrevoked)), fun usable husable hkept => ?_⟩
        obtain rfl : usable = additionsOk s.store.working.updateKeys m.changes.additions :=
          Bool.eq_iff_iff.2 (husable.trans (additionsOk_iff _ _).symm)
        rw [if_neg hkept] at hlater
        refine ⟨fun hunusable => hfails (hlater.trans (if_pos hunusable)), fun hok => ⟨fun ⟨i, hi, hstale⟩ => ?_, fun hready => ?_⟩⟩
        · have hnot : s.intake.sectorsReady m.length = false :=
            Bool.eq_false_iff.2 fun hready => (Intake.sectorsReady_iff _ _).1 hready i hi hstale
          exact hfails (hlater.trans ((if_neg (ne_false_of_eq_true hok)).trans (if_pos hnot)))
        · have hsectors := (s.intake.sectorsReady_iff m.length).2 hready
          have hpasses : s.jobEnded.checkStaged m = none :=
            hlater.trans ((if_neg (ne_false_of_eq_true hok)).trans (if_neg (ne_false_of_eq_true hsectors)))
          rw [State.checkSignature_passes hpasses]
          exact ⟨fun hwhole hexpected => State.choosePath_stream_leaves hd hq hwhole hexpected rfl,
            fun hback => State.choosePath_readBack_leaves hd hbuffer hback hlen rfl⟩

end Sys2Proof.Machine
end


section
/-! # The image of the staged slot

The read-back of the staged image block by block, and the end of the image digest of either path (R101 to R103). -/

namespace Sys2Proof.Machine

open Sys2Proof

section image

variable {s : State} {m : Manifest} {md : Digest} {p : Pipe} {block : List Byte}

/-! ## The read-back (R102) -/

theorem State.intakeBlock_behind (h : s.intake.work = .readBack m md p) (hout : p.jobOut = true) (block : List Byte) :
    s.intakeBlock block = s.setIntakeWork (.readBack m md { p with waiting := some block }) := by
  unfold State.intakeBlock State.pipeBlock
  simp only [h, hout, if_true]

theorem State.intakeBlock_digests (h : s.intake.work = .readBack m md p) (hout : p.jobOut = false) (block : List Byte) :
    s.intakeBlock block =
      (s.pipeDigest .intake .update s.stagedBase p block).1.setIntakeWork (.readBack m md p.taken) := by
  unfold State.intakeBlock State.pipeBlock
  simp only [h, hout, Bool.false_eq_true, if_false, State.pipeDigest_pipe]

theorem State.intakeJob_absorbed (hstream : s.intake.streamJob = false) (hwork : s.intake.work = .readBack m md p)
    (bytes : List Byte) :
    s.intakeJob (.absorbed bytes) =
      ((s.setProgress bytes.length).pipeAbsorbed .intake .update s.stagedBase p bytes).1.setIntakeWork
        (.readBack m md ((s.setProgress bytes.length).pipeAbsorbed .intake .update s.stagedBase p bytes).2) := by
  unfold State.intakeJob
  rw [if_neg (ne_true_of_eq_false hstream), hwork]

/-- A digest job has ended, and no block is there for the next one. -/
theorem State.readBackWaits_leaves (hd : s.crypto.deferred = []) (hbuffer : s.intake.buffer = []) (q : Pipe) (n : Nat) {t : State}
    (ht : t = (((s.jobEnded.setProgress n).setIntakeWork (.readBack m md q)).enterDeferred .intake).kickStream.startNext) :
    t.intake = { s.intake with session := { s.intake.session with progress := n }, work := .readBack m md q } ∧
      t.crypto.fifo = s.crypto.queue ∧ t.storage = s.storage ∧
      { t with intake := s.intake, crypto := s.crypto, storage := s.storage, draws := s.draws } = s := by
  obtain ⟨hfifo, hframe⟩ := State.intakeEnd_leaves (s := s) (more := [])
    (u := (s.jobEnded.setProgress n).setIntakeWork (.readBack m md q)) hd (by rw [List.append_nil]; rfl)
    (State.kickStream_empty hbuffer)
  rw [ht]
  exact ⟨congrArg (·.intake) hframe, hfifo.trans (List.append_nil _), congrArg (·.storage) hframe, congrArg (fun t : State =>
    { t with intake := s.intake, crypto := s.crypto, storage := s.storage, draws := s.draws }) hframe⟩

/-- A digest job has ended, and the block that is there enters the next one. -/
theorem State.readBackDigest_leaves (hd : s.crypto.deferred = []) (hq : ∀ j ∈ s.crypto.queue, j.requester ≠ .intake)
    (hbuffer : s.intake.buffer = []) (p : Pipe) (block : List Byte) (n : Nat) {t : State}
    (ht : t = ((((s.jobEnded.setProgress n).pipeDigest .intake .update s.stagedBase p block).1.setIntakeWork
      (.readBack m md p.taken)).enterDeferred .intake).kickStream.startNext) :
    t.intake = { s.intake with session := { s.intake.session with progress := n }, work := .readBack m md p.taken } ∧
      t.crypto.fifo = s.crypto.queue ++ [⟨.intake, p.digestJob block⟩] ∧
      TakesBlock t .update s.stagedBase p p.taken block (p.digestJob block) s.storage.job ∧
      { t with intake := s.intake, crypto := s.crypto, storage := s.storage, draws := s.draws } = s := by
  rw [State.pipeDigest_eq, State.enqueueJob_alone (by rfl) (by exact hq)] at ht
  obtain ⟨hfifo, hframe⟩ := State.intakeEnd_leaves (s := s) (more := [⟨.intake, p.digestJob block⟩])
    (u := State.setIntakeWork
      { s.jobEnded.setProgress n with
        crypto := { s.jobEnded.crypto with queue := s.crypto.queue ++ [⟨.intake, p.digestJob block⟩] }
        storage := { s.storage with job := p.nextRead .update s.stagedBase s.storage.job } }
      (.readBack m md p.taken)) hd rfl (State.kickStream_empty hbuffer)
  rw [ht]
  exact ⟨congrArg (·.intake) hframe, hfifo, Pipe.takesBlock block (congrArg (·.storage.job) hframe), congrArg (fun t : State =>
    { t with intake := s.intake, crypto := s.crypto, storage := s.storage, draws := s.draws }) hframe⟩

/-! ## The image digest (R101, R103) -/

/-- The digest of either path: the session with the progress of a read-back (R102). -/
theorem State.intakeJob_image {x : Session} {d : Digest} (hstream : s.intake.streamJob = false)
    (h : s.intake.work = .finishStream m md ∧ x = s.intake.session ∨
      (∃ p, s.intake.work = .readBack m md p) ∧ x = { s.intake.session with progress := m.length }) :
    s.intakeJob (.digest d) = (s.setSession x).checkImage m md d := by
  unfold State.intakeJob
  rw [if_neg (ne_true_of_eq_false hstream)]
  rcases h with ⟨hwork, rfl⟩ | ⟨⟨p, hwork⟩, rfl⟩
  · rw [hwork]
    rfl
  · rw [hwork]
    rfl

/-- The image digest, then the floor (R101, R103). -/
theorem State.checkImage_cases (s : State) (m : Manifest) (md d : Digest) :
    (d ≠ m.digest → s.checkImage m md d = s.failSession .digest 0) ∧
      (d = m.digest → m.version < s.store.working.floor → s.checkImage m md d = s.failSession .rollback 0) ∧
      (d = m.digest → s.store.working.floor ≤ m.version →
        s.checkImage m md d =
          ((s.setIntakeWork .none).setSession
            { s.intake.session with
              state := .verified, manifest := some ⟨m.version, md, m.floorRaise, m.changes, m.table⟩ }).raise sourceUpdate) := by
  refine ⟨fun hdigest => if_pos hdigest, fun hdigest hfloor => ?_, fun hdigest hfloor => ?_⟩
  · exact (if_neg (not_not_intro hdigest)).trans (if_pos hfloor)
  · exact (if_neg (not_not_intro hdigest)).trans (if_neg (Nat.not_lt.2 hfloor))

/-- The staged slot is verified (R103). -/
theorem State.verified_leaves (hd : s.crypto.deferred = []) (hbuffer : s.intake.buffer = []) (x : Session) {t : State}
    (ht : t = ((((s.jobEnded.setIntakeWork .none).setSession x).raise sourceUpdate).enterDeferred .intake).kickStream.startNext) :
    t.intake = { s.intake with session := x, work := .none } ∧ t.crypto.fifo = s.crypto.queue ∧
      AlertChange s t 0 sourceUpdate ∧
      { t with intake := s.intake, crypto := s.crypto, alert := s.alert, draws := s.draws } = s := by
  obtain ⟨hfifo, hframe⟩ := State.intakeEnd_leaves (s := s) (more := [])
    (u := ((s.jobEnded.setIntakeWork .none).setSession x).raise sourceUpdate) hd (by rw [List.append_nil]; rfl)
    (State.kickStream_empty hbuffer)
  rw [ht]
  have halert := congrArg (·.alert) hframe
  refine ⟨congrArg (·.intake) hframe, hfifo.trans (List.append_nil _), ?_, congrArg (fun t : State =>
    { t with intake := s.intake, crypto := s.crypto, alert := s.alert, draws := s.draws }) hframe⟩
  unfold AlertChange
  rw [show State.alert _ = _ from halert]
  exact ⟨_, AlertStep.refl _ _, _, State.raise_step _ sourceUpdate, rfl⟩

end image

/-- Settles O40: the read-back by the job ahead and the block that waits, the image digest by its two checks. -/
theorem stagedImageIsChecked : Obligations.StagedImageIsChecked := by
  refine ⟨fun s m md p block h hwork => ⟨fun hout => ?_, fun hout => ?_⟩, fun s m md p k bytes h hstream hbuffer hwork => ?_,
    fun s m md d k x h hstream hbuffer hpath => ?_⟩
  · have hframe := State.startNext_frame (s.readEnded.setIntakeWork (.readBack m md { p with waiting := some block }))
    refine ⟨_, h.exec_update, ?_⟩
    rw [State.intakeBlock_behind (s := s.readEnded) hwork hout]
    exact ⟨congrArg (·.intake) hframe, congrArg (·.storage) hframe, State.startNext_fifo _, congrArg (fun t : State =>
      { t with intake := s.intake, storage := s.storage, crypto := s.crypto, draws := s.draws }) hframe⟩
  · have hqueues := s.readEnded.enqueueJob_queues .intake (p.digestJob block)
    obtain ⟨x, hx⟩ := s.readEnded.enqueueJob_touches .intake (p.digestJob block)
    have hexec := h.exec_update
    rw [State.intakeBlock_digests (s := s.readEnded) hwork hout, State.pipeDigest_eq, hx] at hexec
    rw [hx] at hqueues
    have hframe := State.startNext_frame (State.setIntakeWork
      { s.readEnded with
        crypto := x, storage := { s.readEnded.storage with job := p.nextRead .update s.stagedBase none } }
      (.readBack m md p.taken))
    exact ⟨_, _, _, hexec, congrArg (·.intake) hframe, QueuesJob.startNext (t := State.setIntakeWork _ _) hqueues,
      Pipe.takesBlock block (congrArg (·.storage.job) hframe), congrArg (fun t : State =>
        { t with intake := s.intake, storage := s.storage, crypto := s.crypto, draws := s.draws }) hframe⟩
  · obtain ⟨hrun, hjob, hd, hq⟩ := h
    have hexec := execCryptoJobEnd_intake hrun hjob
    rw [State.intakeJob_absorbed (s := s.jobEnded) hstream hwork] at hexec
    rcases Option.eq_none_or_eq_some p.waiting with hw | ⟨block, hw⟩
    · rw [State.pipeAbsorbed_waits hw] at hexec
      obtain ⟨hi, hf, hs, hframe⟩ :=
        State.readBackWaits_leaves hd hbuffer (m := m) (md := md) { p with absorbed := bytes, jobOut := false } bytes.length rfl
      exact ⟨_, _, hexec, hi, fun _ => ⟨rfl, hf, hs⟩, fun b hb => (nomatch hw.symm.trans hb), hframe⟩
    · rw [State.pipeAbsorbed_digests hw, State.pipeDigest_pipe] at hexec
      obtain ⟨hi, hf, htakes, hframe⟩ := State.readBackDigest_leaves hd hq hbuffer (m := m) (md := md)
        { p with absorbed := bytes, jobOut := false } block bytes.length rfl
      refine ⟨_, _, hexec, hi, fun hnone => (nomatch hw.symm.trans hnone), fun b hb => ?_, hframe⟩
      obtain rfl := Option.some.inj (hw.symm.trans hb)
      exact ⟨_, hf, htakes⟩
  · obtain ⟨hrun, hjob, hd, hq⟩ := h
    have hexec := execCryptoJobEnd_intake hrun hjob
    rw [State.intakeJob_image (s := s.jobEnded) hstream hpath] at hexec
    obtain ⟨hdigest, hrollback, hverified⟩ := (s.jobEnded.setSession x).checkImage_cases m md d
    refine ⟨_, hexec, fun hne => ?_, fun heq hlow => ?_, fun heq hfloor => ?_⟩
    · rw [hdigest hne]
      exact State.failSession_leaves hd hq x _ _
    · rw [hrollback heq hlow]
      exact State.failSession_leaves hd hq x _ _
    · rw [hverified heq hfloor]
      exact State.verified_leaves hd hbuffer _ rfl

end Sys2Proof.Machine
end


section
/-! # The requests of an update session

UPDATE_FINISH, UPDATE_STATUS, UPDATE_COMMIT and UPDATE_ABORT (R98, R104, R105, R107), and what CONTEXT_RESET does to its context (R108,
R150, R182). -/

namespace Sys2Proof.Machine

open Sys2Proof

section requests

variable {s : State} {c : Ctx} {code tag : Nat} {body : List Byte}

/-! ## Answers behind a change -/

/-- An answer behind a change that leaves the contexts, the alert unit and the clock alone (R179). -/
theorem Executing.answersAfter {w : ExecWork} (h : Executing s c code tag body w) {u : State} (hrequests : u.requests = s.requests)
    (halert : u.alert = s.alert) (htime : u.time = s.time) (st : Status) (detail : Nat) (out : List Byte) :
    Answers s (u.answer c st detail out) c code tag st detail out ∧
      AlertChange s (u.answer c st detail out) 0 (responseSource c) ∧
      { u.answer c st detail out with requests := s.requests, alert := s.alert } = u := by
  obtain ⟨-, -, hresponse⟩ := h
  have hctx : u.ctx = s.ctx := funext fun d => congrArg (fun r : Requests => r.ctx.get d) hrequests
  obtain ⟨⟨hready, hother, hclaim, hqueue⟩, hchange, hframe⟩ :=
    u.answer_only (c := c) (by rw [hctx]; exact hresponse) st detail out
  rw [hctx] at hother
  rw [hrequests] at hclaim hqueue
  unfold AlertChange at hchange ⊢
  rw [halert, htime] at hchange
  rw [hrequests, halert] at hframe
  exact ⟨⟨hready, hother, hclaim, hqueue⟩, hchange, hframe⟩

/-- An answer raises its context's RESPONSE source (R179, R184). -/
theorem State.answer_raises (h : (s.ctx c).response = .pending tag code) (st : Status) (detail : Nat) (out : List Byte) :
    AlertStep s.time.tick 0 (responseSource c) s.alert (s.answer c st detail out).alert := by
  obtain ⟨-, ⟨_, hnone, _, hraise, hlast⟩, -⟩ := s.answer_only h st detail out
  have hsame := hnone.1 (by rw [not_clear, raise_nothing])
  subst hsame
  rw [hlast]
  exact hraise

/-- An answer in the step that clears a source (R179, R184). -/
theorem Routed.clearsAndAnswers (h : Routed s c code tag body) (src : BitVec 8) (out : List Byte) :
    Answers s ((s.clearSource src).answerOk c out) c code tag .ok 0 out ∧
      AlertChange s ((s.clearSource src).answerOk c out) src (responseSource c) ∧
      { (s.clearSource src).answerOk c out with requests := s.requests, alert := s.alert } = s := by
  obtain ⟨-, -, hresponse⟩ := h
  obtain ⟨hanswers, -, hframe⟩ := (s.clearSource src).answer_only (c := c) hresponse .ok 0 out
  have hraise := State.answer_raises (s := s.clearSource src) hresponse .ok 0 out
  exact ⟨hanswers, ⟨(s.clearSource src).alert, s.clearSource_step src, _, hraise, rfl⟩,
    congrArg (fun t : State => { t with requests := s.requests, alert := s.alert }) hframe⟩

/-! ## UPDATE_FINISH (R98) -/

theorem execUpdateFinish_eq (h : Routed s c 0x32 tag []) :
    exec (.updateFinish c) s =
      .next
        (if s.intake.session.state ≠ .receiving then s.answerError c .sessionState
        else if s.intake.session.owner ≠ some c then s.answerError c .notOwner
        else if s.stagingForward then s
        else s.finishSession c) := by
  show execUpdateFinish c s = _
  rw [execUpdateFinish, h.exec_eq]
  rfl

theorem State.stagingForward_iff (s : State) : s.stagingForward = true ↔ ∃ f, s.storage.forward = some f ∧ f.staging ≠ none := by
  simp [State.stagingForward, Option.any_eq_true, Option.isSome_iff_ne_none]

/-- The session is VERIFYING and asks for its manifest sector (R98). -/
theorem Routed.finishes (h : Routed s c 0x32 tag []) {t : State} (ht : t = s.finishSession c) :
    Answers s t c 0x32 tag .ok 0 [] ∧ AlertChange s t 0 (responseSource c) ∧
      t.intake =
        { s.intake with
          session := { s.intake.session with state := .verifying, deadline := none }
          work := .readManifest } ∧
      t.storage = { s.storage with job := some ⟨.update, s.stagedBase, 0x1000, s.stagedBase, [], false⟩ } ∧
      { t with requests := s.requests, alert := s.alert, intake := s.intake, storage := s.storage } = s := by
  obtain ⟨hanswers, hchange, -⟩ := Executing.answersAfter h (u := ((s.setSession
    { s.intake.session with state := .verifying, deadline := none }).submitRead .update s.stagedBase 0x1000).setIntakeWork
      .readManifest) rfl rfl rfl .ok 0 []
  subst ht
  exact ⟨hanswers, hchange, rfl, rfl, rfl⟩

/-! ## UPDATE_STATUS (R104) -/

theorem execUpdateStatus_eq (h : Routed s c 0x33 tag []) :
    exec (.updateStatus c) s = .next ((s.clearSource sourceUpdate).answerOk c s.sessionBody) := by
  show execUpdateStatus c s = _
  rw [execUpdateStatus, h.exec_eq]
  rfl

theorem le_length (n v : Nat) : (le n v).length = n := by
  induction n generalizing v with
  | zero => rfl
  | succ n ih => rw [le, List.length_cons, ih]

theorem ownerByte_eq (owner : Option Ctx) :
    ownerByte owner = (match owner with | some .c0 => 0x00 | some .c1 => 0x01 | none => 0xFF) := by
  rcases owner with _ | _ | _ <;> rfl

theorem deadlineBytes_eq {deadline : Option Nat} (h : ∀ d, deadline = some d → d ≤ 0xFFFFFFFFFFFF) :
    deadlineBytes deadline = le 6 (deadline.getD 0) := by
  cases deadline with
  | none => rfl
  | some d => exact if_pos (h d rfl)

theorem State.sessionBody_length (s : State) (h : ∀ d, s.intake.session.deadline = some d → d ≤ 0xFFFFFFFFFFFF) :
    s.sessionBody.length = 39 := by
  unfold State.sessionBody State.trackerCounts
  simp only [deadlineBytes_eq h, List.length_append, List.length_cons, List.length_nil, le_length]

theorem State.trackerEntries_header {u : Table} (h : s.store.working.header = some u) :
    s.trackerEntries = u.slotSize / 0x1000 := by
  unfold State.trackerEntries State.wc
  rw [h]

/-- The session record as R104 lays it out. -/
theorem State.sessionBody_eq {u : Table} (hheader : s.store.working.header = some u)
    (h : ∀ d, s.intake.session.deadline = some d → d ≤ 0xFFFFFFFFFFFF) :
    s.sessionBody =
      [s.intake.session.state.code,
        (match s.intake.session.owner with | some .c0 => 0x00 | some .c1 => 0x01 | none => 0xFF),
        if s.intake.session.claim.isSome then 0x01 else 0x00] ++
      le 4 s.intake.session.bank ++ le 4 s.intake.session.expected ++
      [if s.intake.session.broken then 0x01 else 0x00] ++ le 4 (s.intake.session.firstBreak.getD 0xFFFFFFFF) ++
      le 2 s.intake.session.breaks ++ le 2 s.intake.session.refusedPrograms ++
      (le 2 (u.slotSize / 0x1000 - s.intake.tracker.count .erased - s.intake.tracker.count .written) ++
        le 2 (s.intake.tracker.count .erased) ++ le 2 (s.intake.tracker.count .written)) ++
      [s.intake.session.path.code, s.intake.session.reason.code, BitVec.ofNat 8 s.intake.session.detail] ++
      le 4 s.intake.session.progress ++ le 6 (s.intake.session.deadline.getD 0) := by
  unfold State.sessionBody State.trackerCounts
  simp only [deadlineBytes_eq h, ownerByte_eq, State.trackerEntries_header hheader, le_one, List.append_assoc]
  rfl

/-! ## UPDATE_COMMIT (R105) -/

theorem execUpdateCommit_badFlag {flag : Byte} (h : Routed s c 0x34 tag [flag]) (hflag : 1 < flag.toNat) :
    exec (.updateCommit c) s = .next (s.answerParameter c 0x01) := by
  show execUpdateCommit c s = _
  rw [execUpdateCommit, h.exec_eq, if_neg (not_not_intro (List.length_singleton (a := flag))), if_pos (by exact hflag)]

theorem execUpdateCommit_refused {flag : Byte} (h : Routed s c 0x34 tag [flag]) (hflag : flag.toNat ≤ 1)
    (hnot : s.intake.session.state ≠ .verified ∨ s.intake.session.manifest = none) :
    exec (.updateCommit c) s = .next (s.answerError c .sessionState) := by
  show execUpdateCommit c s = _
  rw [execUpdateCommit, h.exec_eq, if_neg (not_not_intro (List.length_singleton (a := flag))), if_neg (by exact Nat.not_lt.2 hflag)]
  split
  · rename_i hstate hmanifest
    exact (hnot.elim (fun hne => hne hstate) fun hnone => nomatch hnone.symm.trans hmanifest).elim
  · rfl

theorem execUpdateCommit_verified {flag : Byte} {m : VerifiedManifest} (h : Routed s c 0x34 tag [flag]) (hflag : flag.toNat ≤ 1)
    (hstate : s.intake.session.state = .verified) (hmanifest : s.intake.session.manifest = some m) :
    exec (.updateCommit c) s =
      .next (if s.intake.session.owner ≠ some c then s.answerError c .notOwner else s.commitSession c m (flag == 1)) := by
  have hbit : decide (byteAt [flag] 0 = 1) = (flag == 1) :=
    Bool.eq_iff_iff.2 (decide_eq_true_iff.trans ((BitVec.toNat_inj (y := 1)).trans beq_iff_eq.symm))
  show execUpdateCommit c s = _
  rw [execUpdateCommit, h.exec_eq, if_neg (not_not_intro (List.length_singleton (a := flag))), if_neg (by exact Nat.not_lt.2 hflag)]
  simp only [hstate, hmanifest, hbit]

/-- The verified slot is handed over by one record group (R105). -/
theorem Routed.commits (h : Routed s c code tag body) (m : VerifiedManifest) (restart : Bool) :
    GoesOn s (s.commitSession c m restart) c code tag body .awaitWrite ∧
      QueuesWrite s (s.commitSession c m restart) c (.commit m s.tableInForce restart) ∧
      (s.commitSession c m restart).intake =
        { s.intake with session := { s.intake.session with state := .commitPending } } ∧
      { s.commitSession c m restart with requests := s.requests, store := s.store, intake := s.intake } = s :=
  ⟨Executing.setWork_goesOn (s := (s.setSession { s.intake.session with state := .commitPending }).enqueueWrite (.ctx c)
    (.commit m s.tableInForce restart)) h .awaitWrite, rfl, rfl, rfl⟩

/-! ## UPDATE_ABORT (R107) -/

theorem execUpdateAbort_eq (h : Routed s c 0x35 tag []) :
    exec (.updateAbort c) s =
      .next (if s.intake.session.state = .idle then s.answerError c .sessionState else s.abortSession c) := by
  show execUpdateAbort c s = _
  rw [execUpdateAbort, h.exec_eq]
  rfl

/-- The session and its work end; from COMMIT_PENDING by a write that clears the pending flag (R107). -/
theorem Routed.aborts (h : Routed s c code tag body) {t : State} (ht : t = s.abortSession c) :
    t.intake.session = Session.resting ∧ DropsIntakeWork s t ∧
      { t with
        requests := s.requests, alert := s.alert, intake := s.intake, crypto := s.crypto, storage := s.storage,
        store := s.store } = s ∧
      (s.intake.session.state = .commitPending →
        GoesOn s t c code tag body .awaitWrite ∧ QueuesWrite s t c .clearPending ∧ t.alert = s.alert) ∧
      (s.intake.session.state ≠ .commitPending →
        Answers s t c code tag .ok 0 [] ∧ AlertChange s t 0 (responseSource c) ∧ t.store = s.store) := by
  obtain ⟨hdrops, hsession, -⟩ := s.restSession_drops
  obtain ⟨x, j, i, e⟩ := s.restSession_touches
  unfold State.abortSession at ht
  rw [e] at hdrops hsession ht
  by_cases hpending : s.intake.session.state = .commitPending
  · rw [if_pos hpending] at ht
    rw [ht]
    exact ⟨hsession, hdrops, rfl, fun _ => ⟨Executing.setWork_goesOn
      (s := State.enqueueWrite { s with storage := x, crypto := j, intake := i } (.ctx c) .clearPending) h .awaitWrite, rfl, rfl⟩,
      fun hne => absurd hpending hne⟩
  · rw [if_neg hpending] at ht
    obtain ⟨hanswers, hchange, -⟩ := Executing.answersAfter h (u := { s with storage := x, crypto := j, intake := i }) rfl rfl rfl
      .ok 0 []
    rw [ht]
    exact ⟨hsession, hdrops, rfl, fun hin => absurd hin hpending, fun _ => ⟨hanswers, hchange, rfl⟩⟩

/-! ## CONTEXT_RESET (R108, R150, R182) -/

theorem execContextReset_eq (h : Routed s c 0x02 tag []) : exec (.contextReset c) s = .next (s.resetContext c) := by
  show execContextReset c s = _
  rw [execContextReset, h.exec_eq]
  rfl

/-- All that a CONTEXT_RESET does to its own session, and to no other (R108). -/
theorem State.resetSession_cases (s : State) (c : Ctx) {own : Bool}
    (hown : own = decide (s.intake.session.owner = some c ∧
      (s.intake.session.state = .receiving ∨ s.intake.session.state = .verifying))) :
    (own = true →
        (s.resetSession c).intake.session =
            { s.intake.session with state := .failed, reason := .aborted, detail := 0, deadline := none } ∧
          DropsIntakeWork s (s.resetSession c)) ∧
      (own = false →
        (s.resetSession c).intake = s.intake ∧ (s.resetSession c).crypto = s.crypto ∧ (s.resetSession c).storage = s.storage) ∧
      AlertStep s.time.tick 0 (if own then sourceUpdate else 0) s.alert (s.resetSession c).alert ∧
      ∃ x j i a, s.resetSession c = { s with storage := x, crypto := j, intake := i, alert := a } := by
  unfold State.resetSession
  by_cases h : s.intake.session.owner = some c ∧ (s.intake.session.state = .receiving ∨ s.intake.session.state = .verifying)
  · rw [hown, decide_eq_true h, if_pos h]
    obtain ⟨hdrops, hsession, halert, -⟩ := s.failSession_drops .aborted 0
    exact ⟨fun _ => ⟨hsession, hdrops⟩, nofun, halert, s.failSession_touches .aborted 0⟩
  · rw [hown, decide_eq_false h, if_neg h]
    exact ⟨nofun, fun _ => ⟨rfl, rfl, rfl⟩, AlertStep.refl _ _, _, _, _, _, rfl⟩

end requests

/-- Settles O38: UPDATE_FINISH by its checks in their order, UPDATE_STATUS by the layout of its record. -/
theorem updateFinishAndStatus : Obligations.UpdateFinishAndStatus := by
  intro c tag s
  refine ⟨fun h => ⟨_, execUpdateFinish_eq h, fun hstate => ?_, fun hstate howner => ?_, fun f hstate howner hf hstaging => ?_,
    fun hstate howner hfree => ?_⟩, fun u h hheader hdeadline => ?_⟩
  · rw [if_pos hstate]
    exact h.answered _ _ _
  · rw [if_neg (not_not_intro hstate), if_pos howner]
    exact h.answered _ _ _
  · rw [if_neg (not_not_intro hstate), if_neg (not_not_intro howner), if_pos (s.stagingForward_iff.2 ⟨f, hf, hstaging⟩)]
  · have hnone : ¬ s.stagingForward = true := fun hforward => by
      obtain ⟨f, hf, hstaging⟩ := s.stagingForward_iff.1 hforward
      exact hstaging (hfree f hf)
    exact h.finishes (by rw [if_neg (not_not_intro hstate), if_neg (not_not_intro howner), if_neg hnone])
  · obtain ⟨hanswers, hchange, hframe⟩ := h.clearsAndAnswers sourceUpdate s.sessionBody
    exact ⟨_, _, execUpdateStatus_eq h, s.sessionBody_length hdeadline, State.sessionBody_eq hheader hdeadline, hanswers, hchange,
      hframe⟩

/-- Settles O41: UPDATE_COMMIT by its checks in their order, UPDATE_ABORT by the session's state. -/
theorem updateCommitAndAbort : Obligations.UpdateCommitAndAbort := by
  refine ⟨fun c tag flag s h => ?_, fun c tag s h => ⟨_, execUpdateAbort_eq h, fun hidle => ?_, fun hsome => ?_⟩⟩
  · by_cases hflag : 1 < flag.toNat
    · exact ⟨_, execUpdateCommit_badFlag h hflag, fun _ => h.answered _ _ _, fun hle => absurd hflag (Nat.not_lt.2 hle)⟩
    · have hle := Nat.not_lt.1 hflag
      by_cases hstate : s.intake.session.state = .verified
      · cases hmanifest : s.intake.session.manifest with
        | none =>
          exact ⟨_, execUpdateCommit_refused h hle (.inr hmanifest), fun hlt => absurd hlt hflag, fun _ =>
            ⟨fun hne => absurd hstate hne, nofun⟩⟩
        | some m =>
          refine ⟨_, execUpdateCommit_verified h hle hstate hmanifest, fun hlt => absurd hlt hflag, fun _ =>
            ⟨fun hne => absurd hstate hne, ?_⟩⟩
          rintro _ - ⟨⟩
          refine ⟨fun howner => ?_, fun howner => ?_⟩
          · rw [if_pos howner]
            exact h.answered _ _ _
          · rw [if_neg (not_not_intro howner)]
            exact h.commits m _
      · exact ⟨_, execUpdateCommit_refused h hle (.inl hstate), fun hlt => absurd hlt hflag, fun _ =>
          ⟨fun _ => h.answered _ _ _, fun m hin => absurd hin hstate⟩⟩
  · rw [if_pos hidle]
    exact h.answered _ _ _
  · rw [if_neg hsome]
    exact h.aborts rfl

/-- Settles O42: the context's reservation and its own session first, then the answer or the wait. -/
theorem contextResetCleansItsContext : Obligations.ContextResetCleansItsContext := by
  intro c tag s h
  obtain ⟨-, -, -, x, j, i, a, e⟩ := (s.setReservation c .none).resetSession_cases c rfl
  generalize hu : ({ s.setReservation c .none with storage := x, crypto := j, intake := i, alert := a } : State) = u at e
  have hreset : s.resetContext c = if s.discardedWrite c then u.setWork c .awaitDiscarded else u.answerOk c [] := by
    unfold State.resetContext
    dsimp only
    rw [e, ← hu]
    rfl
  have hown {own : Bool} (hown : own = decide (s.intake.session.owner = some c ∧
      (s.intake.session.state = .receiving ∨ s.intake.session.state = .verifying))) :=
    (s.setReservation c .none).resetSession_cases c hown
  rw [e] at hown
  subst hu
  refine ⟨_, execContextReset_eq h, ?_⟩
  rw [hreset]
  by_cases hwaits : s.discardedWrite c = true
  · rw [if_pos hwaits]
    refine ⟨rfl, fun own ho => ?_, rfl⟩
    obtain ⟨hfails, hstays, hstep, -⟩ := hown ho
    exact ⟨hfails, hstays, fun hnone => absurd hwaits (ne_true_of_eq_false hnone), fun _ => ⟨Executing.setWork_goesOn
      (s := { s.setReservation c .none with storage := x, crypto := j, intake := i, alert := a }) h .awaitDiscarded, hstep⟩⟩
  · rw [if_neg hwaits]
    obtain ⟨-, -, hresponse⟩ := h
    obtain ⟨hanswers, -, -⟩ := State.answer_only
      { s.setReservation c .none with storage := x, crypto := j, intake := i, alert := a } hresponse .ok 0 []
    refine ⟨rfl, fun own ho => ?_, rfl⟩
    obtain ⟨hfails, hstays, hstep, -⟩ := hown ho
    exact ⟨hfails, hstays, fun _ => ⟨hanswers, _, hstep, _, State.answer_raises
      (s := { s.setReservation c .none with storage := x, crypto := j, intake := i, alert := a }) hresponse .ok 0 [], rfl⟩,
      fun hin => absurd hin hwaits⟩

end Sys2Proof.Machine
end

section
/-! # What every ordinary command keeps

`Quiet s t` says all that a command can do to what the restart controller, the time base and the retained store live by, where
neither of them goes on itself: the phase and the work stay, trust and the boot window can fall, stamps can be issued, and
requests can queue and withdraw writes of their own. One rule for each operation of the model, in the order of the model. -/

namespace Sys2Proof.Machine

open Sys2Proof

/-! ## The relation -/

/-- Who queued a write, and what it writes. Whether a request still waits for it is no part of that. -/
def Write.tag (w : Write) : Requester × WriteKind := (w.owner, w.kind)

/-- The tag of the write in progress, and the values it has fixed. -/
def TakenWrite.tag (w : TakenWrite) : (Requester × WriteKind) × Retained := (w.write.tag, w.values)

/-- The writes that the restart controller alone queues (R54, R57, R58, R60, R61). -/
def WriteKind.ofRestart : WriteKind → Bool
  | .bootCount | .applyCommit | .countAttempt | .revert | .slotPass _ _ _ _ | .slotReject _ _ => true
  | _ => false

/-- The queue after requests have given up writes of their own and queued others (R52, R178, R188). -/
def Requeues (q q' : List Write) : Prop :=
  ∃ (keep : Write → Option Write) (new : List Write), q' = q.filterMap keep ++ new ∧
    (∀ w, w.owner = .restart → keep w = some w) ∧ (∀ w v, keep w = some v → v.tag = w.tag) ∧
    ∀ w ∈ new, w.kind.ofRestart = false

/-- Trust is no higher than before, and the boot window is open only where it was (R72, R84). -/
def Lowers (s t : State) : Prop :=
  t.watch.trust.level ≤ s.watch.trust.level ∧ (t.restart.bootWindow = true → s.restart.bootWindow = true)

/-- The clock stands, and a stamp issued meanwhile carries this boot count and this tick, and a greater sequence number than one
issued at this tick before (R137). -/
def KeepsClock (s t : State) : Prop :=
  t.time.tick = s.time.tick ∧ t.time.bootCounted = s.time.bootCounted ∧
    (t.time.lastStamp = s.time.lastStamp ∨
      s.time.bootCounted = true ∧ ∃ y, t.time.lastStamp = some y ∧ y.boot = s.store.working.bootCount ∧
        y.tick = s.time.tick ∧ ∀ x, s.time.lastStamp = some x → x.tick = s.time.tick → x.seq < y.seq)

/-- The records are as before, and so is the write in progress (R187). -/
def KeepsStored (s t : State) : Prop :=
  t.store.working = s.store.working ∧ t.store.nonvolatile = s.store.nonvolatile ∧
    t.store.taken.map TakenWrite.tag = s.store.taken.map TakenWrite.tag

/-- The restart controller does what it did. -/
def KeepsPhase (s t : State) : Prop := t.restart.phase = s.restart.phase ∧ t.restart.work = s.restart.work

/-- Neither the restart controller nor the time base nor the retained store goes on; requests may, and hits may lower trust. -/
def Quiet (s t : State) : Prop :=
  Lowers s t ∧ KeepsPhase s t ∧ KeepsClock s t ∧ KeepsStored s t ∧ Requeues s.store.queue t.store.queue

theorem Requeues.refl (q : List Write) : Requeues q q :=
  ⟨some, [], by simp, fun _ _ => rfl, fun _ _ h => congrArg Write.tag (Option.some.inj h).symm,
    fun _ hw => absurd hw List.not_mem_nil⟩

theorem Requeues.trans {q q' q'' : List Write} (h : Requeues q q') (h' : Requeues q' q'') : Requeues q q'' := by
  obtain ⟨keep, new, rfl, hown, htag, hnew⟩ := h
  obtain ⟨keep', new', rfl, hown', htag', hnew'⟩ := h'
  refine ⟨fun w => (keep w).bind keep', new.filterMap keep' ++ new', ?_, fun w hw => ?_, fun w v hv => ?_, fun w hw => ?_⟩
  · rw [List.filterMap_append, List.filterMap_filterMap, List.append_assoc]
  · exact (congrArg (·.bind keep') (hown w hw)).trans (hown' w hw)
  · obtain ⟨u, hu, huv⟩ := Option.bind_eq_some_iff.1 hv
    exact (htag' u v huv).trans (htag w u hu)
  · rcases List.mem_append.1 hw with hw | hw
    · obtain ⟨u, hu, huw⟩ := List.mem_filterMap.1 hw
      rw [show w.kind = u.kind from congrArg Prod.snd (htag' u w huw)]
      exact hnew u hu
    · exact hnew' w hw

theorem Lowers.refl (s : State) : Lowers s s := ⟨le_rfl, id⟩

theorem Lowers.trans {s t u : State} (h : Lowers s t) (h' : Lowers t u) : Lowers s u :=
  ⟨h'.1.trans h.1, fun w => h.2 (h'.2 w)⟩

theorem KeepsClock.refl (s : State) : KeepsClock s s := ⟨rfl, rfl, .inl rfl⟩

theorem KeepsClock.trans {s t u : State} (h : KeepsClock s t) (hw : t.store.working = s.store.working) (h' : KeepsClock t u) :
    KeepsClock s u := by
  obtain ⟨htick, hcounted, hlast⟩ := h
  obtain ⟨htick', hcounted', hlast'⟩ := h'
  refine ⟨htick'.trans htick, hcounted'.trans hcounted, ?_⟩
  rw [hcounted, hw, htick] at hlast'
  rcases hlast with hlast | ⟨hc, y, hy, hboot, hyt, hseq⟩
  · rwa [hlast] at hlast'
  · rcases hlast' with hlast' | ⟨-, z, hz, hzboot, hzt, hzseq⟩
    · exact .inr ⟨hc, y, hlast'.trans hy, hboot, hyt, hseq⟩
    · exact .inr ⟨hc, z, hz, hzboot, hzt, fun x hx hxt => (hseq x hx hxt).trans (hzseq y hy hyt)⟩

theorem Quiet.refl (s : State) : Quiet s s :=
  ⟨Lowers.refl s, ⟨rfl, rfl⟩, KeepsClock.refl s, ⟨rfl, rfl, rfl⟩, Requeues.refl _⟩

theorem Quiet.trans {s t u : State} (h : Quiet s t) (h' : Quiet t u) : Quiet s u := by
  obtain ⟨hlow, ⟨hphase, hwork⟩, hclock, ⟨hworking, hnonvolatile, htaken⟩, hqueue⟩ := h
  obtain ⟨hlow', ⟨hphase', hwork'⟩, hclock', ⟨hworking', hnonvolatile', htaken'⟩, hqueue'⟩ := h'
  exact ⟨hlow.trans hlow', ⟨hphase'.trans hphase, hwork'.trans hwork⟩, hclock.trans hworking hclock',
    ⟨hworking'.trans hworking, hnonvolatile'.trans hnonvolatile, htaken'.trans htaken⟩, hqueue.trans hqueue'⟩

namespace Quiet

variable {s t : State}

theorem ite {p : Prop} [Decidable p] {a b : State} (ha : Quiet s a) (hb : Quiet s b) : Quiet s (if p then a else b) := by
  split
  · exact ha
  · exact hb

/-! ## The write queue -/

theorem enqueueWrite (h : Quiet s t) (r : Requester) {k : WriteKind} (hk : k.ofRestart = false) : Quiet s (t.enqueueWrite r k) :=
  h.trans ⟨Lowers.refl t, ⟨rfl, rfl⟩, KeepsClock.refl t, ⟨rfl, rfl, rfl⟩, some, [⟨r, k, true⟩],
    by rw [List.filterMap_some]; rfl, fun _ _ => rfl,
    fun _ _ e => congrArg Write.tag (Option.some.inj e).symm, fun w hw => by rw [List.mem_singleton.1 hw]; exact hk⟩

theorem requestWrite (h : Quiet s t) (c : Ctx) {k : WriteKind} (hk : k.ofRestart = false) : Quiet s (t.requestWrite c k) :=
  h.enqueueWrite (.ctx c) hk

theorem discardWrites (h : Quiet s t) (c : Ctx) : Quiet s (t.discardWrites c) := by
  refine h.trans ⟨Lowers.refl t, ⟨rfl, rfl⟩, KeepsClock.refl t, ⟨rfl, rfl, ?_⟩, _, [], (List.append_nil _).symm, fun w hw => ?_,
    fun w v e => ?_, fun _ hw => absurd hw List.not_mem_nil⟩
  · unfold State.discardWrites
    rw [Option.map_map]
    refine congrArg (fun f => t.store.taken.map f) (funext fun w => ?_)
    dsimp only [Function.comp]
    split <;> rfl
  · simp [Write.waitedBy, hw]
  · split at e
    · split at e
      · cases e
        rfl
      · cases e
    · cases e
      rfl

/-! ## The crypto engine, hits and stamps -/

theorem enqueueJob (h : Quiet s t) (r : Requester) (k : JobKind) : Quiet s (t.enqueueJob r k) := by
  obtain ⟨_, e⟩ := t.enqueueJob_touches r k
  rw [e]
  exact h

theorem startNext (h : Quiet s t) : Quiet s t.startNext := by
  obtain ⟨_, _, e⟩ := t.startNext_touches
  rw [e]
  exact h

/-- The next stamp carries the boot count and the tick, and a number above that of the last stamp of this tick (R137). -/
theorem issue (h : Quiet s t) {x : Stamp} (hx : t.nextStamp = some x) : Quiet s (t.issue x) := by
  refine h.trans ⟨Lowers.refl t, ⟨rfl, rfl⟩, ⟨rfl, rfl, .inr ?_⟩, ⟨rfl, rfl, rfl⟩, Requeues.refl _⟩
  unfold State.nextStamp at hx
  split at hx
  · cases hx
  · rename_i hcounted
    refine ⟨not_not.1 hcounted, x, rfl, ?_⟩
    split at hx
    · rename_i hnone
      cases hx
      exact ⟨rfl, rfl, fun y hy => nomatch hnone.symm.trans hy⟩
    · rename_i y hlast
      split at hx
      · rename_i hne
        cases hx
        exact ⟨rfl, rfl, fun z hz hzt => absurd hzt (Option.some.inj (hlast.symm.trans hz) ▸ hne)⟩
      · split at hx
        · cases hx
          refine ⟨rfl, rfl, fun z hz _ => ?_⟩
          rw [← Option.some.inj (hlast.symm.trans hz)]
          exact Nat.lt_succ_self _
        · cases hx

theorem hitActions (h : Quiet s t) (p : PendingHit) : Quiet s (t.hitActions p) := by
  have htrust : (t.hitActions p).watch.trust.level ≤ t.watch.trust.level := by
    rw [t.hitActions_watch]
    split
    · exact Nat.zero_le _
    · show Trust.level (if _ then _ else _) ≤ _
      split
      · rename_i hfalls
        simp only [PendingHit.falls, Bool.and_eq_true, decide_eq_true_eq] at hfalls
        exact hfalls.2.le
      · exact le_rfl
  obtain ⟨w, a, c, e⟩ := t.hitActions_touches p
  rw [e] at htrust ⊢
  exact h.trans ⟨⟨htrust, id⟩, ⟨rfl, rfl⟩, KeepsClock.refl t, ⟨rfl, rfl, rfl⟩, Requeues.refl _⟩

theorem recordHit (h : Quiet s t) (p : PendingHit) (x : Stamp) : Quiet s (t.recordHit p x) :=
  hitActions (t := t.addHit p x) h p

theorem pumpHits (h : Quiet s t) (n : Nat) : Quiet s (t.pumpHits n) := by
  induction n generalizing t with
  | zero => exact h
  | succ n ih =>
    unfold State.pumpHits
    split
    · exact h
    · split
      · exact h
      · rename_i p rest _
        have hpopped : Quiet s { t with watch := { t.watch with waiting := rest } } := h
        dsimp only
        split
        · exact ih (hpopped.recordHit p _)
        · split
          · rename_i x _ hx
            exact ih ((hpopped.issue hx).recordHit p x)
          · exact h

theorem takeHits (h : Quiet s t) (hs : List PendingHit) : Quiet s (t.takeHits hs) :=
  pumpHits (t := { t with watch := { t.watch with waiting := t.watch.waiting ++ hs } }) h _

theorem reportCompletion (h : Quiet s t) (f : HostForward) : Quiet s (t.reportCompletion f) :=
  takeHits (t := t.altering f) h _

theorem assembleQuote (h : Quiet s t) (c : Ctx) (x : Stamp) : Quiet s (t.assembleQuote c x) := by
  obtain ⟨_, _, e⟩ := t.assembleQuote_touches c x
  rw [e]
  exact h

theorem askQuoteStamp (h : Quiet s t) (c : Ctx) : Quiet s (t.askQuoteStamp c) := by
  unfold State.askQuoteStamp
  split
  · exact h
  · split
    · rename_i x _ hx
      exact (h.issue hx).assembleQuote c x
    · exact h

theorem serveHit (h : Quiet s t) (p : PendingHit) {x : Stamp} (hx : t.nextStamp = some x) : Quiet s (t.serveHit p x) := by
  have hadded : Quiet s ((t.issue x).addHit p x) := h.issue hx
  unfold State.serveHit
  dsimp only
  split
  · rename_i c rest y _ hy
    split
    · refine hitActions (assembleQuote (issue ?_ ?_) c y) p
      · exact hadded
      · exact hy
    · refine hitActions ?_ p
      exact hadded
  · exact hadded.hitActions p

theorem serveStamps (h : Quiet s t) (n : Nat) : Quiet s (t.serveStamps n) := by
  induction n generalizing t with
  | zero => exact h
  | succ n ih =>
    unfold State.serveStamps
    split
    · exact h
    · rename_i r rest _
      have hpopped : Quiet s { t with time := { t.time with waiting := rest } } := h
      dsimp only
      split
      · cases r with
        | quote c => exact ih hpopped
        | hit => exact ih (hpopped.pumpHits _)
      · split
        · exact h
        · rename_i x hx
          cases r with
          | quote c => exact ih ((hpopped.issue hx).assembleQuote c x)
          | hit =>
            dsimp only
            split
            · exact ih hpopped
            · rename_i p hs _
              have hserved : Quiet s (State.serveHit
                  { t with time := { t.time with waiting := rest }, watch := { t.watch with waiting := hs } } p x) :=
                serveHit (t := { t with time := { t.time with waiting := rest }, watch := { t.watch with waiting := hs } }) h p hx
              exact ih (hserved.pumpHits _)

theorem serveAllStamps (h : Quiet s t) : Quiet s t.serveAllStamps := h.serveStamps _

end Quiet

end Sys2Proof.Machine
end

section
/-! # What the intake, the requests and the upstream link leave alone -/

namespace Sys2Proof.Machine

open Sys2Proof

namespace Quiet

variable {s t : State}

/-! ## The update intake -/

theorem failSession (h : Quiet s t) (reason : FailReason) (detail : Nat) : Quiet s (t.failSession reason detail) := by
  obtain ⟨_, _, _, _, e⟩ := t.failSession_touches reason detail
  rw [e]
  exact h

theorem restSession (h : Quiet s t) : Quiet s t.restSession := by
  obtain ⟨_, _, _, e⟩ := t.restSession_touches
  rw [e]
  exact h

theorem kickStream (h : Quiet s t) : Quiet s t.kickStream := by
  obtain ⟨_, _, e⟩ := t.kickStream_touches
  rw [e]
  exact h

theorem stagingComplete (h : Quiet s t) (r : StagingReport) : Quiet s (t.stagingComplete r) := by
  obtain ⟨_, _, e⟩ := t.stagingComplete_touches r
  rw [e]
  exact h

theorem reportForward (h : Quiet s t) (f : HostForward) : Quiet s (t.reportForward f) := by
  have hreport := h.reportCompletion f
  unfold State.reportForward
  split
  · dsimp only
    split
    · exact hreport.stagingComplete _
    · exact hreport
  · exact h

theorem pipeRead (h : Quiet s t) (u : JobUser) (base : Nat) (p : Pipe) : Quiet s (t.pipeRead u base p).1 := by
  unfold State.pipeRead
  split <;> exact h

theorem pipeDigest (h : Quiet s t) (r : Requester) (u : JobUser) (base : Nat) (p : Pipe) (block : List Byte) :
    Quiet s (t.pipeDigest r u base p block).1 := (h.enqueueJob r _).pipeRead u base _

theorem pipeBlock (h : Quiet s t) (r : Requester) (u : JobUser) (base : Nat) (p : Pipe) (block : List Byte) :
    Quiet s (t.pipeBlock r u base p block).1 := by
  unfold State.pipeBlock
  split
  · exact h
  · exact h.pipeDigest r u base p block

theorem pipeAbsorbed (h : Quiet s t) (r : Requester) (u : JobUser) (base : Nat) (p : Pipe) (bytes : List Byte) :
    Quiet s (t.pipeAbsorbed r u base p bytes).1 := by
  unfold State.pipeAbsorbed
  dsimp only
  split
  · exact h.pipeDigest r u base _ _
  · exact h

theorem checkManifest (h : Quiet s t) (block : List Byte) (md : Digest) : Quiet s (t.checkManifest block md) := by
  unfold State.checkManifest
  split
  · exact h.failSession _ _
  · split
    · exact h.failSession _ _
    · exact h.enqueueJob _ _

theorem choosePath (h : Quiet s t) (m : Manifest) (md : Digest) : Quiet s (t.choosePath m md) := by
  unfold State.choosePath
  dsimp only
  split
  · exact enqueueJob (t := t.setSession { t.intake.session with path := .stream }) h .intake _
  · exact pipeRead (t := t.setSession { t.intake.session with path := .readBack }) h _ _ _

theorem checkSignature (h : Quiet s t) (m : Manifest) (md : Digest) (ok : Bool) : Quiet s (t.checkSignature m md ok) := by
  unfold State.checkSignature
  refine .ite (h.failSession _ _) ?_
  split
  · exact h.failSession _ _
  · exact h.choosePath m md

theorem checkImage (h : Quiet s t) (m : Manifest) (md d : Digest) : Quiet s (t.checkImage m md d) :=
  .ite (h.failSession _ _) (.ite (h.failSession _ _) h)

theorem tryManifestDigest (h : Quiet s t) : Quiet s t.tryManifestDigest := by
  unfold State.tryManifestDigest
  split
  · exact .ite (h.enqueueJob _ _) h
  · exact h

theorem intakeBlock (h : Quiet s t) (block : List Byte) : Quiet s (t.intakeBlock block) := by
  unfold State.intakeBlock
  split
  · exact tryManifestDigest (t := t.setIntakeWork (.flush block)) h
  · exact h.pipeBlock _ _ _ _ _
  · exact h

theorem setProgress (h : Quiet s t) (n : Nat) : Quiet s (t.setProgress n) := h

theorem intakeJob (h : Quiet s t) (result : JobResult) : Quiet s (t.intakeJob result) := by
  unfold State.intakeJob
  split
  · split
    · rename_i bytes
      exact (kickStream (t := { t with intake := { t.intake with absorbed := bytes, streamJob := false } }) h).tryManifestDigest
    · exact h
  · split
    · exact h.checkManifest _ _
    · exact h.checkSignature _ _ _
    · exact h.checkImage _ _ _
    · exact (h.setProgress _).pipeAbsorbed _ _ _ _ _
    · exact (h.setProgress _).checkImage _ _ _
    · exact h

/-! ## The request assembler and the upstream link -/

theorem dropClaim (h : Quiet s t) (c : Ctx) : Quiet s (t.dropClaim c) := .ite h h

theorem answerClaimed (h : Quiet s t) (c : Ctx) (st : Status) (detail : Nat) (body : List Byte) :
    Quiet s (t.answerClaimed c st detail body) := dropClaim (t := t.answer c st detail body) h c

theorem discardRequest (h : Quiet s t) (c : Ctx) : Quiet s (t.discardRequest c) := by
  have hopen : Quiet s (t.discardOpen c) := by
    unfold State.discardOpen
    dsimp only
    split
    · exact h
    · exact .ite h h
  have hclaim : Quiet s ((t.discardOpen c).discardClaim c) := by
    unfold State.discardClaim State.dropClaim
    exact .ite hopen (.ite hopen hopen)
  exact hclaim.discardWrites c

theorem takeFrame (h : Quiet s t) (c : Ctx) (frame : List Byte) : Quiet s (t.takeFrame c frame) := by
  obtain ⟨_, _, e⟩ := t.takeFrame_touches c frame
  rw [e]
  exact h

theorem placed (h : Quiet s t) (c : Ctx) (buffer : List Byte) : Quiet s (t.placed c buffer) := by
  obtain ⟨_, _, e⟩ := t.placed_touches c buffer
  rw [e]
  exact h

theorem assemblerAnswer (h : Quiet s t) (c : Ctx) (st : Status) (detail : Nat) (received : List Byte) :
    Quiet s (t.assemblerAnswer c st detail received) := h

theorem deliver (h : Quiet s t) {page off : Nat} {bytes : List Byte} {u : State} (e : t.deliver page off bytes = some u) :
    Quiet s u := by
  unfold State.deliver at e
  dsimp only at e
  split at e
  · cases e
  · split at e
    · split at e
      · obtain rfl := Option.some.inj e
        exact (h.discardRequest (pageCtx page)).takeFrame _ _
      · cases e
    · split at e
      · obtain rfl := Option.some.inj e
        exact h.placed _ _
      · obtain rfl := Option.some.inj e
        exact h.assemblerAnswer _ _ _ _
    · split at e
      · obtain rfl := Option.some.inj e
        exact h.placed _ _
      · split at e
        · obtain rfl := Option.some.inj e
          exact h.placed _ _
        · obtain rfl := Option.some.inj e
          exact h.assemblerAnswer _ _ _ _

theorem deliverAll (h : Quiet s t) (page base : Nat) (runs : List (Nat × List Byte)) : Quiet s (t.deliverAll page base runs).1 := by
  induction runs generalizing t with
  | nil => exact h
  | cons run runs ih =>
    unfold State.deliverAll
    split
    · exact ih h
    · rename_i e
      exact ih (h.deliver e)

theorem deliverProgram (h : Quiet s t) (page base : Nat) (runs : List (Nat × List Byte)) :
    Quiet s (t.deliverProgram page base runs).1 := by
  have hall := h.deliverAll page base runs
  obtain ⟨_, _, e⟩ := (t.deliverAll page base runs).1.answerUnlisted_touches (pageCtx page)
  unfold State.deliverProgram
  refine .ite hall ?_
  rw [e]
  exact hall

theorem refuse (h : Quiet s t) (start : Nat) (kind : AccessKind) (region : Option Nat) : Quiet s (t.refuse start kind region) :=
  takeHits (t := { t with link := { t.link with refused := true } }) h _

theorem performProgram (h : Quiet s t) (start n : Nat) (bytes : List Byte) : Quiet s (t.performProgram start n bytes) := by
  unfold State.performProgram
  dsimp only
  split
  · have hout := deliverProgram (t := t.clearWel) h
    exact .ite ((hout _ _ _).refuse _ _ _) (hout _ _ _)
  · exact .ite h h
  · refine refuse ?_ _ _ _
    exact .ite h h

theorem forwardErase (h : Quiet s t) (start : Nat) (ops : List FlashOp) (rs : List (Nat × Record)) :
    Quiet s (t.forwardErase start ops rs) := .ite h h

theorem performSectorErase (h : Quiet s t) (start : Nat) : Quiet s (t.performSectorErase start) := by
  unfold State.performSectorErase
  dsimp only
  split
  · obtain ⟨_, _, e⟩ := t.clearWel.eraseAperture_touches _
    rw [e]
    exact h
  · exact forwardErase (t := t.clearWel) h _ _ _
  · exact refuse (t := t.clearWel) h _ _ _

theorem performBlockErase (h : Quiet s t) (start : Nat) : Quiet s (t.performBlockErase start) := by
  unfold State.performBlockErase
  dsimp only
  split
  · exact refuse (t := t.clearWel) h _ _ _
  · exact forwardErase (t := t.clearWel) h _ _ _

theorem endRead (h : Quiet s t) (b : Bool) : Quiet s (t.endRead b) := by
  obtain ⟨_, e⟩ := t.closeRead_touches
  rw [t.endRead_eq, e]
  refine .ite h (takeHits ?_ _)
  exact h

theorem abandonRead (h : Quiet s t) : Quiet s t.abandonRead := .ite (h.endRead true) h

theorem perform (h : Quiet s t) (cmd : LinkCmd) (stray : Nat) : Quiet s (t.perform cmd stray) := by
  cases cmd with
  | read => exact h.endRead false
  | fastRead => exact h.endRead false
  | quadRead => exact h.endRead false
  | writeEnable => exact .ite h h
  | writeDisable => exact .ite h h
  | chipErase => exact .ite (refuse (t := t.clearWel) h _ _ _) h
  | sectorErase => exact .ite (h.performSectorErase _) h
  | blockErase => exact .ite (h.performBlockErase _) h
  | pageProgram => exact .ite (h.performProgram _ _ _) h
  | _ => exact h

theorem clockAll (h : Quiet s t) (cmd : LinkCmd) (bytes : List Byte) : Quiet s (t.clockAll cmd bytes) := by
  obtain ⟨_, _, _, e⟩ := State.clockAll_touches cmd bytes t
  rw [e]
  exact h

theorem linkStep (h : Quiet s t) (cmd : LinkCmd) (step : LinkStep) : Quiet s (t.linkStep cmd step) := by
  have hselect : Quiet s t.select := .ite h h
  have hcommand {u : State} (hu : Quiet s u) : Quiet s (u.takeCommand cmd) := .ite hu hu
  cases step with
  | select => exact hselect
  | command => exact hcommand h
  | clock bytes => exact .ite (h.clockAll cmd bytes) h
  | release stray => exact .ite (h.perform cmd stray) h
  | transaction bytes stray => exact .ite (((hcommand hselect).clockAll cmd bytes).perform cmd stray) h

/-! ## The credential store -/

theorem compareCheck (h : Quiet s t) (c : Ctx) (slot : Fin 32) : Quiet s (t.compareCheck c slot).1 := by
  unfold State.compareCheck
  split
  · exact h
  · split <;> exact h

theorem submitCompare (h : Quiet s t) (c : Ctx) (slot : Fin 32) : Quiet s (t.submitCompare c slot) := h.enqueueJob _ _

theorem tryCompare (h : Quiet s t) (c : Ctx) (slot : Fin 32) : Quiet s (t.tryCompare c slot) :=
  .ite ((h.compareCheck c slot).submitCompare c slot) (h.compareCheck c slot)

theorem condRefuse (h : Quiet s t) (c : Ctx) (f : Status × Nat) : Quiet s (t.condRefuse c f) := by
  unfold State.condRefuse
  dsimp only
  split <;> exact h

theorem queueGroup (h : Quiet s t) (c : Ctx) (rs : List (Fin 32 × Option CredContent)) (again : Bool) :
    Quiet s (t.queueGroup c rs again) := by
  unfold State.queueGroup
  split
  · exact h.condRefuse c _
  · exact h.requestWrite c (k := .credGroup rs) rfl

theorem prepare (h : Quiet s t) (c : Ctx) (done : List (Fin 32 × Option CredContent)) (again : Bool) (rs : List NewCred) :
    Quiet s (t.prepare c done again rs) := by
  induction rs generalizing done with
  | nil => exact h.queueGroup c done again
  | cons n rs ih =>
    unfold State.prepare
    exact .ite (enqueueJob (t := { t with draws := t.draws + 1 }) h _ _) (ih _)

theorem compareDone (h : Quiet s t) (c : Ctx) (slot : Fin 32) (version : Nat) (matched : Bool) :
    Quiet s (t.compareDone c slot version matched) := by
  unfold State.compareDone State.compareStands
  exact .ite (h.compareCheck c slot) (.ite (h.submitCompare c slot)
    (.ite (.ite h (h.requestWrite c (k := .resetFails slot) rfl)) (h.requestWrite c (k := .mismatch slot version) rfl)))

theorem ctxJob (h : Quiet s t) (c : Ctx) (result : JobResult) : Quiet s (t.ctxJob c result) := by
  unfold State.ctxJob
  generalize t.work? c = w
  rcases w with _ | w
  · exact h
  · cases w with
    | extending n =>
      cases result with
      | digest d => exact .ite h h
      | _ => exact h
    | deriving_ =>
      cases result with
      | digest d => exact .ite h h
      | _ => exact h
    | comparing slot version =>
      cases result with
      | matched ok => exact h.compareDone _ _ _ _
      | _ => exact h
    | preparing done n salt rest =>
      cases result with
      | digest d => exact h.prepare _ _ _ _
      | _ => exact h
    | quoting =>
      cases result with
      | signature sig => dsimp only; split <;> exact h
      | _ => exact h
    | _ => exact h

/-! ## Requests -/

theorem whenEmpty (h : Quiet s t) (c : Ctx) (body : List Byte) {u : State} (hu : Quiet s u) : Quiet s (t.whenEmpty c body u) :=
  .ite hu h

theorem acknowledge (h : Quiet s t) : Quiet s t.acknowledge := .ite (p := _ ∧ _) h h

theorem checkRegionLoad (h : Quiet s t) (c : Ctx) (body : List Byte) : Quiet s (t.checkRegionLoad c body) := by
  have claimed (st : Status) (detail : Nat) := h.answerClaimed c st detail []
  unfold State.checkRegionLoad
  refine .ite (claimed _ _) (.ite (claimed _ _) (.ite (claimed _ _) (.ite (claimed _ _) ?_)))
  split
  · exact claimed _ _
  · exact h.requestWrite c (k := .loadTable _) rfl

theorem checkInject (h : Quiet s t) (c : Ctx) (body : List Byte) : Quiet s (t.checkInject c body) := by
  have claimed (st : Status) (detail : Nat) := h.answerClaimed c st detail []
  unfold State.checkInject
  refine .ite (claimed _ _) (.ite (claimed _ _) ?_)
  split
  · exact claimed _ _
  · exact .ite (claimed _ _) (.ite (claimed _ _) (h.requestWrite c (k := .injectKey _ _) rfl))

theorem checkProvisioning (h : Quiet s t) (c : Ctx) (code : Nat) (body : List Byte) :
    Quiet s (t.checkProvisioning c code body) := by
  have claimed (st : Status) (detail : Nat) := h.answerClaimed c st detail []
  refine .ite (h.checkRegionLoad c body) (.ite ?_ (.ite ?_ (.ite (h.checkInject c body) (.ite ?_ h))))
  · exact .ite (claimed _ _) (.ite (claimed _ _) h)
  · exact .ite (claimed _ _) (.ite (claimed _ _) (.ite (claimed _ _) (h.requestWrite c (k := .certificate body) rfl)))
  · exact .ite (claimed _ _) (.ite (claimed _ _) (.ite (claimed _ _) (.ite (claimed _ _) (.ite (claimed _ _)
      (.ite (claimed _ _) (.ite (claimed _ _) (h.requestWrite c (k := .advance _) rfl)))))))

theorem provision (h : Quiet s t) (c : Ctx) (code : Nat) (body : List Byte) : Quiet s (t.provision c code body) := by
  unfold State.provision
  refine .ite (checkProvisioning (t := { t with requests := { t.requests with claim := some c } }) h c code body) ?_
  exact h

theorem openRequest (h : Quiet s t) (c : Ctx) (body : List Byte) : Quiet s (t.openRequest c body) :=
  .ite h (.ite h (.ite h (.ite h
    (requestWrite (t := t.setClaim t.intake.nextOpen) h c (k := .openSession t.intake.nextOpen) rfl))))

theorem resetContext (h : Quiet s t) (c : Ctx) : Quiet s (t.resetContext c) := by
  have hsession : Quiet s ((t.setReservation c .none).resetSession c) :=
    .ite (failSession (t := t.setReservation c .none) h _ _) h
  exact .ite hsession hsession

theorem extendRequest (h : Quiet s t) (c : Ctx) (body : List Byte) : Quiet s (t.extendRequest c body) := by
  unfold State.extendRequest
  refine .ite h ?_
  split
  · exact h
  · rename_i n _
    refine .ite h (.ite h (startNext ?_))
    exact h.enqueueJob (.ctx c) (.extend n (digestOf (body.drop 1)))

theorem condRequest (h : Quiet s t) (c : Ctx) (body : List Byte) : Quiet s (t.condRequest c body) := by
  unfold State.condRequest
  split
  · exact h
  · split
    · exact h.condRefuse c _
    · exact (h.prepare _ _ _ _).startNext

/-! ## The completions of requests' writes -/

theorem answerWrite (h : Quiet s t) (w : Write) (st : Status) (detail : Nat) (body : List Byte) :
    Quiet s (t.answerWrite w st detail body) := by
  unfold State.answerWrite
  split
  · exact .ite h h
  · exact h

theorem dropWriteClaim (h : Quiet s t) (w : Write) : Quiet s (t.dropWriteClaim w) := by
  unfold State.dropWriteClaim
  split
  · exact h.dropClaim _
  · exact h

theorem loadDone (h : Quiet s t) (w : Write) : Quiet s (t.loadDone w) := by
  have hloaded (x : Translation) : Quiet s { t with xlat := x } := h
  have hforced : Quiet s t.forceLoaded := h
  unfold State.loadDone
  refine .ite (((hloaded _).answerWrite w _ _ _).dropWriteClaim w)
    (.ite ?_ ((hforced.answerWrite w _ _ _).dropWriteClaim w))
  extract_lets x u
  have hu : Quiet s u := hloaded x
  split
  · exact .ite hu (hu.dropClaim _)
  · exact hu

theorem openDone (h : Quiet s t) (w : Write) (n : Nat) : Quiet s (t.openDone w n) := by
  have hopened (x : Intake) : Quiet s { t with intake := x } := h
  exact .ite ((hopened _).answerWrite w _ _ _) (h.answerWrite w _ _ _)

theorem mismatchDone (h : Quiet s t) (w : Write) (slot : Fin 32) : Quiet s (t.mismatchDone w slot) := by
  have hlocked (x : Creds) : Quiet s (State.raise { t with creds := x } sourceLockout) := h
  unfold State.mismatchDone
  exact answerWrite (.ite (hlocked _) h) w _ _ _

theorem credGroupDone (h : Quiet s t) (w : Write) (rs : List (Fin 32 × Option CredContent)) : Quiet s (t.credGroupDone w rs) := by
  have hsettled (x : Creds) : Quiet s { t with creds := x } := h
  unfold State.credGroupDone
  dsimp only
  split
  · exact hsettled _
  · exact (hsettled _).answerWrite w _ _ _

end Quiet

end Sys2Proof.Machine
end

section
/-! # What the restart controller does to its work and its writes

`Directs p s t` says all that one move of the restart controller can do: it can queue a write of R57, R58, R60 or R61, and the
work it then has fits its phase and that write, where `p` says that the phase before was the right one. `Settles s t` says what
such a move and a quiet step have in common: the clock and the records stand, and the controller's work still fits its writes.
-/

namespace Sys2Proof.Machine

open Sys2Proof

/-! ## The writes of CHECKING -/

/-- A write that the restart controller waits for in CHECKING (R57, R58, R60, R61). -/
def WriteKind.checks (k : WriteKind) : Bool := k.selects || k.records

theorem WriteKind.ofRestart_of_checks {k : WriteKind} (h : k.checks = true) : k.ofRestart = true := by
  revert h
  cases k with
  | bootCount => exact fun _ => rfl
  | _ => exact id

/-- The tags of the writes of CHECKING that are queued or taken. -/
def Store.checkingTags (x : Store) : List (Requester × WriteKind) :=
  ((x.taken.map TakenWrite.tag).map Prod.fst).toList.filter (·.2.checks) ++ (x.queue.map Write.tag).filter (·.2.checks)

/-- The controller's work fits its phase and the writes of CHECKING there are. -/
def Restart.Fits (x : Restart) (tags : List (Requester × WriteKind)) : Prop :=
  match x.work with
  | .none => x.phase ≠ .checking ∧ tags = []
  | .held _ => x.phase = .held ∧ tags = []
  | .select => x.phase = .checking ∧ ∃ a, tags = [a] ∧ a.2.selects = true
  | .writeRecord _ => x.phase = .checking ∧ ∃ a, tags = [a] ∧ a.2.records = true
  | .release _ _ => x.phase ≠ .released ∧ tags = []
  | _ => x.phase = .checking ∧ tags = []

theorem State.checkingTags_eq (s : State) : s.store.checkingTags = s.checkingWrites.map Write.tag := by
  unfold State.checkingWrites Store.checkingTags
  rw [List.filter_append, List.map_append, Option.map_map]
  have hfilter (ws : List Write) :
      (ws.map Write.tag).filter (·.2.checks) = (ws.filter fun w => w.kind.selects || w.kind.records).map Write.tag :=
    List.filter_map
  rw [hfilter]
  congr 1
  cases s.store.taken with
  | none => rfl
  | some w => exact hfilter [w.write]

theorem exists_map_eq_singleton {α β : Type} (f : α → β) (l : List α) (p : β → Prop) :
    (∃ b, l.map f = [b] ∧ p b) ↔ ∃ a, l = [a] ∧ p (f a) := by
  constructor
  · rintro ⟨b, h, hb⟩
    obtain ⟨a, rfl, rfl⟩ := List.map_eq_singleton_iff.1 h
    exact ⟨a, rfl, hb⟩
  · rintro ⟨a, rfl, ha⟩
    exact ⟨f a, rfl, ha⟩

/-- The invariant speaks of owners and kinds alone. -/
theorem State.restartSound_iff (s : State) :
    s.RestartSound ↔ (∀ a ∈ s.store.checkingTags, a.1 = .restart) ∧ s.restart.Fits s.store.checkingTags := by
  rw [s.checkingTags_eq, List.forall_mem_map]
  refine and_congr Iff.rfl ?_
  unfold Restart.Fits
  cases s.restart.work with
  | select => exact and_congr Iff.rfl (exists_map_eq_singleton Write.tag _ (·.2.selects = true)).symm
  | writeRecord v => exact and_congr Iff.rfl (exists_map_eq_singleton Write.tag _ (·.2.records = true)).symm
  | _ => exact and_congr Iff.rfl List.map_eq_nil_iff.symm

/-! ## What a quiet step keeps of the write queue -/

/-- The boot count writes that are queued. -/
def Store.bootsQueued (x : Store) : Nat := x.queue.countP (fun w => w.kind = .bootCount)

theorem Requeues.boots_le {q q' : List Write} (h : Requeues q q') :
    q'.countP (fun w => w.kind = .bootCount) ≤ q.countP (fun w => w.kind = .bootCount) := by
  obtain ⟨keep, new, rfl, -, htag, hnew⟩ := h
  have hzero : new.countP (fun w => w.kind = .bootCount) = 0 :=
    List.countP_eq_zero.2 fun w hw hk => by
      have := hnew w hw
      rw [of_decide_eq_true hk] at this
      cases this
  rw [List.countP_append, hzero, Nat.add_zero]
  induction q with
  | nil => exact le_rfl
  | cons w q ih =>
    rw [List.filterMap_cons]
    split
    · exact ih.trans (List.sublist_cons_self w q).countP_le
    · rename_i v hv
      rw [List.countP_cons, List.countP_cons, show v.kind = w.kind from congrArg Prod.snd (htag w v hv)]
      exact Nat.add_le_add_right ih _

/-- No request gives up a write of the restart controller, or queues one like it. -/
theorem Requeues.checking {q q' : List Write} (h : Requeues q q')
    (hown : ∀ a ∈ (q.map Write.tag).filter (·.2.checks), a.1 = .restart) :
    (q'.map Write.tag).filter (·.2.checks) = (q.map Write.tag).filter (·.2.checks) := by
  obtain ⟨keep, new, rfl, hkeep, htag, hnew⟩ := h
  have hnone : (new.map Write.tag).filter (·.2.checks) = [] := by
    rw [List.filter_eq_nil_iff]
    intro a ha hc
    obtain ⟨w, hw, rfl⟩ := List.mem_map.1 ha
    exact absurd (WriteKind.ofRestart_of_checks hc) (ne_true_of_eq_false (hnew w hw))
  rw [List.map_append, List.filter_append, hnone, List.append_nil]
  induction q with
  | nil => rfl
  | cons w q ih =>
    have hrest := ih fun a ha => hown a (by
      rw [List.map_cons, List.filter_cons]
      split
      · exact List.mem_cons_of_mem _ ha
      · exact ha)
    by_cases hc : w.kind.checks = true
    · have hw : w.owner = .restart := hown w.tag (by
        rw [List.map_cons, List.filter_cons_of_pos (by exact hc)]
        exact List.mem_cons_self)
      rw [List.filterMap_cons_some (hkeep w hw), List.map_cons, List.map_cons, List.filter_cons_of_pos (by exact hc),
        List.filter_cons_of_pos (by exact hc), hrest]
    · rw [List.map_cons, List.filter_cons_of_neg (by exact hc), List.filterMap_cons]
      split
      · exact hrest
      · rename_i v hv
        rw [List.map_cons, List.filter_cons_of_neg (by rw [htag w v hv]; exact hc), hrest]

/-! ## What every move keeps -/

/-- The clock and the records stand, and no boot count write comes. -/
def Steady (s t : State) : Prop :=
  KeepsClock s t ∧ KeepsStored s t ∧ t.store.bootsQueued ≤ s.store.bootsQueued

/-- A steady move after which the controller's work still fits its writes. -/
def Settles (s t : State) : Prop := Steady s t ∧ (s.RestartSound → t.RestartSound)

/-- A move of any part of the machine but a release. -/
def Tame (s t : State) : Prop := Lowers s t ∧ Settles s t

theorem Steady.refl (s : State) : Steady s s := ⟨KeepsClock.refl s, ⟨rfl, rfl, rfl⟩, le_rfl⟩

theorem Steady.trans {s t u : State} (h : Steady s t) (h' : Steady t u) : Steady s u := by
  obtain ⟨hclock, ⟨hworking, hnonvolatile, htaken⟩, hboots⟩ := h
  obtain ⟨hclock', ⟨hworking', hnonvolatile', htaken'⟩, hboots'⟩ := h'
  exact ⟨hclock.trans hworking hclock',
    ⟨hworking'.trans hworking, hnonvolatile'.trans hnonvolatile, htaken'.trans htaken⟩, hboots'.trans hboots⟩

theorem Settles.refl (s : State) : Settles s s := ⟨Steady.refl s, id⟩

theorem Settles.trans {s t u : State} (h : Settles s t) (h' : Settles t u) : Settles s u :=
  ⟨h.1.trans h'.1, fun hs => h'.2 (h.2 hs)⟩

theorem Tame.refl (s : State) : Tame s s := ⟨Lowers.refl s, Settles.refl s⟩

theorem Tame.trans {s t u : State} (h : Tame s t) (h' : Tame t u) : Tame s u := ⟨h.1.trans h'.1, h.2.trans h'.2⟩

/-- The writes of CHECKING stay what they are in a quiet step. -/
theorem Quiet.checkingTags {s t : State} (h : Quiet s t) (hown : ∀ a ∈ s.store.checkingTags, a.1 = .restart) :
    t.store.checkingTags = s.store.checkingTags := by
  obtain ⟨-, -, -, ⟨-, -, htaken⟩, hqueue⟩ := h
  unfold Store.checkingTags at hown ⊢
  rw [htaken, hqueue.checking fun a ha => hown a (List.mem_append_right _ ha)]

theorem Quiet.fits {s t : State} (h : Quiet s t) (hs : s.RestartSound) : t.RestartSound := by
  rw [State.restartSound_iff] at hs ⊢
  obtain ⟨hown, hfits⟩ := hs
  obtain ⟨-, ⟨hphase, hwork⟩, -⟩ := id h
  rw [h.checkingTags hown]
  refine ⟨hown, ?_⟩
  unfold Restart.Fits at hfits ⊢
  rwa [hphase, hwork]

theorem Quiet.tame {s t : State} (h : Quiet s t) : Tame s t := by
  obtain ⟨hlow, -, hclock, hstored, hqueue⟩ := id h
  exact ⟨hlow, ⟨hclock, hstored, hqueue.boots_le⟩, h.fits⟩

namespace Tame

variable {s t : State}

theorem ite {p : Prop} [Decidable p] {a b : State} (ha : Tame s a) (hb : Tame s b) : Tame s (if p then a else b) := by
  split
  · exact ha
  · exact hb

theorem startNext (h : Tame s t) : Tame s t.startNext := h.trans (Quiet.refl t).startNext.tame

end Tame

theorem Settles.startNext {s t : State} (h : Settles s t) : Settles s t.startNext :=
  h.trans (Quiet.refl t).startNext.tame.2

/-! ## A move of the restart controller -/

/-- Trust and the window do not rise, the clock stands, and the store changes by writes of CHECKING that the controller queues and
that fit the work it then has, where `p` holds. -/
def Directs (p : Prop) (s t : State) : Prop :=
  Lowers s t ∧ t.time = s.time ∧ ∃ ws : List Write, t.store = { s.store with queue := s.store.queue ++ ws } ∧
    (∀ w ∈ ws, w.owner = .restart ∧ w.kind.checks = true) ∧ (p → t.restart.Fits (ws.map Write.tag))

namespace Directs

variable {p q : Prop} {s t u : State}

theorem mono (h : Directs p s t) (hpq : q → p) : Directs q s t := by
  obtain ⟨hlow, htime, ws, hstore, hws, hfits⟩ := h
  exact ⟨hlow, htime, ws, hstore, hws, fun hq => hfits (hpq hq)⟩

theorem ite {c : Prop} [Decidable c] {a b : State} (ha : Directs p s a) (hb : Directs p s b) :
    Directs p s (if c then a else b) := by
  split
  · exact ha
  · exact hb

/-- A move that queues nothing. -/
theorem works (hwatch : t.watch.trust = s.watch.trust) (hwindow : t.restart.bootWindow = s.restart.bootWindow)
    (htime : t.time = s.time) (hstore : t.store = s.store) (hfits : p → t.restart.Fits []) : Directs p s t := by
  refine ⟨⟨hwatch ▸ le_rfl, hwindow ▸ id⟩, htime, [], ?_, fun _ hw => absurd hw List.not_mem_nil, hfits⟩
  rw [hstore, List.append_nil]

/-- A move that queues one write. -/
theorem queues {k : WriteKind} (hwatch : t.watch.trust = s.watch.trust)
    (hwindow : t.restart.bootWindow = s.restart.bootWindow) (htime : t.time = s.time)
    (hstore : t.store = { s.store with queue := s.store.queue ++ [⟨.restart, k, true⟩] }) (hk : k.checks = true)
    (hfits : p → t.restart.Fits [(.restart, k)]) : Directs p s t :=
  ⟨⟨hwatch ▸ le_rfl, hwindow ▸ id⟩, htime, _, hstore, fun w hw => by rw [List.mem_singleton.1 hw]; exact ⟨rfl, hk⟩, hfits⟩

/-- Where no write of CHECKING was about, the move leaves work that fits the writes there are. -/
theorem sound (h : Directs p s t) (hp : p) (hnone : s.store.checkingTags = []) : t.RestartSound := by
  obtain ⟨-, -, ws, hstore, hws, hfits⟩ := h
  have hall : (ws.map Write.tag).filter (·.2.checks) = ws.map Write.tag := by
    rw [List.filter_eq_self]
    intro a ha
    obtain ⟨w, hw, rfl⟩ := List.mem_map.1 ha
    exact (hws w hw).2
  have htags : t.store.checkingTags = ws.map Write.tag := by
    unfold Store.checkingTags at hnone ⊢
    rw [hstore, List.map_append, List.filter_append, hall, ← List.append_assoc, hnone, List.nil_append]
  rw [State.restartSound_iff, htags]
  refine ⟨fun a ha => ?_, hfits hp⟩
  obtain ⟨w, hw, rfl⟩ := List.mem_map.1 ha
  exact (hws w hw).1

theorem steady (h : Directs p s t) : Steady s t := by
  obtain ⟨-, htime, ws, hstore, hws, -⟩ := h
  refine ⟨⟨by rw [htime], by rw [htime], .inl (by rw [htime])⟩, ⟨by rw [hstore], by rw [hstore], by rw [hstore]⟩, ?_⟩
  have hzero : ws.countP (fun w => w.kind = .bootCount) = 0 :=
    List.countP_eq_zero.2 fun w hw hk => by
      have := (hws w hw).2
      rw [of_decide_eq_true hk] at this
      cases this
  unfold Store.bootsQueued
  rw [hstore, List.countP_append, hzero]
  exact le_rfl

theorem tame (h : Directs p s t) (hsound : s.RestartSound → p ∧ s.store.checkingTags = []) : Tame s t :=
  ⟨h.1, h.steady, fun hs => h.sound (hsound hs).1 (hsound hs).2⟩

end Directs

/-! ## Verification of a slot (R59) -/

section verification

variable (s : State)

theorem State.startVerify_directs (v : Verify) : Directs (s.restart.phase = .checking) s (s.startVerify v) :=
  .works rfl rfl rfl rfl fun h => ⟨h, rfl⟩

theorem State.rejectSlot_directs (v : Verify) (md : Digest) (r : SlotResult) :
    Directs (s.restart.phase = .checking) s (s.rejectSlot v md r) := by
  obtain ⟨_, e⟩ := s.cancelRead_touches .restart
  unfold State.rejectSlot
  rw [e]
  exact .queues (k := .slotReject v.slot md) rfl rfl rfl rfl rfl fun h => ⟨h, _, rfl, rfl⟩

theorem State.passSlot_directs (v : Verify) (m : Manifest) (md : Digest) :
    Directs (s.restart.phase = .checking) s (s.passSlot v m md) :=
  .queues (k := .slotPass v.slot m.version md v.fallback) rfl rfl rfl rfl rfl fun h => ⟨h, _, rfl, rfl⟩

/-- Work that follows on reads and crypto jobs alone. -/
theorem State.setRestartWork_directs {u : State} {w : RestartWork} (h : ∃ x j, u = { s with storage := x, crypto := j })
    (hw : ∀ r : Restart, r.phase = .checking → { r with work := w }.Fits []) :
    Directs (s.restart.phase = .checking) s (u.setRestartWork w) := by
  obtain ⟨x, j, rfl⟩ := h
  exact .works rfl rfl rfl rfl (hw s.restart)

theorem State.enqueueJob_reads {s u : State} (h : ∃ x j, u = { s with storage := x, crypto := j }) (r : Requester)
    (k : JobKind) : ∃ x j, u.enqueueJob r k = { s with storage := x, crypto := j } := by
  obtain ⟨x, j, rfl⟩ := h
  obtain ⟨j', e⟩ := State.enqueueJob_touches { s with storage := x, crypto := j } r k
  exact ⟨x, j', e⟩

theorem State.pipeRead_reads {s u : State} (h : ∃ x j, u = { s with storage := x, crypto := j }) (user : JobUser) (base : Nat)
    (p : Pipe) : ∃ x j, (u.pipeRead user base p).1 = { s with storage := x, crypto := j } := by
  obtain ⟨x, j, rfl⟩ := h
  unfold State.pipeRead
  split <;> exact ⟨_, _, rfl⟩

theorem State.pipeDigest_reads {s u : State} (h : ∃ x j, u = { s with storage := x, crypto := j }) (r : Requester)
    (user : JobUser) (base : Nat) (p : Pipe) (block : List Byte) :
    ∃ x j, (u.pipeDigest r user base p block).1 = { s with storage := x, crypto := j } :=
  State.pipeRead_reads (State.enqueueJob_reads h r _) user base _

theorem State.verifyManifest_directs (v : Verify) (block : List Byte) (md : Digest) :
    Directs (s.restart.phase = .checking) s (s.verifyManifest v block md) := by
  unfold State.verifyManifest
  split
  · exact s.rejectSlot_directs _ _ _
  · split
    · exact s.rejectSlot_directs _ _ _
    · refine s.setRestartWork_directs (State.enqueueJob_reads ?_ _ _) fun _ h => ⟨h, rfl⟩
      split
      · exact State.pipeRead_reads ⟨_, _, rfl⟩ _ _ _
      · exact ⟨_, _, rfl⟩

theorem State.verifySignature_directs (v : Verify) (m : Manifest) (md : Digest) (p : Pipe) (ok : Bool) :
    Directs (s.restart.phase = .checking) s (s.verifySignature v m md p ok) := by
  refine .ite (s.rejectSlot_directs _ _ _) (.ite (s.rejectSlot_directs _ _ _) ?_)
  split
  · exact s.setRestartWork_directs (State.pipeDigest_reads ⟨_, _, rfl⟩ _ _ _ _ _) fun _ h => ⟨h, rfl⟩
  · exact s.setRestartWork_directs ⟨_, _, rfl⟩ fun _ h => ⟨h, rfl⟩

theorem State.verifyImage_directs (v : Verify) (m : Manifest) (md d : Digest) :
    Directs (s.restart.phase = .checking) s (s.verifyImage v m md d) :=
  .ite (s.rejectSlot_directs _ _ _) (.ite (s.rejectSlot_directs _ _ _) (s.passSlot_directs _ _ _))

end verification

/-! ## Release and halt (R54, R62, R63) -/

section release

variable (s : State)

theorem State.beginRelease_directs (trust : Trust) (halt : HaltReason) :
    Directs (s.restart.phase ≠ .released) s (s.beginRelease trust halt) := by
  obtain ⟨_, e⟩ := (s.completeOutcome trust halt).enqueueJob_touches .restart (.extend 0 s.register0Input)
  unfold State.beginRelease
  rw [e]
  exact .works rfl rfl rfl rfl fun h => ⟨h, rfl⟩

theorem State.halt_directs (r : HaltReason) : Directs True s (s.halt r) :=
  .works rfl rfl rfl rfl fun _ => ⟨Phase.noConfusion, rfl⟩

/-- Each stage but the last submits the job of the next one. -/
theorem State.releaseJob_directs {stage : ReleaseStage} (h : stage ≠ .extend2) (trust : Trust) (d : Digest)
    (hw : s.restart.work = .release stage trust) :
    Directs (s.restart.phase ≠ .released) s (s.releaseJob stage trust d) := by
  have submit (u : State) (k : JobKind) (next : ReleaseStage) (hu : ∃ x, u = { s with watch := { s.watch with registers := x } }) :
      Directs (s.restart.phase ≠ .released) s ((u.enqueueJob .restart k).setRestartWork (.release next trust)) := by
    obtain ⟨x, rfl⟩ := hu
    obtain ⟨_, e⟩ := State.enqueueJob_touches { s with watch := { s.watch with registers := x } } .restart k
    rw [e]
    exact .works rfl rfl rfl rfl fun h => ⟨h, rfl⟩
  cases stage with
  | extend0 => exact submit _ _ _ ⟨_, rfl⟩
  | tableDigest => exact submit s _ _ ⟨_, rfl⟩
  | extend1 => exact submit _ _ _ ⟨_, rfl⟩
  | outcomeDigest => exact submit s _ _ ⟨_, rfl⟩
  | extend2 => exact absurd rfl h
  | force => exact .works rfl rfl rfl rfl fun h => by unfold Restart.Fits State.releaseJob; rw [hw]; exact ⟨h, rfl⟩

end release

/-! ## Selection and fallback (R57 to R62) -/

section selection

variable (s : State)

theorem State.selectSlot_directs : Directs (s.restart.phase = .checking) s s.selectSlot := by
  have waits (k : WriteKind) (hk : k.selects = true) :
      Directs (s.restart.phase = .checking) s ((s.enqueueWrite .restart k).setRestartWork .select) :=
    .queues (k := k) rfl rfl rfl rfl (by unfold WriteKind.checks; rw [hk]; rfl) fun h => ⟨h, _, rfl, hk⟩
  exact .ite (waits _ rfl) (.ite (.ite (waits _ rfl) (waits _ rfl)) (s.startVerify_directs _))

theorem State.beginRelease_checking (trust : Trust) (halt : HaltReason) :
    Directs (s.restart.phase = .checking) s (s.beginRelease trust halt) :=
  (s.beginRelease_directs trust halt).mono fun h => by rw [h]; exact Phase.noConfusion

theorem State.afterReject_directs (v : Verify) : Directs (s.restart.phase = .checking) s (s.afterReject v) :=
  .ite (s.startVerify_directs _) (.ite ((s.halt_directs _).mono fun _ => trivial) (s.beginRelease_checking _ _))

theorem State.afterPass_directs (v : Verify) : Directs (s.restart.phase = .checking) s (s.afterPass v) := by
  rw [s.afterPass_eq v]
  exact State.beginRelease_checking (s.setOutcome _) _ _

end selection

end Sys2Proof.Machine
end

section
/-! # What each command keeps

Every command but nine leaves trust and the boot window where they are or lower, the clock and the records standing, and the
work of the restart controller fitting its writes: `exec_tame`. -/

namespace Sys2Proof.Machine

open Sys2Proof

/-! ## The controller's moves under its invariant -/

/-- What the controller is doing says which phase it is in and which writes there are. -/
theorem State.RestartSound.at_work {s : State} (h : s.RestartSound) {w : RestartWork} (hw : s.restart.work = w) :
    { s.restart with work := w }.Fits s.store.checkingTags := by
  subst hw
  exact (s.restartSound_iff.1 h).2

/-- In RELEASED the controller rests. -/
theorem Restart.Fits.released {x : Restart} {tags : List (Requester × WriteKind)} (h : x.Fits tags) (hp : x.phase = .released) :
    x.work = .none ∧ tags = [] := by
  unfold Restart.Fits at h
  split at h
  · rename_i hw
    exact ⟨hw, h.2⟩
  · exact nomatch hp.symm.trans h.1
  · exact nomatch hp.symm.trans h.1
  · exact nomatch hp.symm.trans h.1
  · exact absurd hp h.1
  · exact nomatch hp.symm.trans h.1

/-- Outside a verification the controller's work does not change with a block read (R59). -/
theorem State.restartBlock_tame (s : State) (block : List Byte) : Tame s (s.restartBlock block) := by
  unfold State.restartBlock
  split
  · rename_i v hw
    exact Directs.tame (p := s.restart.phase = .checking)
      (s.setRestartWork_directs (State.enqueueJob_reads ⟨_, _, rfl⟩ _ _) fun _ h => ⟨h, rfl⟩) fun h => h.at_work hw
  · rename_i v m md p hw
    exact Directs.tame (p := s.restart.phase = .checking)
      (s.setRestartWork_directs ⟨_, _, rfl⟩ fun _ h => ⟨h, rfl⟩) fun h => h.at_work hw
  · rename_i v m md p hw
    refine Directs.tame (p := s.restart.phase = .checking)
      (s.setRestartWork_directs ?_ fun _ h => ⟨h, rfl⟩) fun h => h.at_work hw
    unfold State.pipeBlock
    split
    · exact ⟨_, _, rfl⟩
    · exact State.pipeDigest_reads ⟨_, _, rfl⟩ _ _ _ _ _
  · exact Tame.refl s

/-- Steps 3 to 8 of R63 end the controller's work. -/
theorem State.finishRelease_settles (s : State) (trust : Trust) (hnone : s.RestartSound → s.store.checkingTags = []) :
    Settles s (s.finishRelease trust) :=
  ⟨Steady.refl s, fun h => (State.restartSound_iff _).2
    ⟨((s.restartSound_iff).1 h).1, Phase.noConfusion, hnone h⟩⟩

/-- A stage of the release but the last goes on to the next one, and the last one waits or releases the part. -/
theorem State.releaseJob_cases (s : State) {stage : ReleaseStage} {trust : Trust} (hw : s.restart.work = .release stage trust)
    (d : Digest) :
    Tame s (s.releaseJob stage trust d) ∨
      stage = .extend2 ∧ s.releaseJob stage trust d = (s.setRegister 2 d).finishRelease trust := by
  by_cases hlast : stage = .extend2
  · subst hlast
    rw [s.releaseJob_last]
    split
    · exact .inl (Directs.tame (p := s.restart.phase ≠ .released) (.works rfl rfl rfl rfl fun h => ⟨h, rfl⟩)
        fun h => h.at_work hw)
    · exact .inr ⟨rfl, rfl⟩
  · exact .inl ((s.releaseJob_directs hlast trust d hw).tame fun h => h.at_work hw)

/-- A job of the restart controller has ended (R59, R63). -/
theorem State.restartJob_cases (s : State) (result : JobResult) :
    Tame s (s.restartJob result) ∨
      ∃ trust d, s.restart.work = .release .extend2 trust ∧ s.restartJob result = (s.setRegister 2 d).finishRelease trust := by
  unfold State.restartJob
  split
  · rename_i v block md hw
    exact .inl ((s.verifyManifest_directs v block md).tame fun h => h.at_work hw)
  · rename_i v m md p ok hw
    exact .inl ((s.verifySignature_directs v m md p ok).tame fun h => h.at_work hw)
  · rename_i v m md p bytes hw
    refine .inl (Directs.tame (p := s.restart.phase = .checking)
      (s.setRestartWork_directs ?_ fun _ h => ⟨h, rfl⟩) fun h => h.at_work hw)
    unfold State.pipeAbsorbed
    dsimp only
    split
    · exact State.pipeDigest_reads ⟨_, _, rfl⟩ _ _ _ _ _
    · exact ⟨_, _, rfl⟩
  · rename_i v m md p d hw
    exact .inl ((s.verifyImage_directs v m md d).tame fun h => h.at_work hw)
  · rename_i stage trust d hw
    refine (s.releaseJob_cases hw d).imp_right fun ⟨hlast, e⟩ => ⟨trust, d, hlast ▸ hw, e⟩
  · exact .inl (Tame.refl s)

/-- The halt for a small flash comes out of HELD (R54). -/
theorem State.tryHaltFlash_tame (s : State) : Tame s s.tryHaltFlash := by
  unfold State.tryHaltFlash
  split
  · rename_i hw _
    exact .ite ((s.halt_directs _).tame fun h => ⟨trivial, (h.at_work hw).2⟩) (Tame.refl s)
  · exact Tame.refl s

/-! ## The entry into HELD -/

/-- An entry into HELD lowers trust, closes the window and drops every queued write (R51, R52, R72, R84). -/
theorem State.enterHeld_tame {s : State} (hp : s.restart.phase = .released) (cause : Cause) : Tame s (s.enterHeld cause) := by
  obtain ⟨hlow, -, hclock, -, -⟩ := (Quiet.refl s).abandonRead
  rw [s.enterHeld_eq cause]
  refine ⟨⟨?_, fun h => Bool.noConfusion h⟩, ⟨hclock, ⟨rfl, rfl, ?_⟩, Nat.zero_le _⟩, fun h => ?_⟩
  · show Trust.level (Watch.trust (ite _ _ _)) ≤ _
    split
    · exact hlow.1
    · exact Nat.zero_le _
  · rw [Option.map_map]
    rfl
  · obtain ⟨-, hnone⟩ := (s.restartSound_iff.1 h).2.released hp
    have htags : Store.checkingTags
        { s.store with queue := [], taken := s.store.taken.map fun w => { w with write := { w.write with live := false } } } =
        [] := by
      unfold Store.checkingTags at hnone ⊢
      rw [Option.map_map] at hnone ⊢
      rw [Option.map_map]
      exact List.append_eq_nil_iff.2 ⟨(List.append_eq_nil_iff.1 hnone).1, rfl⟩
    rw [State.restartSound_iff]
    dsimp only
    rw [htags]
    exact ⟨fun _ ha => absurd ha List.not_mem_nil, rfl, rfl⟩

theorem State.trigger_tame (s : State) (cause : Cause) : Tame s (s.trigger cause) := by
  unfold State.trigger
  split
  · rename_i hp
    exact State.enterHeld_tame hp cause
  · exact Tame.refl s

/-! ## The commands -/

theorem tame_event {s t : State} {f : State → State} (e : whenRunning s f = .next t) (hf : Tame s (f s)) : Tame s t :=
  whenRunning_keeps (P := Tame s) (Tame.refl s) hf e

theorem tame_quiet {s t : State} {f : State → State} (e : whenRunning s f = .next t) (hf : Quiet s (f s)) : Tame s t :=
  tame_event e hf.tame

theorem tame_request {s t : State} {c : Ctx} {code : Nat} {f : List Byte → State → State}
    (e : (whenRunning s fun s => s.onRequest c code f) = .next t) (hf : ∀ body, Quiet s (f body s)) : Tame s t :=
  tame_quiet e (State.onRequest_keeps (P := Quiet s) (Quiet.refl s) hf)

/-- The commands that change the clock, the records or the supply, or that can release the part. -/
def isMove : Instr → Bool
  | .powerOn _ _ | .powerLoss | .resetNLow | .lineReset _ | .tick _ | .cryptoJobEnd | .hostForwardComplete _ | .retainedWriteTake
  | .retainedWriteComplete => true
  | _ => false

theorem execRestartLine_tame {s t : State} (e : execRestartLine s = .next t) : Tame s t := by
  cases e
  exact .ite (Tame.refl s) (.ite (State.trigger_tame { s with pins := { s.pins with rstReq := true } } _) (Tame.refl s))

theorem execTrialExpiry_tame {s t : State} (e : execTrialExpiry s = .next t) : Tame s t := by
  refine tame_event e ?_
  split
  · rename_i h
    exact State.enterHeld_tame h.1 _
  · exact Tame.refl s

theorem execPresenceRelease_tame {s t : State} (e : execPresenceRelease s = .next t) : Tame s t := by
  refine tame_event e ?_
  split
  · rename_i h
    obtain ⟨hphase, -, hwork⟩ := h
    have hbegun := State.beginRelease_directs (s.setOutcome { s.restart.outcome with cause := .presenceRelease })
      .unverified .noBootableSlot
    refine Tame.startNext (Directs.tame (p := s.restart.phase ≠ .released) hbegun fun hs => ?_)
    exact ⟨by rw [hphase]; exact Phase.noConfusion, (hs.at_work hwork).2⟩
  · exact Tame.refl s

theorem execCapacityHandover_tame {s t : State} {id : Byte} {took : Bool} (e : execCapacityHandover id took s = .next t) :
    Tame s t := by
  refine tame_event e ?_
  split
  · exact Tame.refl s
  · exact State.tryHaltFlash_tame (s.handedOver id took)

theorem execBackgroundJobRun_tame {s t : State} {count : Nat} (e : execBackgroundJobRun count s = .next t) : Tame s t := by
  unfold execBackgroundJobRun at e
  split at e
  · cases e
    exact Tame.refl s
  · split at e
    · split at e <;> cases e
      exact Tame.refl s
    · cases e
      exact Tame.refl s

theorem execBackgroundReadComplete_tame {s t : State} (e : execBackgroundReadComplete s = .next t) : Tame s t := by
  refine tame_event e ?_
  split
  · exact Tame.refl s
  · refine .ite (Tame.startNext ?_) (Tame.refl s)
    split
    · exact State.restartBlock_tame { s with storage := { s.storage with link := .idle, job := none } } _
    · exact (Quiet.intakeBlock (t := { s with storage := { s.storage with link := .idle, job := none } }) (Quiet.refl s) _).tame

/-- The end of HELD finds no write of CHECKING (R47, R57). -/
theorem execHeldEnd_tame {s t : State} (e : execHeldEnd s = .next t) : Tame s t := by
  refine tame_event e ?_
  split
  · rename_i hdone
    obtain ⟨hphase, hqueue, htaken⟩ := State.heldDone_idle hdone
    have hnone : s.store.checkingTags = [] := by
      unfold Store.checkingTags
      rw [hqueue, htaken]
      rfl
    obtain ⟨-, i, hi⟩ := s.reconcileSession_follows
    rw [hi]
    refine Tame.startNext (.ite ?_ ?_)
    · exact Directs.tame (s := s) (State.selectSlot_directs (State.setPhase { s with intake := i } .checking))
        fun _ => ⟨rfl, hnone⟩
    · exact Directs.tame (s := s) (State.beginRelease_directs { s with intake := i } .unverified .none)
        fun _ => ⟨by rw [show _ = Phase.held from hphase]; exact Phase.noConfusion, hnone⟩
  · exact Tame.refl s

theorem execRestart_tame {s t : State} {c : Ctx} (e : execRestart c s = .next t) : Tame s t := by
  refine tame_event e (State.onRequest_keeps (P := Tame s) (Tame.refl s) fun body => .ite ?_ (Tame.refl s))
  split
  · rename_i hp
    exact State.enterHeld_tame hp _
  · exact Tame.refl s

theorem execIdentityDrawDone_tame {s t : State} (e : execIdentityDrawDone s = .next t) : Tame s t := by
  have hq := Quiet.refl s
  refine tame_quiet e ?_
  split
  · exact .ite (Quiet.requestWrite (t := { s with draws := s.draws + 2 }) hq _ (k := .identity _ _) rfl) hq
  · exact hq

theorem execProvisioningClaimGrant_tame {s t : State} (e : execProvisioningClaimGrant s = .next t) : Tame s t := by
  have hq := Quiet.refl s
  refine tame_quiet e ?_
  split
  · split
    · rename_i c rest _ _ w _ _
      exact Quiet.checkProvisioning
        (t := { s with requests := { s.requests with claim := some c, claimQueue := rest } }) hq _ _ _
    · exact hq
  · exact hq

theorem execSubstituteEraseNext_tame {s t : State} {took : Bool} (e : execSubstituteEraseNext took s = .next t) : Tame s t := by
  have hq := Quiet.refl s
  refine tame_quiet e ?_
  split
  · exact hq
  · split <;> exact hq

theorem execTrialAlertRaise_tame {s t : State} (e : execTrialAlertRaise s = .next t) : Tame s t := by
  have hq := Quiet.refl s
  refine tame_quiet e ?_
  split
  · exact .ite hq hq
  · exact hq

theorem Quiet.closeWindow {s t : State} (h : Quiet s t) :
    Quiet s { t with restart := { t.restart with bootWindow := false } } :=
  h.trans ⟨⟨le_rfl, fun h => Bool.noConfusion h⟩, ⟨rfl, rfl⟩, KeepsClock.refl t, ⟨rfl, rfl, rfl⟩, Requeues.refl _⟩

theorem Quiet.alertRead {s t : State} (h : Quiet s t) (c : Ctx) : Quiet s (t.alertRead c) := by
  have hack : Quiet s (t.acknowledge.answerOk c ([t.alert.pending, t.alert.mask] ++ le 2 t.alert.interval)) := h.acknowledge
  unfold State.alertRead
  refine .ite (hack.trans ?_) hack
  exact Quiet.refl (t.acknowledge.answerOk c ([t.alert.pending, t.alert.mask] ++ le 2 t.alert.interval))

theorem execUpdateCommit_tame {s t : State} {c : Ctx} (e : execUpdateCommit c s = .next t) : Tame s t := by
  have hq := Quiet.refl s
  refine tame_request e fun body => .ite hq (.ite hq ?_)
  split
  · exact .ite hq (Quiet.requestWrite (t := s.setSession { s.intake.session with state := .commitPending }) hq c
      (k := .commit _ s.tableInForce _) rfl)
  · exact hq

/-- Every command that neither ticks, nor takes or completes a write, nor ends a job or a forward, nor belongs to the supply. -/
theorem exec_tame {i : Instr} {s t : State} (hi : isMove i = false) (e : exec i s = .next t) : Tame s t := by
  have hq := Quiet.refl s
  have link {cmd : LinkCmd} {step : LinkStep} (e : (whenRunning s fun s => s.linkStep cmd step) = .next t) : Tame s t :=
    tame_quiet e (hq.linkStep cmd step)
  have empty {c : Ctx} {code : Nat} {f : State → State}
      (e : (whenRunning s fun s => s.onRequest c code fun body s => s.whenEmpty c body (f s)) = .next t)
      (hf : Quiet s (f s)) : Tame s t := tame_request e fun body => hq.whenEmpty c body hf
  unfold exec at e
  cases i with
  | powerOn hcs rstReq => cases hi
  | resetNLow => cases hi
  | lineReset hcs => cases hi
  | tick presence => cases hi
  | hostForwardComplete took => cases hi
  | cryptoJobEnd => cases hi
  | retainedWriteTake => cases hi
  | retainedWriteComplete => cases hi
  | powerLoss => cases hi
  | restartLine => exact execRestartLine_tame e
  | trialExpiry => exact execTrialExpiry_tame e
  | presenceRelease => exact execPresenceRelease_tame e
  | capacityHandover id took => exact execCapacityHandover_tame e
  | backgroundJobRun count => exact execBackgroundJobRun_tame e
  | backgroundReadComplete => exact execBackgroundReadComplete_tame e
  | heldEnd => exact execHeldEnd_tame e
  | restart c => exact execRestart_tame e
  | trialAlertRaise => exact execTrialAlertRaise_tame e
  | idleTimeout => exact tame_quiet e (.ite (hq.failSession _ _) hq)
  | timeout c => exact tame_quiet e (.ite hq hq)
  | requestBusyCapExpiry c => exact tame_quiet e (.ite hq hq)
  | presenceGrantOpen => exact tame_quiet e (.ite hq hq)
  | presenceGrantExpiry => exact tame_quiet e (.ite hq hq)
  | lockoutExpiry slot => exact tame_quiet e (.ite hq hq)
  | realertExpiry => exact tame_quiet e (.ite hq hq)
  | pulseEnd => exact tame_quiet e (.ite hq hq)
  | stampWaitServe => exact tame_quiet e hq.serveAllStamps.startNext
  | read step => exact link e
  | fastRead step => exact link e
  | quadOutputFastRead step => exact link e
  | writeEnable step => exact link e
  | writeDisable step => exact link e
  | readStatus step => exact link e
  | readIdentification step => exact link e
  | pageProgram step => exact link e
  | sectorErase step => exact link e
  | blockErase step => exact link e
  | chipErase step => exact link e
  | unknownCommand code step => exact link e
  | substituteEraseNext took => exact execSubstituteEraseNext_tame e
  | provisioningClaimGrant => exact execProvisioningClaimGrant_tame e
  | identityDrawDone => exact execIdentityDrawDone_tame e
  | info c => exact empty e hq
  | contextReset c => exact empty e (hq.resetContext c)
  | alertRead c => exact empty e (hq.alertRead c)
  | alertSet c => exact tame_request e fun body => .ite hq (.ite (p := _ = _) hq hq)
  | closeBootWindow c => exact empty e hq.closeWindow
  | regionRead c => exact tame_request e fun body => .ite hq (.ite hq hq)
  | regionLoad c => exact tame_request e fun body => hq.provision c _ body
  | watchLoad c =>
    refine tame_request e fun body => .ite hq ?_
    split <;> exact hq
  | watchRead c => exact empty e hq
  | hitsRead c => exact tame_request e fun body => .ite hq (.ite hq (.ite (p := _ = _) hq hq))
  | extend c => exact tame_request e fun body => hq.extendRequest c body
  | measureRead c => exact tame_request e fun body => .ite hq (.ite hq hq)
  | quote c =>
    refine tame_request e fun body => .ite hq (.ite hq (Quiet.startNext ?_))
    exact Quiet.askQuoteStamp (t := s.setWork c .quoting) hq c
  | certRead c => exact empty e hq
  | updateOpen c => exact tame_request e fun body => hq.openRequest c body
  | stagingBank c => exact tame_request e fun body => .ite hq (.ite hq (.ite hq (.ite hq (.ite hq hq))))
  | updateFinish c => exact tame_request e fun body => .ite hq (.ite hq (.ite hq (.ite hq hq)))
  | updateStatus c => exact empty e hq
  | updateCommit c => exact execUpdateCommit_tame e
  | updateAbort c =>
    refine tame_request e fun body => .ite hq (.ite hq (.ite ?_ hq.restSession))
    exact hq.restSession.requestWrite c (k := .clearPending) rfl
  | bootConfirm c =>
    exact tame_request e fun body => .ite hq (.ite hq (.ite hq (hq.requestWrite c (k := .confirm) rfl)))
  | identityGenerate c => exact tame_request e fun body => hq.provision c _ body
  | certStore c => exact tame_request e fun body => hq.provision c _ body
  | keyInject c => exact tame_request e fun body => hq.provision c _ body
  | keyRead c => exact empty e hq
  | derive c =>
    refine tame_request e fun body => .ite hq (.ite hq (Quiet.startNext ?_))
    exact hq.enqueueJob (.ctx c) (.derivation body)
  | lifecycleAdvance c => exact tame_request e fun body => hq.provision c _ body
  | timeSet c => exact tame_request e fun body => .ite hq (.ite hq (.ite hq hq))
  | timeRead c => exact empty e hq
  | credList c => exact empty e hq
  | credRead c =>
    refine tame_request e fun body => .ite hq ?_
    split
    · exact hq
    · split <;> exact hq
  | credReserve c =>
    refine tame_request e fun body => .ite hq (.ite hq ?_)
    split
    · exact hq
    · split <;> exact hq
  | credWriteCond c => exact tame_request e fun body => hq.condRequest c body
  | credCompare c =>
    refine tame_request e fun body => .ite hq ?_
    split
    · exact hq
    · exact (hq.tryCompare c _).startNext
  | ownerWipe c =>
    exact tame_request e fun body => hq.whenEmpty c body (.ite (hq.requestWrite c (k := .wipe) rfl) hq)
  | rstReqNDeassert => cases e; exact hq.tame
  | ignoringTransactionEnd => exact tame_quiet e (.ite hq hq)

end Sys2Proof.Machine
end

section
/-! # The commands that move the restart: power, ticks, writes, and the two that release

What the nine commands that `isMove` names do to trust, to the clock and the records, and to the work of the restart controller. -/

namespace Sys2Proof.Machine

open Sys2Proof

/-! ## A release -/

/-- The part is released at this trust (R63). -/
def Frees (s t : State) (trust : Trust) : Prop :=
  Settles s t ∧ t.watch.trust = trust ∧ t.restart.phase = .released

/-- A result takes its requester on; the last digest of the release sequence can release the part (R63, R118). -/
theorem State.handResult_cases (s : State) (j : RunningJob) :
    Tame s (s.handResult j) ∨
      j.job.requester = .restart ∧ ∃ trust d, s.restart.work = .release .extend2 trust ∧
        s.handResult j = (s.setRegister 2 d).finishRelease trust := by
  have hq := Quiet.refl s
  unfold State.handResult
  split
  · exact .inl hq.tame
  · split
    · rename_i hr
      exact (s.restartJob_cases j.result).imp_right fun h => ⟨hr, h⟩
    · exact .inl (hq.intakeJob j.result).tame
    · exact .inl (hq.ctxJob _ j.result).tame

/-- The end of a crypto job takes the machine on, or is the last job of the release sequence (R63, R118). -/
theorem execCryptoJobEnd_cases {s t : State} (e : execCryptoJobEnd s = .next t) :
    Tame s t ∨ ∃ trust, s.restart.work = .release .extend2 trust ∧ Frees s t trust := by
  refine whenRunning_keeps (P := fun t => Tame s t ∨ ∃ trust, s.restart.work = .release .extend2 trust ∧ Frees s t trust)
    (.inl (Tame.refl s)) ?_ e
  split
  · exact .inl (Tame.refl s)
  · rename_i j _
    rcases s.jobEnded.handResult_cases j with htame | ⟨hr, trust, d, hw, hlast⟩
    · have hdeferred : Tame s ((s.jobEnded.handResult j).enterDeferred j.job.requester) := htame
      exact .inl (Tame.startNext (.ite (hdeferred.trans (Quiet.refl _).kickStream.tame) hdeferred))
    · refine .inr ⟨trust, hw, ?_⟩
      have hfree : Settles s ((s.jobEnded.setRegister 2 d).finishRelease trust) :=
        State.finishRelease_settles (s.jobEnded.setRegister 2 d) trust fun h => (h.at_work hw).2
      have hnext := hfree.startNext (t := ((s.jobEnded.setRegister 2 d).finishRelease trust).enterDeferred .restart)
      obtain ⟨_, _, estart⟩ :=
        (((s.jobEnded.setRegister 2 d).finishRelease trust).enterDeferred .restart).startNext_touches
      show Frees s (if j.job.requester = .intake then ((s.jobEnded.handResult j).enterDeferred j.job.requester).kickStream
        else (s.jobEnded.handResult j).enterDeferred j.job.requester).startNext trust
      rw [hlast, hr, if_neg Requester.noConfusion]
      rw [estart] at hnext ⊢
      exact ⟨hnext, rfl, rfl⟩

/-- A loaded table enters force after a forward, or the release that waited for it goes on (R8, R13, R63). -/
theorem State.loadAfterForward_cases (s : State) :
    Quiet s s.loadAfterForward ∨ ∃ trust, s.restart.work = .release .force trust ∧ s.loadAfterForward = s.finishRelease trust := by
  have hq := Quiet.refl s
  have hforced : Quiet s s.forceLoaded := hq
  have hone : Quiet s (if s.forceLoaded.work? .c0 = some .awaitForce then s.forceLoaded.answerClaimed .c0 .ok 0 [] else
      s.forceLoaded) := .ite (hforced.answerClaimed _ _ _ _) hforced
  unfold State.loadAfterForward
  split
  · split
    · exact .inl (.ite (hone.answerClaimed _ _ _ _) hone)
    · split
      · rename_i trust hw
        exact .inr ⟨trust, hw, rfl⟩
      · exact .inl hq
  · exact .inl hq

/-- The end of a host forward takes the machine on, or ends the wait of a release (R13, R36, R63). -/
theorem execHostForwardComplete_cases {s t : State} {took : Bool} (e : execHostForwardComplete took s = .next t) :
    Tame s t ∨ ∃ trust, s.restart.work = .release .force trust ∧ Frees s t trust := by
  refine whenRunning_keeps (P := fun t => Tame s t ∨ ∃ trust, s.restart.work = .release .force trust ∧ Frees s t trust)
    (.inl (Tame.refl s)) ?_ e
  split
  · exact .inl (Tame.refl s)
  · rename_i f _
    split
    · exact .inl (Tame.refl s)
    · have hq : Quiet s ((s.forwardEnded took).reportForward f) := Quiet.reportForward (t := s.forwardEnded took) (Quiet.refl s) f
      rcases ((s.forwardEnded took).reportForward f).loadAfterForward_cases with hquiet | ⟨trust, hw, hfree⟩
      · exact .inl (hq.trans hquiet).startNext.tame
      · have hwork : s.restart.work = .release .force trust := hq.2.1.2.symm.trans hw
        have hsettles : Settles s (((s.forwardEnded took).reportForward f).finishRelease trust) :=
          hq.tame.2.trans (State.finishRelease_settles _ trust fun h => (h.at_work hw).2)
        have hnext := hsettles.startNext
        obtain ⟨_, _, estart⟩ := (((s.forwardEnded took).reportForward f).finishRelease trust).startNext_touches
        refine .inr ⟨trust, hwork, ?_⟩
        show Frees s (((s.forwardEnded took).reportForward f).loadAfterForward).startNext trust
        rw [hfree]
        rw [estart] at hnext ⊢
        exact ⟨hnext, rfl, rfl⟩

/-! ## Power and the tick -/

theorem State.cold_lowers (s u : State) (pins : Pins) (flash : Flash) : Lowers u (s.cold pins flash) :=
  ⟨Nat.zero_le _, fun h => Bool.noConfusion h⟩

theorem State.startPowerClass_lowers (s u : State) (pins : Pins) (flash : Flash) (cause : Cause) (hcs : Bool) :
    Lowers u ((s.cold pins flash).startPowerClass cause hcs) := ⟨Nat.zero_le _, fun h => Bool.noConfusion h⟩

theorem State.cold_restartSound (s : State) (pins : Pins) (flash : Flash) : (s.cold pins flash).RestartSound :=
  (State.restartSound_iff _).2 ⟨fun _ ha => absurd ha List.not_mem_nil, Phase.noConfusion, rfl⟩

theorem State.startPowerClass_restartSound (s : State) (pins : Pins) (flash : Flash) (cause : Cause) (hcs : Bool) :
    ((s.cold pins flash).startPowerClass cause hcs).RestartSound :=
  (State.restartSound_iff _).2 ⟨fun _ ha => absurd ha List.not_mem_nil, rfl, rfl⟩

theorem State.restartSound_congr {s t : State} (hphase : t.restart.phase = s.restart.phase)
    (hwork : t.restart.work = s.restart.work) (hstore : t.store.checkingTags = s.store.checkingTags) (h : s.RestartSound) :
    t.RestartSound := by
  rw [State.restartSound_iff] at h ⊢
  unfold Restart.Fits at h ⊢
  rwa [hphase, hwork, hstore]

/-- The presence hold is all that a tick changes of the restart controller (R65). -/
theorem Restart.onTick_touches (x : Restart) (presence : Bool) : ∃ n, x.onTick presence = { x with presenceHold := n } := by
  unfold Restart.onTick
  split <;> exact ⟨_, rfl⟩

/-- A tick counts, and leaves stamps, records and the controller's work alone (R128, R129). -/
theorem execTick_cases {s t : State} {presence : Bool} (e : execTick presence s = .next t) :
    t = s ∨ ∃ n c, t = { s with
      time := { s.time with tick := s.time.tick + 1 }, restart := { s.restart with presenceHold := n }, creds := c } := by
  refine whenRunning_keeps (P := fun t => t = s ∨ ∃ n c, t = { s with
    time := { s.time with tick := s.time.tick + 1 }, restart := { s.restart with presenceHold := n }, creds := c })
    (.inl rfl) ?_ e
  split
  · obtain ⟨n, hn⟩ := s.restart.onTick_touches presence
    exact .inr ⟨n, _, by rw [hn]⟩
  · exact .inl rfl

/-! ## Taking a write -/

/-- A write that is not taken after all is a request's own (R148, R155). -/
theorem State.decideWrite_cases (s : State) (w : Write) :
    s.decideWrite w = s.startWrite w ∨ w.kind.ofRestart = false ∧ Quiet s (s.decideWrite w) := by
  have hq := Quiet.refl s
  unfold State.decideWrite
  split
  · rename_i slot version c hk _
    split
    · exact .inl rfl
    · refine .inr ⟨by rw [hk]; rfl, .ite (hq.tryCompare c slot) hq⟩
  · rename_i rs c hk _
    split
    · exact .inl rfl
    · exact .inr ⟨by rw [hk]; rfl, .ite hq hq⟩
  · exact .inl rfl

/-- The store takes the oldest write, or drops it and goes on with its request, or does nothing (R188). -/
theorem execRetainedWriteTake_cases {s t : State} (e : execRetainedWriteTake s = .next t) :
    t = s ∨ ∃ w rest, s.store.taken = none ∧ s.store.queue = w :: rest ∧
      (Quiet ((s.unqueue rest).startWrite w) t ∨ w.kind.ofRestart = false ∧ Quiet (s.unqueue rest) t) := by
  refine whenRunning_keeps (P := fun t => t = s ∨ ∃ w rest, s.store.taken = none ∧ s.store.queue = w :: rest ∧
      (Quiet ((s.unqueue rest).startWrite w) t ∨ w.kind.ofRestart = false ∧ Quiet (s.unqueue rest) t)) (.inl rfl) ?_ e
  split
  · rename_i w rest htaken hqueue
    refine .inr ⟨w, rest, htaken, hqueue, ?_⟩
    show Quiet _ ((s.unqueue rest).decideWrite w).startNext ∨ _ ∧ Quiet _ ((s.unqueue rest).decideWrite w).startNext
    rcases (s.unqueue rest).decideWrite_cases w with h | ⟨hk, h⟩
    · rw [h]
      exact .inl (Quiet.refl _).startNext
    · exact .inr ⟨hk, h.startNext⟩
  · exact .inl rfl

theorem State.startWrite_checkingTags {s : State} {w : Write} {rest : List Write} (htaken : s.store.taken = none)
    (hqueue : s.store.queue = w :: rest) : ((s.unqueue rest).startWrite w).store.checkingTags = s.store.checkingTags := by
  unfold Store.checkingTags
  rw [htaken, hqueue, List.map_cons, ← List.singleton_append (x := w.tag), List.filter_append]
  rfl

theorem State.unqueue_checkingTags {s : State} {w : Write} {rest : List Write} (hqueue : s.store.queue = w :: rest)
    (hk : w.kind.checks = false) : (s.unqueue rest).store.checkingTags = s.store.checkingTags := by
  unfold Store.checkingTags
  rw [hqueue, List.map_cons, List.filter_cons_of_neg (by exact ne_true_of_eq_false hk)]
  rfl

/-! ## A completed write -/

/-- The blocks told of a request's write do not move the restart, but for a trigger (R105, R127). -/
theorem State.writeDone_request (s : State) {w : Write} (hk : w.kind.ofRestart = false) (hc : w.kind ≠ .confirm) :
    Tame s (s.writeDone w) := by
  have hq := Quiet.refl s
  have answered (body : List Byte) := hq.answerWrite w .ok 0 body
  have never {k : WriteKind} {u : State} (e : w.kind = k) (hr : k.ofRestart = true) : Tame s u :=
    absurd (hr.symm.trans (e ▸ hk)) Bool.noConfusion
  unfold State.writeDone
  split
  · exact never ‹w.kind = _› rfl
  · exact never ‹w.kind = _› rfl
  · exact never ‹w.kind = _› rfl
  · exact never ‹w.kind = _› rfl
  · exact never ‹w.kind = _› rfl
  · exact never ‹w.kind = _› rfl
  · exact (hq.openDone w _).tame
  · exact .ite ((answered []).tame.trans (State.trigger_tame _ _)) (answered []).tame
  · exact (answered []).tame
  · exact absurd ‹w.kind = _› hc
  · exact (hq.loadDone w).tame
  · exact ((answered _).dropWriteClaim w).tame
  · exact ((answered _).dropWriteClaim w).tame
  · exact ((answered _).dropWriteClaim w).tame
  · exact (answered []).tame.trans (State.trigger_tame _ _)
  · exact (answered []).tame
  · exact (hq.mismatchDone w _).tame
  · exact (hq.credGroupDone w _).tame
  · have hlost (x : Creds) : Quiet s { s with creds := x } := hq
    exact ((hlost _).answerWrite w _ _ _).tame

/-- A completed confirm turns trust TRIAL to VERIFIED, and lowers or raises nothing else (R86, R111). -/
theorem State.confirmDone_cases (s : State) (w : Write) :
    Settles s (s.confirmDone w) ∧ (s.confirmDone w).restart.bootWindow = s.restart.bootWindow ∧
      (s.confirmDone w).watch.trust = if s.watch.trust = .trial then .verified else s.watch.trust := by
  obtain ⟨u, htrust, hwindow, hu, e⟩ : ∃ u : State,
      (u.watch.trust = if s.watch.trust = .trial then .verified else s.watch.trust) ∧
        u.restart.bootWindow = s.restart.bootWindow ∧ Settles s u ∧ s.confirmDone w = u.answerWrite w .ok 0 [] := by
    unfold State.confirmDone
    by_cases htrial : s.watch.trust = .trial
    · refine ⟨_, ?_, ?_, ?_, congrArg (State.answerWrite · w .ok 0 []) (if_pos htrial)⟩
      · rw [if_pos htrial]
      · rfl
      · exact Settles.refl s
    · refine ⟨_, ?_, ?_, ?_, congrArg (State.answerWrite · w .ok 0 []) (if_neg htrial)⟩
      · rw [if_neg htrial]
        rfl
      · rfl
      · exact Settles.refl s
  have hanswer : (u.answerWrite w .ok 0 []).watch = u.watch := by
    unfold State.answerWrite
    split
    · split <;> rfl
    · rfl
  rw [e, hanswer, u.answerWrite_restart]
  exact ⟨hu.trans ((Quiet.refl u).answerWrite w .ok 0 []).tame.2, hwindow, htrust⟩

/-- The controller waits in CHECKING for a write of this kind: for one of R57 or R58, or for the record of the slot it verified. -/
def Restart.Awaits (x : Restart) (k : WriteKind) : Prop :=
  x.phase = .checking ∧ (k.selects = true ∨ ∃ v, x.work = .writeRecord v)

/-- The writes of CHECKING take the controller on: it verifies the slot now active, or ends the restart (R57 to R62). -/
theorem State.writeDone_checks (s : State) {w : Write} (hk : w.kind.checks = true) :
    Directs (s.restart.Awaits w.kind) s (s.writeDone w) := by
  have recorded (passed : Bool) (hn : w.kind.selects = false) :
      Directs (s.restart.Awaits w.kind) s (s.recordDone passed) := by
    unfold State.recordDone
    split
    · rename_i v _
      cases passed with
      | true => exact (s.afterPass_directs v).mono And.left
      | false => exact (s.afterReject_directs v).mono And.left
    · rename_i hother
      refine .works rfl rfl rfl rfl fun ⟨_, hwork⟩ => ?_
      rcases hwork with h | ⟨v, h⟩
      · exact nomatch hn.symm.trans h
      · exact absurd h (hother v)
  have verifies (i : Intake) (o : Outcome) (v : Verify) :
      Directs (s.restart.Awaits w.kind) s
        (State.startVerify { s with intake := i, restart := { s.restart with outcome := o } } v) :=
    Directs.mono (p := s.restart.phase = .checking)
      (State.startVerify_directs { s with intake := i, restart := { s.restart with outcome := o } } v) And.left
  unfold State.writeDone
  split
  · rename_i e; rw [e] at hk; cases hk
  · exact verifies _ _ _
  · exact verifies _ _ _
  · exact verifies _ _ _
  · rename_i e
    exact recorded true (by rw [e]; rfl)
  · rename_i e
    exact recorded false (by rw [e]; rfl)
  all_goals
    rename_i e
    rw [e] at hk
    cases hk

end Sys2Proof.Machine
end

section
/-! # The laws of the restart

Trust and the boot window (R72, R84), the order of stamps (R136), and the work of the restart controller (R46, R57 to R63). -/

namespace Sys2Proof.Machine

open Sys2Proof

/-! ## The controller's work and its writes -/

/-- One write of CHECKING is all the controller waits for, and its work says so. -/
theorem Restart.Fits.waits {x : Restart} {a : Requester × WriteKind} {tags : List (Requester × WriteKind)}
    (h : x.Fits (a :: tags)) :
    x.Awaits a.2 ∧ tags = [] := by
  unfold Restart.Fits at h
  split at h
  · exact nomatch h.2
  · exact nomatch h.2
  · obtain ⟨hphase, b, hb, hk⟩ := h
    obtain ⟨rfl, rfl⟩ := List.cons.inj hb
    exact ⟨⟨hphase, .inl hk⟩, rfl⟩
  · rename_i v hw
    obtain ⟨hphase, b, hb, -⟩ := h
    exact ⟨⟨hphase, .inr ⟨v, hw⟩⟩, (List.cons.inj hb).2⟩
  · exact nomatch h.2
  · exact nomatch h.2

theorem execRetainedWriteTake_restartSound {s t : State} (h : s.RestartSound) (e : execRetainedWriteTake s = .next t) :
    t.RestartSound := by
  rcases execRetainedWriteTake_cases e with rfl | ⟨w, rest, htaken, hqueue, hquiet | ⟨hk, hquiet⟩⟩
  · exact h
  · refine hquiet.fits (State.restartSound_congr (s := s) rfl rfl ?_ h)
    exact State.startWrite_checkingTags htaken hqueue
  · refine hquiet.fits (State.restartSound_congr (s := s) rfl rfl (State.unqueue_checkingTags hqueue ?_) h)
    by_contra hc
    exact nomatch hk.symm.trans (WriteKind.ofRestart_of_checks (eq_true_of_ne_false hc))

/-- A completed write other than of CHECKING leaves the controller's writes as they are. -/
theorem State.completed_checkingTags {s : State} {w : TakenWrite} (htaken : s.store.taken = some w) :
    s.store.checkingTags =
      if w.write.kind.checks then w.write.tag :: (s.completed w).store.checkingTags else (s.completed w).store.checkingTags := by
  unfold Store.checkingTags
  rw [htaken]
  split
  · rename_i hk
    show List.filter _ [w.write.tag] ++ _ = _
    rw [List.filter_cons_of_pos (by exact hk)]
    rfl
  · rename_i hk
    show List.filter _ [w.write.tag] ++ _ = _
    rw [List.filter_cons_of_neg (by exact hk)]
    rfl

/-- What the blocks do with a completed write, and what the answers to waiting resets leave of it. -/
theorem execRetainedWriteComplete_cases {s t : State} (e : execRetainedWriteComplete s = .next t) :
    t = s ∨ ∃ w, s.store.taken = some w ∧
      ∃ r a x d, t = { (s.completed w).writeDone w.write with requests := r, alert := a, crypto := x, draws := d } := by
  refine whenRunning_keeps (P := fun t => t = s ∨ ∃ w, s.store.taken = some w ∧
    ∃ r a x d, t = { (s.completed w).writeDone w.write with requests := r, alert := a, crypto := x, draws := d })
    (.inl rfl) ?_ e
  split
  · exact .inl rfl
  · rename_i w hw
    exact .inr ⟨w, hw, s.writeCompletes_touches w⟩

/-- The boot count lets stamps be issued, and can halt the part (R54, R137). -/
theorem State.writeDone_boot (s : State) {w : TakenWrite} (hk : w.write.kind = .bootCount) :
    Tame (s.bootCounted w) ((s.completed w).writeDone w.write) := by
  rw [State.writeDone_bootCount hk]
  exact (Quiet.refl _).serveAllStamps.tame.trans (State.tryHaltFlash_tame _)

theorem WriteKind.ofRestart_cases {k : WriteKind} (h : k.ofRestart = true) : k = .bootCount ∨ k.checks = true := by
  revert h
  cases k with
  | bootCount => exact fun _ => .inl rfl
  | _ => exact .inr

theorem execRetainedWriteComplete_restartSound {s t : State} (h : s.RestartSound) (e : execRetainedWriteComplete s = .next t) :
    t.RestartSound := by
  rcases execRetainedWriteComplete_cases e with rfl | ⟨w, hw, _, _, _, _, rfl⟩
  · exact h
  · show ((s.completed w).writeDone w.write).RestartSound
    have htags := State.completed_checkingTags hw
    by_cases hc : w.write.kind.checks = true
    · rw [if_pos hc] at htags
      have hfits := (s.restartSound_iff.1 h).2
      rw [htags] at hfits
      obtain ⟨hready, hnone⟩ := hfits.waits
      exact ((s.completed w).writeDone_checks hc).sound hready hnone
    · rw [if_neg hc] at htags
      have hcompleted : (s.completed w).RestartSound := State.restartSound_congr (s := s) rfl rfl htags.symm h
      by_cases hk : w.write.kind.ofRestart = true
      · have hboot := (WriteKind.ofRestart_cases hk).resolve_right hc
        exact (s.writeDone_boot hboot).2.2 (State.restartSound_congr (s := s.completed w) rfl rfl rfl hcompleted)
      · by_cases hconfirm : w.write.kind = .confirm
        · have hdone : (s.completed w).writeDone w.write = (s.completed w).confirmDone w.write := by
            unfold State.writeDone
            rw [hconfirm]
          rw [hdone]
          exact ((s.completed w).confirmDone_cases w.write).1.2 hcompleted
        · exact ((s.completed w).writeDone_request (eq_false_of_ne_true hk) hconfirm).2.2 hcompleted

/-- Every command keeps the controller's work and its writes together (R46, R57 to R63). -/
theorem exec_restartSound {i : Instr} {s t : State} (h : s.RestartSound) (e : exec i s = .next t) : t.RestartSound := by
  by_cases hi : isMove i = false
  · exact (exec_tame hi e).2.2 h
  · unfold exec at e
    cases i with
    | powerOn hcs rstReq =>
      cases e
      split
      · exact s.cold_restartSound _ _
      · exact s.startPowerClass_restartSound _ _ _ _
    | powerLoss => cases e; exact s.cold_restartSound _ _
    | resetNLow => cases e; exact s.cold_restartSound _ _
    | lineReset hcs =>
      cases e
      split
      · dsimp only
        split
        · exact s.startPowerClass_restartSound _ _ _ _
        · exact s.cold_restartSound _ _
      · exact h
    | tick presence =>
      rcases execTick_cases e with rfl | ⟨n, c, rfl⟩
      · exact h
      · exact State.restartSound_congr (s := s) rfl rfl rfl h
    | cryptoJobEnd =>
      rcases execCryptoJobEnd_cases e with htame | ⟨_, _, hfree⟩
      · exact htame.2.2 h
      · exact hfree.1.2 h
    | hostForwardComplete took =>
      rcases execHostForwardComplete_cases e with htame | ⟨_, _, hfree⟩
      · exact htame.2.2 h
      · exact hfree.1.2 h
    | retainedWriteTake => exact execRetainedWriteTake_restartSound h e
    | retainedWriteComplete => exact execRetainedWriteComplete_restartSound h e
    | _ => exact absurd rfl hi

/-- Settles O59: a step is a command on the rest of the queue, and every command keeps the work and its writes together. -/
theorem restartWorkFitsItsWrites : Obligations.RestartWorkFitsItsWrites := by
  intro s t h e
  unfold step at e
  split at e
  · cases e
    exact h
  · rename_i rest _
    exact exec_restartSound (s := { s with pending := rest }) h e

/-! ## Trust and the boot window -/

/-- A completed write raises trust only by a confirm from TRIAL, and opens no window (R72, R84, R86). -/
theorem execRetainedWriteComplete_trust {s t : State} (e : execRetainedWriteComplete s = .next t) :
    Lowers s t ∨
      (t.restart.bootWindow = true → s.restart.bootWindow = true) ∧ s.watch.trust = .trial ∧ t.watch.trust = .verified ∧
        ∃ w, s.store.taken = some w ∧ w.write.kind = .confirm := by
  rcases execRetainedWriteComplete_cases e with rfl | ⟨w, hw, _, _, _, _, rfl⟩
  · exact .inl (Lowers.refl t)
  · by_cases hconfirm : w.write.kind = .confirm
    · have hdone : (s.completed w).writeDone w.write = (s.completed w).confirmDone w.write := by
        unfold State.writeDone
        rw [hconfirm]
      obtain ⟨-, hwindow, htrust⟩ := (s.completed w).confirmDone_cases w.write
      rw [hdone]
      by_cases htrial : s.watch.trust = .trial
      · exact .inr ⟨fun h => hwindow.symm.trans h, htrial, htrust.trans (if_pos htrial), w, hw, hconfirm⟩
      · have hsame : ((s.completed w).confirmDone w.write).watch.trust = s.watch.trust := htrust.trans (if_neg htrial)
        exact .inl ⟨(congrArg Trust.level hsame).le, fun h => hwindow.symm.trans h⟩
    · left
      show Lowers s ((s.completed w).writeDone w.write)
      by_cases hk : w.write.kind.ofRestart = true
      · rcases WriteKind.ofRestart_cases hk with hboot | hc
        · exact (s.writeDone_boot hboot).1
        · exact ((s.completed w).writeDone_checks hc).1
      · exact ((s.completed w).writeDone_request (eq_false_of_ne_true hk) hconfirm).1

/-- Every command lowers trust or leaves it, and opens no window, but a release, and a confirm that turns TRIAL to VERIFIED. -/
theorem exec_trust {i : Instr} {s t : State} (e : exec i s = .next t) :
    Lowers s t ∨
      (∃ trust, Frees s t trust ∧ (i = .cryptoJobEnd ∧ s.restart.work = .release .extend2 trust ∨
        (∃ took, i = .hostForwardComplete took) ∧ s.restart.work = .release .force trust)) ∨
      i = .retainedWriteComplete ∧ (t.restart.bootWindow = true → s.restart.bootWindow = true) ∧ s.watch.trust = .trial ∧
        t.watch.trust = .verified ∧ ∃ w, s.store.taken = some w ∧ w.write.kind = .confirm := by
  by_cases hi : isMove i = false
  · exact .inl (exec_tame hi e).1
  · unfold exec at e
    cases i with
    | powerOn hcs rstReq =>
      cases e
      left
      split
      · exact s.cold_lowers s _ _
      · exact s.startPowerClass_lowers s _ _ _ _
    | powerLoss => cases e; exact .inl (s.cold_lowers s _ _)
    | resetNLow => cases e; exact .inl (s.cold_lowers s _ _)
    | lineReset hcs =>
      cases e
      left
      split
      · dsimp only
        split
        · exact s.startPowerClass_lowers s _ _ _ _
        · exact s.cold_lowers s _ _
      · exact Lowers.refl s
    | tick presence =>
      rcases execTick_cases e with rfl | ⟨n, c, rfl⟩
      · exact .inl (Lowers.refl t)
      · exact .inl (Lowers.refl s)
    | cryptoJobEnd =>
      rcases execCryptoJobEnd_cases e with htame | ⟨trust, hwork, hfree⟩
      · exact .inl htame.1
      · exact .inr (.inl ⟨trust, hfree, .inl ⟨rfl, hwork⟩⟩)
    | hostForwardComplete took =>
      rcases execHostForwardComplete_cases e with htame | ⟨trust, hwork, hfree⟩
      · exact .inl htame.1
      · exact .inr (.inl ⟨trust, hfree, .inr ⟨⟨took, rfl⟩, hwork⟩⟩)
    | retainedWriteTake =>
      rcases execRetainedWriteTake_cases e with rfl | ⟨w, rest, -, -, hquiet | ⟨-, hquiet⟩⟩
      · exact .inl (Lowers.refl t)
      · exact .inl hquiet.1
      · exact .inl hquiet.1
    | retainedWriteComplete => exact (execRetainedWriteComplete_trust e).imp_right fun h => .inr ⟨rfl, h⟩
    | _ => exact absurd rfl hi

/-- Settles O56: trust rises at a release or by a confirm, and the window opens at a release. -/
theorem trustRisesAndWindowOpensOnlyAtRelease : Obligations.TrustRisesAndWindowOpensOnlyAtRelease := by
  intro i s t e
  rcases exec_trust e with ⟨hlevel, hwindow⟩ | ⟨trust, ⟨-, rfl, hphase⟩, hwhich⟩ | ⟨rfl, hwindow, htrial, hverified, hw⟩
  · exact ⟨fun h => absurd h (Nat.not_lt.2 hlevel), fun hs ht => nomatch hs.symm.trans (hwindow ht)⟩
  · refine ⟨fun _ => ?_, fun _ _ => ⟨hphase, hwhich⟩⟩
    exact hwhich.imp_right .inl
  · exact ⟨fun _ => .inr (.inr ⟨rfl, htrial, hverified, hw⟩), fun hs ht => nomatch hs.symm.trans (hwindow ht)⟩

end Sys2Proof.Machine
end

section
/-! # The order of stamps (R54, R136, R137)

A steady move keeps `StampSound` and issues stamps in order; power begins a cycle without stamps; and the boot count write, of
which a cycle has one, comes before its first stamp. -/

namespace Sys2Proof.Machine

open Sys2Proof

/-! ## The count and the order -/

/-- The boot count does not fall, it is raised by 1 where the boot is counted, and a stamp issued comes after the last one. -/
def Ascends (s t : State) : Prop :=
  s.store.working.bootCount ≤ t.store.working.bootCount ∧
    (s.time.bootCounted = false → t.time.bootCounted = true →
      t.store.working.bootCount = satInc 0xFFFFFFFF s.store.working.bootCount) ∧
    ∀ x y, s.time.lastStamp = some x → t.time.lastStamp = some y → x = y ∨ x.before y

theorem le_satInc (top n : Nat) : n ≤ satInc top n := by
  unfold satInc
  split
  · exact Nat.le_succ n
  · exact le_rfl

/-- Where neither the count nor the stamps change, they ascend. -/
theorem Ascends.same {s t : State} (hboot : t.store.working.bootCount = s.store.working.bootCount)
    (hcounted : t.time.bootCounted = s.time.bootCounted) (hlast : t.time.lastStamp = s.time.lastStamp) : Ascends s t :=
  ⟨hboot.ge, fun hs ht => absurd (hs.symm.trans (hcounted.symm.trans ht)) Bool.noConfusion,
    fun _ _ hx hy => .inl (Option.some.inj (hx.symm.trans (hlast.symm.trans hy)))⟩

/-- The boot count writes, by the tag of the one in progress. -/
theorem Store.bootWrites_eq (x : Store) :
    x.bootWrites = x.bootsQueued + ((x.taken.map TakenWrite.tag).map Prod.fst).toList.countP (·.2 = .bootCount) := by
  unfold Store.bootWrites Store.bootsQueued
  rw [List.countP_append]
  cases x.taken <;> rfl

theorem Steady.bootWrites_le {s t : State} (h : Steady s t) : t.store.bootWrites ≤ s.store.bootWrites := by
  obtain ⟨-, ⟨-, -, htaken⟩, hboots⟩ := h
  rw [Store.bootWrites_eq, Store.bootWrites_eq, htaken]
  exact Nat.add_le_add_right hboots _

/-- A steady move keeps the stamps sound. -/
theorem Steady.stampSound {s t : State} (h : Steady s t) (hs : s.StampSound) : t.StampSound := by
  have hwrites := h.bootWrites_le
  obtain ⟨⟨htick, hcounted, hlast⟩, ⟨hworking, hnonvolatile, htaken⟩, -⟩ := h
  obtain ⟨hstamp, hboots, hsame, hvalues⟩ := hs
  refine ⟨fun y hy => ?_, ?_, ?_, fun w hw => ?_⟩
  · rw [hcounted, hworking, htick]
    rcases hlast with hlast | ⟨hc, z, hz, hboot, hzt, -⟩
    · exact hstamp y (hlast.symm.trans hy)
    · obtain rfl := Option.some.inj (hz.symm.trans hy)
      exact ⟨hc, hboot, hzt.le⟩
  · rw [hcounted]
    exact hwrites.trans hboots
  · rw [hworking, hnonvolatile, hsame]
  · rw [hw] at htaken
    obtain ⟨v, hv, htag⟩ := Option.map_eq_some_iff.1 htaken.symm
    have hkind : v.write.kind = w.write.kind := congrArg (·.1.2) htag
    have hsame : v.values = w.values := congrArg (·.2) htag
    rw [← hkind, ← hsame, hworking]
    exact hvalues v hv

/-- A stamp that a steady move issues comes after the last one (R137). -/
theorem Steady.ascends {s t : State} (h : Steady s t) (hs : s.StampSound) : Ascends s t := by
  obtain ⟨⟨-, hcounted, hlast⟩, ⟨hworking, -, -⟩, -⟩ := h
  rcases hlast with hlast | ⟨-, z, hz, hboot, hzt, hseq⟩
  · exact Ascends.same (congrArg _ hworking) hcounted hlast
  · refine ⟨(congrArg Retained.bootCount hworking).ge,
      fun hf ht => absurd (hf.symm.trans (hcounted.symm.trans ht)) Bool.noConfusion, fun x y hx hy => .inr ?_⟩
    obtain rfl := Option.some.inj (hz.symm.trans hy)
    obtain ⟨-, hxboot, hxt⟩ := hs.1 x hx
    refine .inr ⟨hxboot.trans hboot.symm, ?_⟩
    rcases hxt.lt_or_eq with hlt | heq
    · exact .inl (hzt ▸ hlt)
    · exact .inr ⟨heq.trans hzt.symm, hseq x hx heq⟩

/-! ## Power, ticks and writes -/

theorem State.cold_stampSound (s : State) (pins : Pins) (flash : Flash) : (s.cold pins flash).StampSound :=
  ⟨fun _ h => (nomatch h), Nat.zero_le _, rfl, fun _ h => (nomatch h)⟩

theorem State.startPowerClass_stampSound (s : State) (pins : Pins) (flash : Flash) (cause : Cause) (hcs : Bool) :
    ((s.cold pins flash).startPowerClass cause hcs).StampSound :=
  ⟨fun _ h => (nomatch h), le_rfl, rfl, fun _ h => (nomatch h)⟩

/-- A power cycle begins with the count as it stands, uncounted and without a stamp (R46, R54). -/
theorem Ascends.cycle {s t : State} (hs : s.StampSound) (hboot : t.store.working = s.store.nonvolatile)
    (hcounted : t.time.bootCounted = false) (hlast : t.time.lastStamp = none) : Ascends s t := by
  obtain ⟨-, -, hsame, -⟩ := hs
  refine ⟨?_, fun _ ht => absurd (hcounted.symm.trans ht) Bool.noConfusion, fun _ _ _ hy => nomatch hlast.symm.trans hy⟩
  rw [hboot, hsame]

/-- Only the boot count write changes the boot count (R54, R188). -/
theorem WriteKind.values_bootCount (k : WriteKind) (r : Retained) :
    (k.values r).bootCount = if k = .bootCount then satInc 0xFFFFFFFF r.bootCount else r.bootCount := by
  cases k with
  | credGroup rs =>
    rw [if_neg WriteKind.noConfusion]
    exact (congrArg Retained.bootCount (r.putCreds_frame rs) :)
  | bootCount => rw [if_pos rfl]; rfl
  | _ => rw [if_neg WriteKind.noConfusion]; rfl

theorem State.startWrite_stampSound {s : State} {w : Write} {rest : List Write} (hs : s.StampSound)
    (htaken : s.store.taken = none) (hqueue : s.store.queue = w :: rest) : ((s.unqueue rest).startWrite w).StampSound := by
  obtain ⟨hstamp, hboots, hsame, -⟩ := hs
  refine ⟨hstamp, ?_, hsame, fun v hv => ?_⟩
  · have hcount : ((s.unqueue rest).startWrite w).store.bootWrites = s.store.bootWrites := by
      unfold Store.bootWrites
      rw [hqueue, htaken]
      exact (List.perm_append_comm (l₁ := rest) (l₂ := [w])).countP_eq _ |>.trans
        (congrArg _ (List.append_nil _).symm)
    rw [hcount]
    exact hboots
  · obtain rfl := Option.some.inj hv
    exact w.kind.values_bootCount _

theorem State.unqueue_stampSound {s : State} {w : Write} {rest : List Write} (hs : s.StampSound)
    (hqueue : s.store.queue = w :: rest) : (s.unqueue rest).StampSound := by
  obtain ⟨hstamp, hboots, hsame, hvalues⟩ := hs
  refine ⟨hstamp, le_trans ?_ hboots, hsame, hvalues⟩
  unfold Store.bootWrites
  rw [hqueue]
  exact (List.sublist_cons_self w _).countP_le

theorem execRetainedWriteTake_stamps {s t : State} (hs : s.StampSound) (e : execRetainedWriteTake s = .next t) :
    t.StampSound ∧ Ascends s t := by
  rcases execRetainedWriteTake_cases e with rfl | ⟨w, rest, htaken, hqueue, hquiet | ⟨-, hquiet⟩⟩
  · exact ⟨hs, Ascends.same rfl rfl rfl⟩
  · have htook := State.startWrite_stampSound hs htaken hqueue
    exact ⟨hquiet.tame.2.1.stampSound htook, hquiet.tame.2.1.ascends htook⟩
  · have hdropped := State.unqueue_stampSound hs hqueue
    exact ⟨hquiet.tame.2.1.stampSound hdropped, hquiet.tame.2.1.ascends hdropped⟩

/-- The blocks told of a write other than the boot count go on steadily. -/
theorem State.writeDone_steady (s : State) {w : Write} (hk : w.kind ≠ .bootCount) : Steady s (s.writeDone w) := by
  by_cases hr : w.kind.ofRestart = true
  · exact (s.writeDone_checks ((WriteKind.ofRestart_cases hr).resolve_left hk)).steady
  · by_cases hconfirm : w.kind = .confirm
    · have hdone : s.writeDone w = s.confirmDone w := by
        unfold State.writeDone
        rw [hconfirm]
      rw [hdone]
      exact (s.confirmDone_cases w).1.1
    · exact (s.writeDone_request (eq_false_of_ne_true hr) hconfirm).2.1

/-- The completion of the boot count write begins the stamps of its cycle, of which there were none (R54, R137). -/
theorem State.bootCounted_stamps {s : State} {w : TakenWrite} (hs : s.StampSound) (hw : s.store.taken = some w)
    (hk : w.write.kind = .bootCount) : (s.bootCounted w).StampSound ∧ s.time.lastStamp = none ∧
      w.values.bootCount = satInc 0xFFFFFFFF s.store.working.bootCount := by
  obtain ⟨hstamp, hboots, -, hvalues⟩ := hs
  have hwrites : s.store.bootWrites = s.store.bootsQueued + 1 := by
    rw [Store.bootWrites_eq, hw]
    show _ + List.countP _ [w.write.tag] = _
    rw [List.countP_cons_of_pos (by exact decide_eq_true hk)]
    rfl
  have huncounted : s.time.bootCounted = false := by
    by_contra hc
    rw [if_pos (eq_true_of_ne_false hc)] at hboots
    omega
  have hnone : s.time.lastStamp = none := by
    by_contra hlast
    obtain ⟨x, hx⟩ := Option.ne_none_iff_exists'.1 hlast
    exact nomatch huncounted.symm.trans (hstamp x hx).1
  refine ⟨⟨fun x hx => (nomatch hnone.symm.trans hx), ?_, rfl, fun _ h => (nomatch h)⟩, hnone, (hvalues w hw).trans (if_pos hk)⟩
  rw [if_neg (by rw [huncounted]; exact Bool.noConfusion)] at hboots
  rw [Store.bootWrites_eq]
  show s.store.bootsQueued + 0 ≤ 0
  omega

theorem execRetainedWriteComplete_stamps {s t : State} (hs : s.StampSound) (e : execRetainedWriteComplete s = .next t) :
    t.StampSound ∧ Ascends s t := by
  rcases execRetainedWriteComplete_cases e with rfl | ⟨w, hw, _, _, _, _, rfl⟩
  · exact ⟨hs, Ascends.same rfl rfl rfl⟩
  · show ((s.completed w).writeDone w.write).StampSound ∧ Ascends s ((s.completed w).writeDone w.write)
    by_cases hk : w.write.kind = .bootCount
    · obtain ⟨hcounted, hnone, hvalue⟩ := State.bootCounted_stamps hs hw hk
      have hsteady := (s.writeDone_boot hk).2.1
      have hboot : ((s.completed w).writeDone w.write).store.working.bootCount =
          satInc 0xFFFFFFFF s.store.working.bootCount := by
        obtain ⟨-, ⟨hworking, -⟩, -⟩ := hsteady
        rw [hworking]
        exact hvalue
      exact ⟨hsteady.stampSound hcounted, hboot ▸ le_satInc _ _, fun _ _ => hboot,
        fun x _ hx => nomatch hnone.symm.trans hx⟩
    · obtain ⟨hstamp, hboots, -, hvalues⟩ := id hs
      have hvalue : w.values.bootCount = s.store.working.bootCount := (hvalues w hw).trans (if_neg hk)
      have hcompleted : (s.completed w).StampSound := by
        refine ⟨fun x hx => ?_, le_trans ?_ hboots, rfl, fun _ h => (nomatch h)⟩
        · obtain ⟨hc, hboot, ht⟩ := hstamp x hx
          exact ⟨hc, hboot.trans hvalue.symm, ht⟩
        · rw [Store.bootWrites_eq, Store.bootWrites_eq]
          exact Nat.add_le_add_left (Nat.zero_le _) _
      have hsteady := (s.completed w).writeDone_steady hk
      obtain ⟨hle, hraise, horder⟩ := hsteady.ascends hcompleted
      refine ⟨hsteady.stampSound hcompleted, ?_⟩
      unfold Ascends
      rw [← hvalue]
      exact ⟨hle, hraise, horder⟩

/-! ## The commands -/

/-- Every command keeps the stamps sound and in order. -/
theorem exec_stamps {i : Instr} {s t : State} (hs : s.StampSound) (e : exec i s = .next t) : t.StampSound ∧ Ascends s t := by
  have steady {u : State} (h : Steady s u) : u.StampSound ∧ Ascends s u := ⟨h.stampSound hs, h.ascends hs⟩
  have cycle (pins : Pins) (flash : Flash) : (s.cold pins flash).StampSound ∧ Ascends s (s.cold pins flash) :=
    ⟨s.cold_stampSound _ _, .cycle hs rfl rfl rfl⟩
  have powerClass (pins : Pins) (flash : Flash) (cause : Cause) (hcs : Bool) :
      ((s.cold pins flash).startPowerClass cause hcs).StampSound ∧ Ascends s ((s.cold pins flash).startPowerClass cause hcs) :=
    ⟨s.startPowerClass_stampSound _ _ _ _, .cycle hs rfl rfl rfl⟩
  by_cases hi : isMove i = false
  · exact steady (exec_tame hi e).2.1
  · unfold exec at e
    cases i with
    | powerOn hcs rstReq =>
      cases e
      split
      · exact cycle _ _
      · exact powerClass _ _ _ _
    | powerLoss => cases e; exact cycle _ _
    | resetNLow => cases e; exact cycle _ _
    | lineReset hcs =>
      cases e
      split
      · dsimp only
        split
        · exact powerClass _ _ _ _
        · exact cycle _ _
      · exact ⟨hs, .same rfl rfl rfl⟩
    | tick presence =>
      rcases execTick_cases e with rfl | ⟨n, c, rfl⟩
      · exact ⟨hs, .same rfl rfl rfl⟩
      · obtain ⟨hstamp, hrest⟩ := hs
        refine ⟨⟨fun x hx => ?_, hrest⟩, .same rfl rfl rfl⟩
        obtain ⟨hc, hboot, ht⟩ := hstamp x hx
        exact ⟨hc, hboot, Nat.le_succ_of_le ht⟩
    | cryptoJobEnd =>
      rcases execCryptoJobEnd_cases e with htame | ⟨_, _, hfree⟩
      · exact steady htame.2.1
      · exact steady hfree.1.1
    | hostForwardComplete took =>
      rcases execHostForwardComplete_cases e with htame | ⟨_, _, hfree⟩
      · exact steady htame.2.1
      · exact steady hfree.1.1
    | retainedWriteTake => exact execRetainedWriteTake_stamps hs e
    | retainedWriteComplete => exact execRetainedWriteComplete_stamps hs e
    | _ => exact absurd rfl hi

/-- Settles O57: a step is a command on the rest of the queue, and every command keeps the stamps sound and in order. -/
theorem stampsAscend : Obligations.StampsAscend := by
  intro s t hs e
  unfold step at e
  split at e
  · cases e
    exact ⟨hs, Ascends.same rfl rfl rfl⟩
  · rename_i rest _
    exact exec_stamps (s := { s with pending := rest }) hs e

end Sys2Proof.Machine
end

section
/-! # Reset and power-on

The six invariants at reset, and the power-on class restart of POWER_ON and LINE_RESET (R46, R48, R54, R187). -/

namespace Sys2Proof.Machine

open Sys2Proof

/-! ## The state after reset -/

theorem State.reset_tablesValid : State.reset.TablesValid := by
  have absent : Retained.production.tablesOk := ⟨fun _ h => (nomatch h), fun _ h => (nomatch h)⟩
  refine ⟨absent, absent, fun _ h => (nomatch h), fun w hw => ?_, trivial, fun _ h => (nomatch h), fun _ _ h => (nomatch h)⟩
  rw [List.mem_singleton.1 hw]
  trivial

theorem State.reset_stampSound : State.reset.StampSound :=
  ⟨fun _ h => (nomatch h), le_rfl, rfl, fun _ h => (nomatch h)⟩

theorem State.reset_restartSound : State.reset.RestartSound :=
  (State.restartSound_iff _).2 ⟨fun _ ha => absurd ha List.not_mem_nil, rfl, rfl⟩

/-- Settles O52: nothing has begun at reset but the restart in HELD, whose boot count write is queued. -/
theorem invariantsHoldAtReset : Obligations.InvariantsHoldAtReset :=
  ⟨State.reset_flash_wf, State.reset_tablesValid, ⟨rfl, fun _ h => (nomatch h)⟩, State.reset_stampSound, fun _ => rfl,
    State.reset_restartSound⟩

/-! ## The power-on class restart -/

/-- A part that has thrown away its volatile state begins a power-on class restart with every field at its reset value (R54). -/
theorem State.startPowerClass_held (s : State) (pins : Pins) (flash : Flash) (cause : Cause) (hcs : Bool) :
    PowerClassHeld s ((s.cold pins flash).startPowerClass cause hcs) cause hcs := by
  have hsession : ((s.cold pins flash).startPowerClass cause hcs).intake.session =
      { Session.resting with state := if s.store.nonvolatile.pendingCommit then .commitPending else .idle } := by
    show (if s.store.nonvolatile.pendingCommit then { Session.resting with state := .commitPending } else Session.resting) = _
    split <;> rfl
  exact ⟨rfl, rfl, rfl, rfl, rfl, rfl, rfl, rfl, rfl, rfl, rfl, rfl, rfl, rfl, rfl, rfl, rfl, rfl, rfl, rfl, rfl, rfl, rfl, rfl,
    rfl, rfl, hsession, rfl, rfl, rfl⟩

theorem execPowerOn_begins {s : State} (hlow : s.pins.resetLow = false) (hcs rstReq : Bool) :
    exec (.powerOn hcs rstReq) s =
      .next ((s.cold ⟨true, false, rstReq⟩ (s.flash.interrupt s.draws)).startPowerClass .powerOn hcs) := by
  show execPowerOn hcs rstReq s = _
  unfold execPowerOn
  rw [hlow]
  rfl

theorem execLineReset_begins {s : State} (hsupply : s.pins.supply = true) (hlow : s.pins.resetLow = true) (hcs : Bool) :
    exec (.lineReset hcs) s = .next ((s.cold ⟨true, false, s.pins.rstReq⟩ s.flash).startPowerClass .lineReset hcs) := by
  have hpins : ({ s.pins with resetLow := false } : Pins) = ⟨true, false, s.pins.rstReq⟩ := by rw [← hsupply]
  show execLineReset hcs s = _
  unfold execLineReset
  rw [if_pos hlow, hpins]
  exact congrArg Host.Outcome.next (if_pos hsupply)

/-- Settles O2: the restart begins once the supply is good and RESET_N is high. -/
theorem powerClassRestartBegins : Obligations.PowerClassRestartBegins :=
  ⟨fun hcs rstReq s hlow =>
      ⟨_, execPowerOn_begins hlow hcs rstReq, s.startPowerClass_held _ _ _ _, rfl, s.flash.interrupt_leaves s.draws⟩,
    fun hcs s hsupply hlow => ⟨_, execLineReset_begins hsupply hlow hcs, s.startPowerClass_held _ _ _ _, rfl, rfl⟩⟩

end Sys2Proof.Machine
end

section
/-! # Ticks and deadlines

The counter and the holds that count with it (R65, R128, R129, R157), the deadlines that wait (R109, R130), and what each does
once it has come (R96, R109, R149, R157, R158, R175, R176, R186). -/

namespace Sys2Proof.Machine

open Sys2Proof

/-! ## Waiting -/

theorem whenRunning_idle {s : State} {f : State → State} (h : f s = s) : whenRunning s f = .next s := by
  unfold whenRunning
  rw [h, ite_self]

theorem due_waits {tick : Nat} {x : Option Nat} (h : ∀ d, x = some d → tick < d) : ¬ due tick x = true := by
  cases x with
  | none => exact Bool.noConfusion
  | some d => exact fun hd => absurd (of_decide_eq_true hd) (Nat.not_le.2 (h d rfl))

theorem due_come {tick d : Nat} {x : Option Nat} (hx : x = some d) (h : d ≤ tick) : due tick x = true := by
  rw [hx]
  exact decide_eq_true h

/-! ## The tick -/

theorem execTick_top {s : State} (hrun : s.running = true) (h : tickMax ≤ s.time.tick) (p : Bool) :
    exec (.tick p) s = .next s := by
  show execTick p s = _
  rw [execTick, whenRunning_eq hrun, if_neg (Nat.not_lt.2 h)]

theorem execTick_counts {s : State} (hrun : s.running = true) (h : s.time.tick < tickMax) (p : Bool) :
    exec (.tick p) s = .next { s with
      time := { s.time with tick := s.time.tick + 1 }
      restart := s.restart.onTick p
      creds := s.creds.onTick (s.restart.phase = .released) p } := by
  show execTick p s = _
  rw [execTick, whenRunning_eq hrun, if_pos h]

/-- The restart controller's hold counts while HALTED for NO_BOOTABLE_SLOT, and a tick without the button ends it (R65). -/
theorem Restart.onTick_counts (x : Restart) (p : Bool) :
    { x.onTick p with presenceHold := x.presenceHold } = x ∧
      (x.onTick p).presenceHold =
        if x.phase = .halted .noBootableSlot then (if p then min 10000 (x.presenceHold + 1) else 0) else x.presenceHold := by
  unfold Restart.onTick
  split <;> exact ⟨rfl, rfl⟩

/-- The credential store's hold counts in RELEASED, for a press that began with the button up (R157). -/
theorem Creds.onTick_counts (x : Creds) (released p : Bool) :
    { x.onTick released p with hold := x.hold, pressUsed := x.pressUsed, pressArmed := x.pressArmed } = x ∧
      (released = false → x.onTick released p = x) ∧
      (released = true → p = false →
        (x.onTick released p).hold = 0 ∧ (x.onTick released p).pressUsed = false ∧ (x.onTick released p).pressArmed = true) ∧
      (released = true → p = true →
        (x.onTick released p).hold = (if x.pressArmed then min 3000 (x.hold + 1) else x.hold) ∧
          (x.onTick released p).pressUsed = x.pressUsed ∧ (x.onTick released p).pressArmed = x.pressArmed) := by
  unfold Creds.onTick
  cases released with
  | false => exact ⟨rfl, fun _ => rfl, fun h => Bool.noConfusion h, fun h => Bool.noConfusion h⟩
  | true =>
    cases p with
    | false => exact ⟨rfl, fun h => Bool.noConfusion h, fun _ _ => ⟨rfl, rfl, rfl⟩, fun _ h => Bool.noConfusion h⟩
    | true =>
      obtain ⟨_, _, _, _, armed, _⟩ := x
      cases armed <;>
        exact ⟨rfl, fun h => Bool.noConfusion h, fun _ h => Bool.noConfusion h, fun _ _ => ⟨rfl, rfl, rfl⟩⟩

/-! ## Deadlines that wait -/

theorem execTrialExpiry_waits {s : State} (h : ∀ d, s.restart.trialDeadline = some d → s.time.tick < d) :
    exec .trialExpiry s = .next s := whenRunning_idle (if_neg fun e => due_waits h e.2)

theorem execTrialAlertRaise_waits {s : State} (h : ∀ d, s.restart.trialDeadline = some d → s.time.tick + 60000 < d) :
    exec .trialAlertRaise s = .next s := by
  show execTrialAlertRaise s = _
  refine whenRunning_idle ?_
  split
  · rename_i d hd
    exact if_neg fun e => Nat.not_le.2 (h d hd) e.2
  · rfl

theorem execIdleTimeout_waits {s : State} (h : ∀ d, s.intake.session.deadline = some d → s.time.tick < d) :
    exec .idleTimeout s = .next s := whenRunning_idle (if_neg fun e => due_waits h e.2)

theorem execTimeout_waits {s : State} {c : Ctx} (h : ∀ d, (s.ctx c).deadline = some d → s.time.tick < d) :
    exec (.timeout c) s = .next s := whenRunning_idle (if_neg fun e => due_waits h e.2)

theorem execRequestBusyCapExpiry_waits {s : State} {c : Ctx} (h : ∀ d, (s.ctx c).busyCap = some d → s.time.tick < d) :
    exec (.requestBusyCapExpiry c) s = .next s := whenRunning_idle (if_neg (due_waits h))

theorem execPresenceGrantExpiry_waits {s : State} (h : ∀ d, s.creds.grant = some d → s.time.tick < d) :
    exec .presenceGrantExpiry s = .next s := whenRunning_idle (if_neg (due_waits h))

theorem execLockoutExpiry_waits {s : State} {k : Fin 32} (h : ∀ d, s.creds.lockouts[k] = some d → s.time.tick < d) :
    exec (.lockoutExpiry k) s = .next s := whenRunning_idle (if_neg (due_waits h))

theorem execRealertExpiry_waits {s : State} (h : ∀ d, s.alert.timer = some d → s.time.tick < d) :
    exec .realertExpiry s = .next s := whenRunning_idle (if_neg fun e => due_waits h e.2)

/-- Settles O9: what a tick counts, and what waits for it. -/
theorem ticksCountAndDeadlinesWait : Obligations.TicksCountAndDeadlinesWait := by
  refine ⟨fun p s hrun => ⟨fun htop => execTick_top hrun htop p, fun hlow => ⟨_, execTick_counts hrun hlow p, rfl, rfl, ?_⟩⟩,
    fun c k s => ⟨execTrialExpiry_waits, execTrialAlertRaise_waits, execIdleTimeout_waits, execTimeout_waits,
      execRequestBusyCapExpiry_waits, execPresenceGrantExpiry_waits, execLockoutExpiry_waits, execRealertExpiry_waits⟩⟩
  obtain ⟨hsame, hhold⟩ := s.restart.onTick_counts p
  obtain ⟨hframe, hidle, hup, hdown⟩ := s.creds.onTick_counts (s.restart.phase = .released) p
  exact ⟨hsame, hhold, hframe, fun h => hidle (decide_eq_false h), fun h => hup (decide_eq_true h),
    fun h => hdown (decide_eq_true h)⟩

end Sys2Proof.Machine
end

section
/-! # Deadlines that have come

The inactivity deadline (R96), the trial alert (R109), the assembly deadline and the request-busy cap (R175, R176), the presence
grant (R157, R158), a lockout (R149), the re-alert timer and its pulse (R186), and the release by the button (R65). -/

namespace Sys2Proof.Machine

open Sys2Proof

section due

variable {s : State} {d : Nat}

/-! ## The session and the restart -/

theorem execIdleTimeout_due (hrun : s.running = true) (hstate : s.intake.session.state = .receiving)
    (hd : s.intake.session.deadline = some d) (h : d ≤ s.time.tick) :
    exec .idleTimeout s = .next (s.failSession .idleTimeout 0) := by
  show execIdleTimeout s = _
  rw [execIdleTimeout, whenRunning_eq hrun, if_pos ⟨hstate, due_come hd h⟩]

theorem execPresenceRelease_due (hrun : s.running = true) (hphase : s.restart.phase = .halted .noBootableSlot)
    (hhold : s.restart.presenceHold = 10000) (hwork : s.restart.work = .none) :
    exec .presenceRelease s =
      .next ((s.setOutcome { s.restart.outcome with cause := .presenceRelease }).beginRelease .unverified
        .noBootableSlot).startNext := by
  show execPresenceRelease s = _
  rw [execPresenceRelease, whenRunning_eq hrun, if_pos ⟨hphase, hhold.ge, hwork⟩]

theorem execTrialAlertRaise_due (hrun : s.running = true) (hphase : s.restart.phase = .released)
    (hd : s.restart.trialDeadline = some d) (h : d ≤ s.time.tick + 60000) :
    exec .trialAlertRaise s = .next (s.raise sourceTrial) := by
  show execTrialAlertRaise s = _
  rw [execTrialAlertRaise, whenRunning_eq hrun, hd]
  exact congrArg Host.Outcome.next (if_pos ⟨hphase, h⟩)

/-! ## The contexts -/

theorem execTimeout_due {c : Ctx} (hrun : s.running = true) (hstate : (s.ctx c).state = .assembling)
    (hd : (s.ctx c).deadline = some d) (h : d ≤ s.time.tick) :
    exec (.timeout c) s = .next (s.assemblerAnswer c .timeout 0 (s.ctx c).buffer) := by
  show execTimeout c s = _
  rw [execTimeout, whenRunning_eq hrun, if_pos ⟨hstate, due_come hd h⟩]

theorem execRequestBusyCapExpiry_due {c : Ctx} (hrun : s.running = true) (hd : (s.ctx c).busyCap = some d)
    (h : d ≤ s.time.tick) : exec (.requestBusyCapExpiry c) s = .next (s.setCtx c { s.ctx c with busyCap := none }) := by
  show execRequestBusyCapExpiry c s = _
  rw [execRequestBusyCapExpiry, whenRunning_eq hrun, if_pos (due_come hd h)]

/-! ## The credential store -/

/-- The credential store with the grant that a press opens (R157). -/
def State.granted (s : State) : State :=
  { s with creds := { s.creds with grant := some (s.time.tick + 30000), pressUsed := true } }

/-- The credential store without a grant (R158). -/
def State.ungranted (s : State) : State := { s with creds := { s.creds with grant := none } }

theorem execPresenceGrantOpen_due (hrun : s.running = true) (hphase : s.restart.phase = .released) (hhold : s.creds.hold = 3000)
    (hused : s.creds.pressUsed = false) : exec .presenceGrantOpen s = .next (s.granted.raise sourcePresence) := by
  show execPresenceGrantOpen s = _
  rw [execPresenceGrantOpen, whenRunning_eq hrun, if_pos ⟨hphase, hhold, ne_true_of_eq_false hused⟩]
  rfl

theorem execPresenceGrantExpiry_due (hrun : s.running = true) (hd : s.creds.grant = some d) (h : d ≤ s.time.tick) :
    exec .presenceGrantExpiry s = .next (s.ungranted.clearSource sourcePresence) := by
  show execPresenceGrantExpiry s = _
  rw [execPresenceGrantExpiry, whenRunning_eq hrun, if_pos (due_come hd h)]
  rfl

theorem execLockoutExpiry_due {k : Fin 32} (hrun : s.running = true) (hd : s.creds.lockouts[k] = some d) (h : d ≤ s.time.tick) :
    exec (.lockoutExpiry k) s =
      .next { s with creds := { s.creds with lockouts := s.creds.lockouts.set k none } } := by
  show execLockoutExpiry k s = _
  rw [execLockoutExpiry, whenRunning_eq hrun, if_pos (due_come hd h)]
  rfl

/-! ## The alert line -/

theorem execRealertExpiry_due (hrun : s.running = true) (hline : s.alert.line = .asserted) (hd : s.alert.timer = some d)
    (h : d ≤ s.time.tick) :
    exec .realertExpiry s =
      .next { s with alert := { s.alert with line := .pulse, timer := none, pulseTick := s.time.tick } } := by
  show execRealertExpiry s = _
  rw [execRealertExpiry, whenRunning_eq hrun, if_pos ⟨hline, due_come hd h⟩]

theorem execPulseEnd_due (hrun : s.running = true) (hline : s.alert.line = .pulse) (h : s.alert.pulseTick < s.time.tick) :
    exec .pulseEnd s = .next { s with alert := s.alert.endPulse s.time.tick } := by
  show execPulseEnd s = _
  rw [execPulseEnd, whenRunning_eq hrun, if_pos ⟨hline, h⟩]

end due

/-- Settles O10: what each deadline and count does once it has come. -/
theorem dueDeadlinesAreTaken : Obligations.DueDeadlinesAreTaken := by
  refine ⟨fun s d hrun hstate hd h => ?_, fun s hrun hphase hhold hwork _ => ?_,
    fun s d hrun hphase hd h => ⟨_, execTrialAlertRaise_due hrun hphase hd h, s.raise_change _, rfl⟩,
    fun c s d hrun hstate hd h =>
      ⟨_, execTimeout_due hrun hstate hd h, State.ready_answers _ _ _ _ _ _ _, State.ready_change _ _ _ _ _ _ _, rfl⟩,
    fun c s d hrun hd h => ⟨_, execRequestBusyCapExpiry_due hrun hd h, PerCtx.get_set _ c _, PerCtx.get_set_other _ c _, rfl, rfl,
      rfl⟩,
    fun s hrun hphase hhold hused =>
      ⟨_, execPresenceGrantOpen_due hrun hphase hhold hused, rfl, s.granted.raise_change _, rfl⟩,
    fun s d hrun hd h => ⟨_, execPresenceGrantExpiry_due hrun hd h, rfl, s.ungranted.clearSource_change _, rfl⟩,
    fun k s d hrun hd h => execLockoutExpiry_due hrun hd h,
    fun s d hrun hline hd h => execRealertExpiry_due hrun hline hd h,
    fun s hrun hline h => execPulseEnd_due hrun hline h⟩
  · obtain ⟨hdrops, hsession, halert, hframe⟩ := s.failSession_drops .idleTimeout 0
    exact ⟨_, execIdleTimeout_due hrun hstate hd h, hsession, hdrops, ⟨_, AlertStep.refl _ _, _, halert, rfl⟩, hframe⟩
  · obtain ⟨hjob, hrestart, hframe⟩ := State.beginRelease_queued (s.setOutcome { s.restart.outcome with cause := .presenceRelease })
      .unverified .noBootableSlot
    refine ⟨_, execPresenceRelease_due hrun hphase hhold hwork, congrArg Restart.work hrestart, ?_, ?_⟩
    · rw [← s.register0Input_eq]
      exact hjob
    · have houtcome := congrArg Restart.outcome hrestart
      rw [houtcome]
      exact ⟨rfl, rfl, rfl, rfl, rfl, congrArg (fun t : State => { t with restart := s.restart }) hframe⟩

end Sys2Proof.Machine
end

section
/-! # The length of a request's body

Each request that wants an empty body, or one in a range of lengths, looks at the length before anything else. -/

namespace Sys2Proof.Machine

open Sys2Proof

section lengths

variable {s : State} {c : Ctx} {code tag : Nat} {body : List Byte}

/-- A request whose effect on this body is BAD_LENGTH does nothing else (R179). -/
theorem Routed.rejects (h : Routed s c code tag body) {f : List Byte → State → State}
    (hf : f body s = s.answerError c .badLength) :
    ∃ t, (whenRunning s fun s => s.onRequest c code f) = .next t ∧ OnlyAnswers s t c code tag .badLength 0 [] :=
  ⟨_, (h.exec_eq f).trans (congrArg _ hf), h.answered .badLength 0 []⟩

theorem ne_of_outside {n k : Nat} (h : k < n ∨ n < k) : k ≠ n := by omega

theorem empty_or_over {top : Nat} (h : body.length < 1 ∨ top < body.length) : body = [] ∨ top < body.length :=
  h.imp_left fun hnone => List.length_eq_zero_iff.1 (Nat.lt_one_iff.1 hnone)

end lengths

/-- Settles O19: each request's length check comes first. -/
theorem requestsCheckTheirLength : Obligations.RequestsCheckTheirLength := by
  refine ⟨fun c code tag body i s hi h hbody => ?_, fun c code lo hi tag body i s hin h hlength => ?_⟩
  · simp only [List.mem_cons, Prod.mk.injEq, List.not_mem_nil, or_false] at hi
    rcases hi with ⟨rfl, rfl⟩ | ⟨rfl, rfl⟩ | ⟨rfl, rfl⟩ | ⟨rfl, rfl⟩ | ⟨rfl, rfl⟩ | ⟨rfl, rfl⟩ | ⟨rfl, rfl⟩ | ⟨rfl, rfl⟩ |
      ⟨rfl, rfl⟩ | ⟨rfl, rfl⟩ | ⟨rfl, rfl⟩ | ⟨rfl, rfl⟩ | ⟨rfl, rfl⟩ | ⟨rfl, rfl⟩ | ⟨rfl, rfl⟩
    · exact h.rejects (if_neg hbody)
    · exact h.rejects (if_neg hbody)
    · exact h.rejects (if_neg hbody)
    · exact h.rejects (if_neg hbody)
    · exact h.rejects (if_neg hbody)
    · exact h.rejects (if_neg hbody)
    · exact h.rejects (if_neg hbody)
    · exact h.rejects (if_pos hbody)
    · exact h.rejects (if_neg hbody)
    · exact h.rejects (if_pos hbody)
    · exact h.rejects (if_pos hbody)
    · exact h.rejects (if_neg hbody)
    · exact h.rejects (if_neg hbody)
    · exact h.rejects (if_neg hbody)
    · exact h.rejects (if_neg hbody)
  · simp only [List.mem_cons, Prod.mk.injEq, List.not_mem_nil, or_false] at hin
    rcases hin with ⟨rfl, rfl, rfl, rfl⟩ | ⟨rfl, rfl, rfl, rfl⟩ | ⟨rfl, rfl, rfl, rfl⟩ | ⟨rfl, rfl, rfl, rfl⟩ |
      ⟨rfl, rfl, rfl, rfl⟩ | ⟨rfl, rfl, rfl, rfl⟩ | ⟨rfl, rfl, rfl, rfl⟩ | ⟨rfl, rfl, rfl, rfl⟩ | ⟨rfl, rfl, rfl, rfl⟩ |
      ⟨rfl, rfl, rfl, rfl⟩ | ⟨rfl, rfl, rfl, rfl⟩ | ⟨rfl, rfl, rfl, rfl⟩ | ⟨rfl, rfl, rfl, rfl⟩
    · exact h.rejects (if_pos (ne_of_outside hlength))
    · exact h.rejects (if_pos (ne_of_outside hlength))
    · exact h.rejects (if_pos (ne_of_outside hlength))
    · exact h.rejects (if_pos (ne_of_outside hlength))
    · exact h.rejects (if_pos (ne_of_outside hlength))
    · exact h.rejects (if_pos (empty_or_over hlength))
    · exact h.rejects (if_pos (ne_of_outside hlength))
    · exact h.rejects (if_pos (ne_of_outside hlength))
    · exact h.rejects (if_pos (empty_or_over hlength))
    · exact h.rejects (if_pos (ne_of_outside hlength))
    · exact h.rejects (if_pos (ne_of_outside hlength))
    · exact h.rejects (if_pos (ne_of_outside hlength))
    · exact h.rejects (if_pos (empty_or_over hlength))

end Sys2Proof.Machine
end

section
/-! # The watch table, the measurement registers, wall time and the boot window

WATCH_READ and MEASURE_READ (R70, R75); WATCH_LOAD, TIME_SET and CLOSE_BOOT_WINDOW (R71 to R74, R131, R133). -/

namespace Sys2Proof.Machine

open Sys2Proof

theorem Trust.level_lt_trial (x : Trust) : x.level < Trust.trial.level ↔ x = .unverified ∨ x = .degraded := by
  cases x <;> decide

theorem Trust.trial_le_level {x : Trust} (h : x = .trial ∨ x = .verified) : ¬ x.level < Trust.trial.level := by
  rcases h with rfl | rfl <;> decide

/-! ## Byte strings -/

theorem slice_slice {bs : List Byte} {off n k m : Nat} (h : k + m ≤ n) : slice (slice bs off n) k m = slice bs (off + k) m := by
  unfold slice
  rw [List.drop_take, List.take_take, List.drop_drop, Nat.min_eq_left (by omega)]

theorem numAt_slice {bs : List Byte} {off n k m : Nat} (h : k + m ≤ n) : numAt (slice bs off n) k m = numAt bs (off + k) m :=
  congrArg ofLe (slice_slice h)

theorem byteAt_slice {bs : List Byte} {off n k : Nat} (h : k < n) : byteAt (slice bs off n) k = byteAt bs (off + k) := by
  simp [byteAt, slice, List.getD_eq_getElem?_getD, h]

/-- A number of two bytes, written and read again. -/
theorem ofLe_le_two {v : Nat} (h : v < 65536) : ofLe (le 2 v) = v := by
  simp only [le, ofLe, BitVec.toNat_ofNat]
  omega

theorem le_two_toNat (v : BitVec 16) : le 2 v.toNat = [v.extractLsb' 0 8, v.extractLsb' 8 8] := by
  have hlow : BitVec.ofNat 8 v.toNat = v.extractLsb' 0 8 := BitVec.eq_of_toNat_eq (by simp)
  have hhigh : BitVec.ofNat 8 (v.toNat / 256) = v.extractLsb' 8 8 := BitVec.eq_of_toNat_eq (by simp [Nat.shiftRight_eq_div_pow])
  rw [le, le, le, hlow, hhigh]

/-! ## Watch entries (R74, R75) -/

theorem WatchEntry.bytes_length (w : WatchEntry) : w.bytes.length = 8 := by
  simp [WatchEntry.bytes, le_length]

/-- The stored form of an entry, its flag bytes as sums (R74). -/
theorem WatchEntry.bytes_eq (w : WatchEntry) :
    w.bytes =
      le 2 w.base ++ le 2 w.length ++
        [(if w.onRead then 1 else 0) + (if w.onProgram then 2 else 0) + (if w.onErase then 4 else 0),
          1 + (if w.alert then 2 else 0) + (if w.degrade then 4 else 0), 0, 0] := by
  obtain ⟨base, length, onRead, onProgram, onErase, alert, degrade⟩ := w
  have hkinds : ((if onRead then 1 else 0) ||| (if onProgram then 2 else 0) ||| (if onErase then 4 else 0) : Byte) =
      (if onRead then 1 else 0) + (if onProgram then 2 else 0) + (if onErase then 4 else 0) := by
    cases onRead <;> cases onProgram <;> cases onErase <;> rfl
  have hactions : (1 ||| (if alert then 2 else 0) ||| (if degrade then 4 else 0) : Byte) =
      1 + (if alert then 2 else 0) + (if degrade then 4 else 0) := by
    cases alert <;> cases degrade <;> rfl
  simp only [WatchEntry.bytes, hkinds, hactions]

/-- The entries of a body are its successive pieces of 8 bytes. -/
theorem entriesOf_eq (n : Nat) (bs : List Byte) : entriesOf n bs = (List.range n).map fun i => slice bs (8 * i) 8 := by
  induction n generalizing bs with
  | zero => rfl
  | succ n ih =>
    rw [entriesOf, ih, List.range_succ_eq_map, List.map_cons, List.map_map]
    refine congrArg₂ List.cons rfl (List.map_congr_left fun i _ => ?_)
    show ((bs.drop 8).drop (8 * i)).take 8 = (bs.drop (8 * (i + 1))).take 8
    rw [List.drop_drop, Nat.mul_succ, Nat.add_comm]

theorem entriesOf_body (n : Nat) (body : List Byte) :
    entriesOf n (body.drop 1) = (List.range n).map fun i => slice body (1 + 8 * i) 8 := by
  rw [entriesOf_eq]
  exact List.map_congr_left fun i _ => congrArg (List.take 8) List.drop_drop

/-- The entries of stored entries are their bytes. -/
theorem entriesOf_stored (table : List WatchEntry) :
    entriesOf table.length (table.flatMap WatchEntry.bytes) = table.map WatchEntry.bytes := by
  induction table with
  | nil => rfl
  | cons w table ih =>
    rw [List.length_cons, entriesOf, List.flatMap_cons, List.take_left' w.bytes_length, List.drop_left' w.bytes_length, ih,
      List.map_cons]

/-! ## The checks of WATCH_LOAD (R74) -/

/-- The first entry check fails: a length of 0, or a range that ends above granule FFCh. -/
def entryRangeFails (e : List Byte) : Bool := numAt e 2 2 = 0 || 0xFFC < numAt e 0 2 + numAt e 2 2

/-- The second entry check fails: no command kind, or an unlisted one. -/
def entryKindsFail (e : List Byte) : Bool := byteAt e 4 = 0 || 7 < byteAt e 4

/-- The third entry check fails: no action, an unlisted one, or a reserved byte that is not 0. -/
def entryActionsFail (e : List Byte) : Bool := byteAt e 5 = 0 || 7 < byteAt e 5 || byteAt e 6 != 0 || byteAt e 7 != 0

section checks

variable {body : List Byte}

theorem watchLoadCheck_empty : watchLoadCheck [] = some (.badLength, 0) := rfl

theorem watchLoadCheck_count (h : 8 < byteAt body 0) : watchLoadCheck body = some (.badParameter, 0x01) := by
  have hsome : body ≠ [] := by
    rintro rfl
    exact absurd h (by decide)
  rw [watchLoadCheck, if_neg hsome, if_pos h]

theorem watchLoadCheck_length (hsome : body ≠ []) (hcount : byteAt body 0 ≤ 8) (h : body.length ≠ 1 + 8 * byteAt body 0) :
    watchLoadCheck body = some (.badLength, 0) := by
  rw [watchLoadCheck, if_neg hsome, if_neg (Nat.not_lt.2 hcount), if_pos h]

/-- The checks of a body of the right length are those of its entries. -/
theorem watchLoadCheck_entries (hcount : byteAt body 0 ≤ 8) (hlen : body.length = 1 + 8 * byteAt body 0) {es : List (List Byte)}
    (hes : entriesOf (byteAt body 0) (body.drop 1) = es) :
    watchLoadCheck body =
      if es.any entryRangeFails then some (.badParameter, 0x02)
      else if es.any entryKindsFail then some (.badParameter, 0x03)
      else if es.any entryActionsFail then some (.badParameter, 0x04)
      else none := by
  have hsome : body ≠ [] := by
    rintro rfl
    exact absurd hlen (by decide)
  rw [watchLoadCheck, if_neg hsome, if_neg (Nat.not_lt.2 hcount), if_neg (not_not_intro hlen), hes]
  rfl

theorem entries_any_iff (n : Nat) (p : List Byte → Bool) :
    (entriesOf n (body.drop 1)).any p = true ↔ ∃ i, i < n ∧ p (slice body (1 + 8 * i) 8) = true := by
  rw [entriesOf_body]
  simp only [List.any_map, List.any_eq_true, List.mem_range, Function.comp_apply]

theorem entries_rangeFails_iff (n : Nat) :
    (entriesOf n (body.drop 1)).any entryRangeFails = true ↔ ∃ i, i < n ∧
      (numAt body (3 + 8 * i) 2 = 0 ∨ 0xFFC < numAt body (1 + 8 * i) 2 + numAt body (3 + 8 * i) 2) := by
  rw [entries_any_iff]
  simp [entryRangeFails, numAt_slice, Nat.add_right_comm 1]

theorem entries_kindsFail_iff (n : Nat) :
    (entriesOf n (body.drop 1)).any entryKindsFail = true ↔ ∃ i, i < n ∧
      (byteAt body (5 + 8 * i) = 0 ∨ 7 < byteAt body (5 + 8 * i)) := by
  rw [entries_any_iff]
  simp [entryKindsFail, byteAt_slice, Nat.add_right_comm 1]

theorem entries_actionsFail_iff (n : Nat) :
    (entriesOf n (body.drop 1)).any entryActionsFail = true ↔ ∃ i, i < n ∧
      (byteAt body (6 + 8 * i) = 0 ∨ 7 < byteAt body (6 + 8 * i) ∨ byteAt body (7 + 8 * i) ≠ 0 ∨
        byteAt body (8 + 8 * i) ≠ 0) := by
  rw [entries_any_iff]
  simp [entryActionsFail, byteAt_slice, Nat.add_right_comm 1, or_assoc]

/-- The table that a body holds, field by field (R74). -/
theorem entries_table (n : Nat) :
    (entriesOf n (body.drop 1)).map WatchEntry.ofBytes =
      (List.range n).map fun i =>
        ⟨numAt body (1 + 8 * i) 2, numAt body (3 + 8 * i) 2, (byteAt body (5 + 8 * i)).testBit 0,
          (byteAt body (5 + 8 * i)).testBit 1, (byteAt body (5 + 8 * i)).testBit 2, (byteAt body (6 + 8 * i)).testBit 1,
          (byteAt body (6 + 8 * i)).testBit 2⟩ := by
  rw [entriesOf_body, List.map_map]
  refine List.map_congr_left fun i _ => ?_
  simp [WatchEntry.ofBytes, numAt_slice, byteAt_slice, Nat.add_right_comm 1]

end checks

/-! ## Stored entries loaded again -/

section stored

variable {w : WatchEntry} {table : List WatchEntry}

/-- An entry that a table may hold (R73, R74). -/
def WatchEntry.Loadable (w : WatchEntry) : Prop :=
  1 ≤ w.length ∧ w.base + w.length ≤ 0xFFC ∧ (w.onRead || w.onProgram || w.onErase) = true

theorem WatchEntry.numAt_base (h : w.base < 65536) : numAt w.bytes 0 2 = w.base := ofLe_le_two h

theorem WatchEntry.numAt_length (h : w.length < 65536) : numAt w.bytes 2 2 = w.length := ofLe_le_two h

theorem WatchEntry.byteAt_kinds (w : WatchEntry) :
    byteAt w.bytes 4 = w.onRead.toNat + 2 * w.onProgram.toNat + 4 * w.onErase.toNat := by
  show ((if w.onRead then 1 else 0) ||| (if w.onProgram then 2 else 0) ||| (if w.onErase then 4 else 0) : Byte).toNat = _
  cases w.onRead <;> cases w.onProgram <;> cases w.onErase <;> rfl

theorem WatchEntry.byteAt_actions (w : WatchEntry) : byteAt w.bytes 5 = 1 + 2 * w.alert.toNat + 4 * w.degrade.toNat := by
  show (1 ||| (if w.alert then 2 else 0) ||| (if w.degrade then 4 else 0) : Byte).toNat = _
  cases w.alert <;> cases w.degrade <;> rfl

/-- The bits of a sum of three flags. -/
theorem flags_testBit : ∀ x y z : Bool, (x.toNat + 2 * y.toNat + 4 * z.toNat).testBit 0 = x ∧
    (x.toNat + 2 * y.toNat + 4 * z.toNat).testBit 1 = y ∧ (x.toNat + 2 * y.toNat + 4 * z.toNat).testBit 2 = z := by
  decide

/-- Reading the stored form of an entry gives the entry. -/
theorem WatchEntry.ofBytes_bytes (hbase : w.base < 65536) (hlength : w.length < 65536) : WatchEntry.ofBytes w.bytes = w := by
  obtain ⟨hread, hprogram, herase⟩ := flags_testBit w.onRead w.onProgram w.onErase
  obtain ⟨-, halert, hdegrade⟩ := flags_testBit true w.alert w.degrade
  rw [WatchEntry.ofBytes, WatchEntry.numAt_base hbase, WatchEntry.numAt_length hlength, w.byteAt_kinds, w.byteAt_actions, hread,
    hprogram, herase]
  exact congrArg₂ (WatchEntry.mk w.base w.length w.onRead w.onProgram w.onErase) halert hdegrade

theorem WatchEntry.Loadable.range_passes (h : w.Loadable) : entryRangeFails w.bytes = false := by
  obtain ⟨hone, hend, -⟩ := h
  rw [entryRangeFails, WatchEntry.numAt_base (by omega), WatchEntry.numAt_length (by omega), Bool.or_eq_false_iff,
    decide_eq_false_iff_not, decide_eq_false_iff_not]
  omega

theorem WatchEntry.Loadable.kinds_pass (h : w.Loadable) : entryKindsFail w.bytes = false := by
  obtain ⟨-, -, hkind⟩ := h
  rw [entryKindsFail, w.byteAt_kinds]
  revert hkind
  generalize w.onRead = x, w.onProgram = y, w.onErase = z
  revert x y z
  decide

/-- RECORD is always among the actions, and every other action of an entry is a listed one (R73). -/
theorem WatchEntry.actions_pass (w : WatchEntry) : entryActionsFail w.bytes = false := by
  have hreserved : byteAt w.bytes 6 = 0 ∧ byteAt w.bytes 7 = 0 := ⟨rfl, rfl⟩
  simp only [entryActionsFail, w.byteAt_actions, hreserved]
  generalize w.alert = x, w.degrade = y
  revert x y
  decide

theorem entries_pass (h : ∀ w ∈ table, w.Loadable) {fails : List Byte → Bool}
    (hpass : ∀ w : WatchEntry, w.Loadable → fails w.bytes = false) : (table.map WatchEntry.bytes).any fails = false := by
  rw [List.any_map, List.any_eq_false]
  exact fun w hw => ne_true_of_eq_false (hpass w (h w hw))

theorem storedBody_count (hcount : table.length ≤ 8) (bs : List Byte) :
    byteAt ([BitVec.ofNat 8 table.length] ++ bs) 0 = table.length :=
  Nat.mod_eq_of_lt (by omega)

theorem storedBytes_length (table : List WatchEntry) : (table.flatMap WatchEntry.bytes).length = 8 * table.length := by
  simp [List.length_flatMap, WatchEntry.bytes_length, Nat.mul_comm]

/-- Stored entries that a table may hold pass every check (R74). -/
theorem watchLoadCheck_stored (hcount : table.length ≤ 8) (h : ∀ w ∈ table, w.Loadable) :
    watchLoadCheck ([BitVec.ofNat 8 table.length] ++ table.flatMap WatchEntry.bytes) = none := by
  have hn := storedBody_count hcount (table.flatMap WatchEntry.bytes)
  have hlen : ([BitVec.ofNat 8 table.length] ++ table.flatMap WatchEntry.bytes).length = 1 + 8 * table.length := by
    rw [List.length_append, storedBytes_length, List.length_singleton]
  have hes : entriesOf (byteAt ([BitVec.ofNat 8 table.length] ++ table.flatMap WatchEntry.bytes) 0)
      (([BitVec.ofNat 8 table.length] ++ table.flatMap WatchEntry.bytes).drop 1) = table.map WatchEntry.bytes :=
    hn.symm ▸ entriesOf_stored table
  rw [watchLoadCheck_entries (hn.trans_le hcount) (hn.symm ▸ hlen) hes,
    if_neg (ne_true_of_eq_false (entries_pass h fun _ hw => hw.range_passes)),
    if_neg (ne_true_of_eq_false (entries_pass h fun _ hw => hw.kinds_pass)),
    if_neg (ne_true_of_eq_false (entries_pass h fun w _ => w.actions_pass))]

/-- The table of a body of stored entries is the one that was stored. -/
theorem storedBody_table (hcount : table.length ≤ 8) (h : ∀ w ∈ table, w.Loadable) {body : List Byte}
    (hbody : body = [BitVec.ofNat 8 table.length] ++ table.flatMap WatchEntry.bytes) :
    (entriesOf (byteAt body 0) (body.drop 1)).map WatchEntry.ofBytes = table := by
  subst hbody
  rw [storedBody_count hcount, List.singleton_append, List.drop_one, List.tail_cons, entriesOf_stored, List.map_map]
  refine (List.map_congr_left fun w hw => ?_).trans table.map_id
  obtain ⟨-, hend, -⟩ := h w hw
  exact WatchEntry.ofBytes_bytes (by omega) (by omega)

end stored

/-! ## WATCH_LOAD -/

section requests

variable {s : State} {c : Ctx} {tag : Nat} {body : List Byte}

/-- The part with the table of a WATCH_LOAD body in place of its own (R74). -/
def State.withTableOf (s : State) (body : List Byte) : State :=
  { s with watch := { s.watch with table := (entriesOf (byteAt body 0) (body.drop 1)).map WatchEntry.ofBytes } }

theorem execWatchLoad_closed (h : Routed s c 0x12 tag body) (hclosed : s.restart.bootWindow = false) :
    exec (.watchLoad c) s = .next (s.answerError c .bootWindowClosed) := by
  have hwindow : ¬ s.restart.bootWindow := ne_true_of_eq_false hclosed
  show execWatchLoad c s = _
  rw [execWatchLoad, h.exec_eq, if_pos hwindow]

theorem execWatchLoad_refused (h : Routed s c 0x12 tag body) (hopen : s.restart.bootWindow = true) {st : Status} {detail : Nat}
    (hcheck : watchLoadCheck body = some (st, detail)) : exec (.watchLoad c) s = .next (s.answer c st detail []) := by
  show execWatchLoad c s = _
  rw [execWatchLoad, h.exec_eq, if_neg (not_not_intro hopen), hcheck]

theorem execWatchLoad_loads (h : Routed s c 0x12 tag body) (hopen : s.restart.bootWindow = true)
    (hcheck : watchLoadCheck body = none) : exec (.watchLoad c) s = .next ((s.withTableOf body).answerOk c []) := by
  show execWatchLoad c s = _
  rw [execWatchLoad, h.exec_eq, if_neg (not_not_intro hopen), hcheck]
  rfl

/-- A loaded table replaces the one before, and nothing else happens but the answer (R72, R74). -/
theorem Routed.loadsTable (h : Routed s c 0x12 tag body) {table : List WatchEntry}
    (htable : (entriesOf (byteAt body 0) (body.drop 1)).map WatchEntry.ofBytes = table) :
    Answers s ((s.withTableOf body).answerOk c []) c 0x12 tag .ok 0 [] ∧
      ((s.withTableOf body).answerOk c []).watch = { s.watch with table := table } ∧
      AlertChange s ((s.withTableOf body).answerOk c []) 0 (responseSource c) ∧
      { (s.withTableOf body).answerOk c [] with requests := s.requests, watch := s.watch, alert := s.alert } = s := by
  obtain ⟨hanswers, hchange, -⟩ := Executing.answersAfter h (u := s.withTableOf body) rfl rfl rfl .ok 0 []
  subst htable
  exact ⟨hanswers, rfl, hchange, rfl⟩

/-- WATCH_LOAD in an open boot window: the first check that fails is answered, and without one the table is replaced (R74). -/
theorem Routed.watchLoad_cases (h : Routed s c 0x12 tag body) (hopen : s.restart.bootWindow = true) :
    ∃ t, exec (.watchLoad c) s = .next t ∧
      (∀ st detail, watchLoadCheck body = some (st, detail) → OnlyAnswers s t c 0x12 tag st detail []) ∧
      (watchLoadCheck body = none → t = (s.withTableOf body).answerOk c []) := by
  cases hcheck : watchLoadCheck body with
  | none => exact ⟨_, execWatchLoad_loads h hopen hcheck, nofun, fun _ => rfl⟩
  | some f =>
    refine ⟨_, execWatchLoad_refused h hopen hcheck, ?_, nofun⟩
    rintro _ _ ⟨⟩
    exact h.answered _ _ _

/-! ## TIME_SET and CLOSE_BOOT_WINDOW -/

theorem execTimeSet_eq (h : Routed s c 0x50 tag body) (hlen : body.length = 8) :
    exec (.timeSet c) s =
      .next
        (if s.watch.trust.level < Trust.trial.level then s.answerError c .trustTooLow
        else if 2 ^ 40 ≤ ofLe body then s.answerParameter c 0x01
        else { s with time := { s.time with wall := some (ofLe body, s.time.tick) } }.answerOk c []) := by
  show execTimeSet c s = _
  rw [execTimeSet, h.exec_eq, if_neg (not_not_intro hlen)]

/-- The answer of a TIME_SET that took the pair (R133). -/
theorem Routed.setsTime (h : Routed s c 0x50 tag body) {t : State}
    (ht : t = { s with time := { s.time with wall := some (ofLe body, s.time.tick) } }.answerOk c []) :
    Answers s t c 0x50 tag .ok 0 [] ∧ t.time = { s.time with wall := some (ofLe body, s.time.tick) } ∧
      AlertChange s t 0 (responseSource c) ∧ { t with requests := s.requests, time := s.time, alert := s.alert } = s := by
  obtain ⟨-, -, hresponse⟩ := h
  obtain ⟨hanswers, hchange, -⟩ := State.answer_only
    { s with time := { s.time with wall := some (ofLe body, s.time.tick) } } hresponse .ok 0 []
  subst ht
  exact ⟨hanswers, rfl, hchange, rfl⟩

theorem execCloseBootWindow_eq (h : Routed s c 0x06 tag []) :
    exec (.closeBootWindow c) s =
      .next ({ s with restart := { s.restart with bootWindow := false } }.answerOk c []) := by
  show execCloseBootWindow c s = _
  rw [execCloseBootWindow, h.exec_eq]
  rfl

/-! ## WATCH_READ and MEASURE_READ -/

theorem State.watchBody_eq (s : State) :
    s.watchBody =
      [BitVec.ofNat 8 s.watch.table.length] ++
        s.watch.table.flatMap (fun w =>
          le 2 w.base ++ le 2 w.length ++
            [(if w.onRead then 1 else 0) + (if w.onProgram then 2 else 0) + (if w.onErase then 4 else 0),
              1 + (if w.alert then 2 else 0) + (if w.degrade then 4 else 0), 0, 0]) ++
        [s.watch.altered.extractLsb' 0 8, s.watch.altered.extractLsb' 8 8] := by
  rw [State.watchBody, le_one, funext WatchEntry.bytes_eq, le_two_toNat]

theorem execWatchRead_eq (h : Routed s c 0x13 tag body) :
    exec (.watchRead c) s = .next (s.whenEmpty c body (s.answerOk c s.watchBody)) := by
  show execWatchRead c s = _
  rw [execWatchRead, h.exec_eq]

/-- The registers of a mask, in ascending order (R70). -/
theorem selectedRegisters_eq (regs : Vector Digest 8) (mask : Byte) :
    selectedRegisters regs mask.toNat =
      ((List.finRange 8).filter fun n => mask.getLsbD n.val).flatMap fun n => digestBytes regs[n] := by
  have hregs : regs.toList.zipIdx = (List.finRange 8).map fun n => (regs[n], n.val) :=
    List.ext_getElem (by simp) fun i _ _ => by simp
  rw [selectedRegisters, hregs, List.filter_map, List.flatMap_map]
  simp only [Function.comp_def, BitVec.testBit_toNat]

theorem digestBytes_length (d : Digest) : (digestBytes d).length = 32 := by
  rw [digestBytes, be, List.length_reverse, le_length]

theorem selectedRegisters_all_length (regs : Vector Digest 8) : (selectedRegisters regs (0xFF : Byte).toNat).length = 256 := by
  have hall : ((List.finRange 8).filter fun n => (0xFF : Byte).getLsbD n.val) = List.finRange 8 := by decide
  rw [selectedRegisters_eq, hall, List.length_flatMap]
  simp [digestBytes_length]

theorem execMeasureRead_badLength (h : Routed s c 0x21 tag body) (hlen : body.length ≠ 1) :
    exec (.measureRead c) s = .next (s.answerError c .badLength) := by
  show execMeasureRead c s = _
  rw [execMeasureRead, h.exec_eq, if_pos hlen]

theorem execMeasureRead_eq {mask : Byte} (h : Routed s c 0x21 tag [mask]) :
    exec (.measureRead c) s =
      .next (if mask = 0 then s.answerParameter c 0x01
        else s.answerOk c ([mask] ++ selectedRegisters s.watch.registers mask.toNat)) := by
  have hzero : byteAt [mask] 0 = 0 ↔ mask = 0 := BitVec.toNat_inj (y := 0)
  have hmask : le 1 (byteAt [mask] 0) = [mask] := congrArg (fun b => [b]) ((BitVec.ofNat_toNat 8 mask).trans mask.setWidth_eq)
  show execMeasureRead c s = _
  rw [execMeasureRead, h.exec_eq, if_neg (not_not_intro (List.length_singleton (a := mask))), hmask]
  simp only [hzero]
  rfl

end requests

/-- Settles O22: the answer is the stored table behind its count, with the flags. -/
theorem watchReadReportsTheTable : Obligations.WatchReadReportsTheTable := by
  refine fun c tag body s h => ⟨_, execWatchRead_eq h, fun hempty => ?_, fun hsome => ?_⟩
  · rw [State.whenEmpty, if_pos hempty, ← s.watchBody_eq]
    exact h.answered _ _ _
  · rw [State.whenEmpty, if_neg hsome]
    exact h.answered _ _ _

/-- Settles O23: the length and the mask are checked, then the selected registers are answered. -/
theorem measureReadReturnsRegisters : Obligations.MeasureReadReturnsRegisters := by
  intro c tag body s h
  by_cases hlen : body.length = 1
  · obtain ⟨mask, rfl⟩ := List.length_eq_one_iff.1 hlen
    refine ⟨_, execMeasureRead_eq h, fun hne => absurd hlen hne, ?_⟩
    rintro _ ⟨⟩
    refine ⟨fun hzero => ?_, fun hsome => ?_, ?_⟩
    · rw [if_pos hzero]
      exact h.answered _ _ _
    · rw [if_neg hsome, ← selectedRegisters_eq]
      exact h.answered _ _ _
    · rintro rfl
      rw [if_neg (by decide)]
      exact ⟨_, congrArg (· + 1) (selectedRegisters_all_length _), h.answered _ _ _⟩
  · refine ⟨_, execMeasureRead_badLength h hlen, fun _ => h.answered _ _ _, ?_⟩
    rintro mask rfl
    exact absurd rfl hlen

/-- Settles O27: TIME_SET by its checks in their order, WATCH_LOAD by the first of its checks that fails, and a body of stored
entries by the round trip. -/
theorem timeAndWindowRequests : Obligations.TimeAndWindowRequests := by
  refine ⟨fun c tag body s h hlen =>
      ⟨_, execTimeSet_eq h hlen, fun hlow => ?_, fun hhigh => ⟨fun hover => ?_, fun hunder => ?_⟩⟩,
    fun c tag s => ⟨fun h => ?_, fun body h hclosed => ?_, fun body h hopen => ?_, fun table h hopen hcount hentries => ?_⟩⟩
  · rw [if_pos ((Trust.level_lt_trial _).2 hlow)]
    exact h.answered _ _ _
  · rw [if_neg (Trust.trial_le_level hhigh), if_pos hover]
    exact h.answered _ _ _
  · rw [if_neg (Trust.trial_le_level hhigh), if_neg (Nat.not_le.2 hunder)]
    exact h.setsTime rfl
  · obtain ⟨hanswers, hchange, -⟩ := Executing.answersAfter h
      (u := { s with restart := { s.restart with bootWindow := false } }) rfl rfl rfl .ok 0 []
    exact ⟨_, execCloseBootWindow_eq h, hanswers, rfl, hchange, rfl⟩
  · exact ⟨_, execWatchLoad_closed h hclosed, h.answered _ _ _⟩
  · obtain ⟨t, hexec, hrefused, hloads⟩ := h.watchLoad_cases hopen
    refine ⟨t, hexec, fun hempty => hrefused _ _ (hempty ▸ watchLoadCheck_empty),
      fun hover => hrefused _ _ (watchLoadCheck_count hover),
      fun hsome hcount hne => hrefused _ _ (watchLoadCheck_length hsome hcount hne),
      fun range kinds actions hlen hcount hrange hkinds hactions => ?_⟩
    have hcheck := watchLoadCheck_entries hcount hlen rfl
    rw [Bool.eq_iff_iff.2 ((entries_rangeFails_iff _).trans hrange.symm),
      Bool.eq_iff_iff.2 ((entries_kindsFail_iff _).trans hkinds.symm),
      Bool.eq_iff_iff.2 ((entries_actionsFail_iff _).trans hactions.symm)] at hcheck
    refine ⟨?_, ?_, ?_, ?_⟩
    · rintro rfl
      exact hrefused _ _ hcheck
    · rintro rfl rfl
      exact hrefused _ _ hcheck
    · rintro rfl rfl rfl
      exact hrefused _ _ hcheck
    · rintro rfl rfl rfl
      obtain ⟨hanswers, hwatch, hchange, hframe⟩ := h.loadsTable (entries_table _)
      rw [hloads hcheck]
      exact ⟨hanswers, hchange, hwatch, hframe⟩
  · exact ⟨_, execWatchLoad_loads h hopen (watchLoadCheck_stored hcount hentries),
      h.loadsTable (storedBody_table hcount hentries rfl)⟩

end Sys2Proof.Machine
end

section
/-! # Extensions and derivations

EXTEND and DERIVE: the checks, the one job of each, and the checks again at its end (R68, R69, R116 to R118, R120). -/

namespace Sys2Proof.Machine

open Sys2Proof

section requests

variable {s : State} {c : Ctx} {code tag : Nat} {body : List Byte}

/-! ## A request's job -/

/-- An idle engine starts a submitted job at once, with the registers and keys of that moment (R118, R119). -/
theorem State.submit_starts (hidle : s.crypto = ⟨none, [], []⟩) (j : JobKind) (w : ExecWork) :
    ((s.enqueueJob (.ctx c) j).setWork c w).startNext.crypto.running = some ⟨⟨.ctx c, j⟩, s.jobResult j, false⟩ := by
  have hempty : ∀ j ∈ s.crypto.queue, j.requester ≠ .ctx c := by
    rw [hidle]
    exact fun _ hmem => absurd hmem List.not_mem_nil
  rw [State.enqueueJob_alone (by rw [hidle]) hempty, hidle]
  rfl

theorem execCryptoJobEnd_ctx {k : JobKind} {x : JobResult} (hrun : s.running = true)
    (hjob : s.crypto.running = some ⟨⟨.ctx c, k⟩, x, false⟩) :
    exec .cryptoJobEnd s = .next ((s.jobEnded.ctxJob c x).enterDeferred (.ctx c)).startNext := by
  show execCryptoJobEnd s = _
  rw [execCryptoJobEnd, whenRunning_eq hrun]
  simp only [hjob]
  rfl

/-- A request answered at the end of its job, behind a change `u` that leaves the contexts, the alert unit, the clock and the engine
alone: the next job starts, and nothing else happens (R118, R179). -/
theorem Executing.answersAtJobEnd {w : ExecWork} (h : Executing s c code tag body w) (hd : s.crypto.deferred = []) {u t : State}
    {st : Status} {detail : Nat} {out : List Byte} (ht : t = ((u.answer c st detail out).enterDeferred (.ctx c)).startNext)
    (hrequests : u.requests = s.requests) (halert : u.alert = s.alert) (htime : u.time = s.time)
    (hcrypto : u.crypto = s.jobEnded.crypto) :
    Answers s t c code tag st detail out ∧ AlertChange s t 0 (responseSource c) ∧ t.crypto.fifo = s.crypto.queue ∧
      { t with requests := s.requests, alert := s.alert, crypto := u.crypto, draws := u.draws } = u := by
  obtain ⟨hanswers, hchange, hframe⟩ := h.answersAfter hrequests halert htime st detail out
  have hengine : (u.answer c st detail out).crypto = ⟨none, s.crypto.queue ++ [], s.crypto.deferred⟩ := by
    rw [List.append_nil]
    exact hcrypto
  obtain ⟨hfifo, hstart⟩ := State.jobEnd_leaves (r := .ctx c) hd hengine
  subst ht
  have hsame := congrArg (·.requests) hstart
  have hline := congrArg (·.alert) hstart
  rw [List.append_nil] at hfifo
  unfold Answers AlertChange State.ctx at *
  refine ⟨?_, ?_, hfifo, ?_⟩
  · exact hsame ▸ hanswers
  · exact hline ▸ hchange
  · exact (congrArg (fun t : State => { t with requests := s.requests, alert := s.alert }) hstart).trans hframe

/-! ## EXTEND (R68, R69) -/

theorem registerIndex_val {n : Nat} {k : Fin 8} (h : k.val = n) : registerIndex n = some k := by
  subst h
  exact dif_pos k.isLt

section extend

variable {n : Byte} {x : List Byte}

theorem extendBody_length (hx : x.length = 32) : (n :: x).length = 33 := by rw [List.length_cons, hx]

theorem execExtend_eq (h : Routed s c 0x20 tag body) : exec (.extend c) s = .next (s.extendRequest c body) := by
  show execExtend c s = _
  rw [execExtend, h.exec_eq]

theorem State.extendRequest_unknown (hx : x.length = 32) (hn : 8 ≤ n.toNat) :
    s.extendRequest c (n :: x) = s.answerParameter c 0x01 := by
  have hnone : registerIndex (byteAt (n :: x) 0) = none := dif_neg (Nat.not_lt.2 hn)
  rw [State.extendRequest, if_neg (not_not_intro (extendBody_length hx)), hnone]

/-- What EXTEND does on a register of its numbering. -/
theorem State.extendRequest_register (hx : x.length = 32) {k : Fin 8} (hk : k.val = n.toNat) :
    s.extendRequest c (n :: x) =
      if k.val < 3 then s.answerParameter c 0x02
      else if (k = 3 ∨ k = 4) ∧ ¬ s.restart.bootWindow then s.answerError c .bootWindowClosed
      else ((s.enqueueJob (.ctx c) (.extend k (digestOf x))).setWork c (.extending k)).startNext := by
  have hsome : registerIndex (byteAt (n :: x) 0) = some k := registerIndex_val hk
  rw [State.extendRequest, if_neg (not_not_intro (extendBody_length hx)), hsome]
  rfl

/-- The boot window guards registers 3 and 4 (R68). -/
theorem windowRefuses_iff {k : Fin 8} (h : 3 ≤ k.val) (window : Bool) :
    (k = 3 ∨ k = 4) ∧ ¬ window ↔ k.val ≤ 4 ∧ window = false := by
  have hguarded : k = 3 ∨ k = 4 ↔ k.val ≤ 4 := by omega
  rw [hguarded, Bool.not_eq_true]

end extend

/-- The end of an extension's job (R69). -/
theorem Executing.extensionEnds {k : Fin 8} (h : Executing s c code tag body (.extending k)) (d : Digest) :
    s.jobEnded.ctxJob c (.digest d) =
      if (k = 3 ∨ k = 4) ∧ s.restart.bootWindow = false then s.jobEnded.answerError c .bootWindowClosed
      else (s.jobEnded.setRegister k d).answerOk c ([BitVec.ofNat 8 k.val] ++ digestBytes d) := by
  have hwork : s.jobEnded.work? c = some (.extending k) := h.work?
  unfold State.ctxJob
  rw [hwork]
  simp only [State.extendDone, Bool.not_eq_true, le_one]
  rfl

/-! ## DERIVE (R120) -/

theorem execDerive_eq {label : List Byte} (h : Routed s c 0x44 tag label) (hsome : label ≠ []) (hlen : label.length ≤ 32) :
    exec (.derive c) s =
      .next (if s.watch.trust.level < Trust.trial.level then s.answerError c .trustTooLow
        else ((s.enqueueJob (.ctx c) (.derivation label)).setWork c .deriving_).startNext) := by
  have hform : ¬ (label = [] ∨ 32 < label.length) := not_or.2 ⟨hsome, Nat.not_lt.2 hlen⟩
  show execDerive c s = _
  rw [execDerive, h.exec_eq, State.deriveRequest, if_neg hform]

/-- The end of a derivation's job (R120). -/
theorem Executing.derivationEnds (h : Executing s c code tag body .deriving_) (d : Digest) :
    s.jobEnded.ctxJob c (.digest d) =
      if s.watch.trust.level < Trust.trial.level then s.jobEnded.answerError c .trustTooLow
      else s.jobEnded.answerOk c (digestBytes d) := by
  have hwork : s.jobEnded.work? c = some .deriving_ := h.work?
  unfold State.ctxJob
  rw [hwork]
  rfl

theorem State.jobResult_derivation {secret : BitVec 256} (h : s.store.working.derivation = some secret) (label : List Byte) :
    s.jobResult (.derivation label) =
      .digest (Config.hmac secret ([BitVec.ofNat 8 label.length] ++ label ++ digestBytes s.watch.registers[0] ++
        le 4 s.store.working.ownerEpoch.toNat)) := by
  show JobResult.digest (Config.hmac (s.store.working.derivation.getD Config.absentSecret) _) = _
  rw [h]
  rfl

end requests

/-- Settles O33: the request's checks in their order, its one job, and the check that its end takes again. -/
theorem extendAndDeriveRunAJob : Obligations.ExtendAndDeriveRunAJob := by
  refine fun c tag s => ⟨fun n x h hx => ⟨_, execExtend_eq h, fun hn => ?_, fun hn => ?_, fun k hk hthree => ?_⟩,
    fun label h hsome hlen => ⟨_, execDerive_eq h hsome hlen, fun hlow => ?_, fun hhigh => ?_⟩,
    fun body k x d h hjob hd => ?_, fun body label d h hjob hd => ?_⟩
  · rw [State.extendRequest_unknown hx hn]
    exact h.answered _ _ _
  · rw [State.extendRequest_register hx (k := ⟨n.toNat, by omega⟩) rfl, if_pos (Nat.lt_succ_of_le hn)]
    exact h.answered _ _ _
  · rw [State.extendRequest_register hx hk, if_neg (Nat.not_lt.2 hthree)]
    refine ⟨fun hguarded hclosed => ?_, fun hfree => ?_⟩
    · rw [if_pos ((windowRefuses_iff hthree _).2 ⟨hguarded, hclosed⟩)]
      exact h.answered _ _ _
    · have hpass : ¬ (k.val ≤ 4 ∧ s.restart.bootWindow = false) := fun ⟨hguarded, hclosed⟩ =>
        hfree.elim (Nat.not_le.2 · hguarded) fun hopen => nomatch hclosed.symm.trans hopen
      rw [if_neg fun hrefused => hpass ((windowRefuses_iff hthree _).1 hrefused)]
      obtain ⟨hgoes, hqueues, hframe⟩ := h.submits (.extend k (digestOf x)) (.extending k)
      exact ⟨hgoes, hqueues, fun hidle => State.submit_starts hidle _ _, hframe⟩
  · rw [if_pos ((Trust.level_lt_trial _).2 hlow)]
    exact h.answered _ _ _
  · rw [if_neg (Trust.trial_le_level hhigh)]
    obtain ⟨hgoes, hqueues, hframe⟩ := h.submits (.derivation label) .deriving_
    refine ⟨hgoes, hqueues, fun secret hidle hsecret => ?_, hframe⟩
    rw [State.submit_starts hidle, State.jobResult_derivation hsecret]
  · have hexec := execCryptoJobEnd_ctx h.1 hjob
    rw [h.extensionEnds] at hexec
    by_cases hclosed : (k = 3 ∨ k = 4) ∧ s.restart.bootWindow = false
    · rw [if_pos hclosed] at hexec
      obtain ⟨hanswers, hchange, hfifo, hframe⟩ := h.answersAtJobEnd hd rfl (u := s.jobEnded) rfl rfl rfl rfl
      exact ⟨_, hexec, hfifo, hchange, fun _ => ⟨hanswers, congrArg (·.watch) hframe⟩, fun hopen => absurd hclosed hopen,
        congrArg (fun t : State => { t with watch := s.watch, crypto := s.crypto }) hframe⟩
    · rw [if_neg hclosed] at hexec
      obtain ⟨hanswers, hchange, hfifo, hframe⟩ := h.answersAtJobEnd hd rfl (u := s.jobEnded.setRegister k d) rfl rfl rfl rfl
      exact ⟨_, hexec, hfifo, hchange, fun hin => absurd hin hclosed, fun _ => ⟨hanswers, congrArg (·.watch) hframe⟩,
        congrArg (fun t : State => { t with watch := s.watch, crypto := s.crypto }) hframe⟩
  · have hexec := execCryptoJobEnd_ctx h.1 hjob
    rw [h.derivationEnds] at hexec
    by_cases hlow : s.watch.trust.level < Trust.trial.level
    · rw [if_pos hlow] at hexec
      obtain ⟨hanswers, hchange, hfifo, hframe⟩ := h.answersAtJobEnd hd rfl (u := s.jobEnded) rfl rfl rfl rfl
      exact ⟨_, hexec, hfifo, hchange, fun _ => hanswers, fun hhigh => absurd hlow (Trust.trial_le_level hhigh),
        congrArg (fun t : State => { t with crypto := s.crypto }) hframe⟩
    · rw [if_neg hlow] at hexec
      obtain ⟨hanswers, hchange, hfifo, hframe⟩ := h.answersAtJobEnd hd rfl (u := s.jobEnded) rfl rfl rfl rfl
      exact ⟨_, hexec, hfifo, hchange, fun hin => absurd ((Trust.level_lt_trial _).2 hin) hlow, fun _ => hanswers,
        congrArg (fun t : State => { t with crypto := s.crypto }) hframe⟩

end Sys2Proof.Machine
end

section
/-! # What moves the retained records, and the rollback floor (R111, R187, R188)

`MovesRecords` says all that a command can do to the records and to the write in progress: nothing, begin a power cycle, fix the
values of a write, or put those of the completed write in place. Of these only the values of a confirm's group carry another floor,
and never a lower one. -/

namespace Sys2Proof.Machine

open Sys2Proof

/-! ## The moves of the records -/

/-- What a command does to the records and the write in progress, by the rule that moves them (R46, R187, R188). -/
inductive MovesRecords (s t : State) : Instr → Prop
  | stands {i : Instr} : KeepsStored s t → MovesRecords s t i
  | cycles {i : Instr} : t.store.working = s.store.nonvolatile → t.store.nonvolatile = s.store.nonvolatile →
      t.store.taken = none → MovesRecords s t i
  | takes {i : Instr} (w : Write) : KeepsStored (s.startWrite w) t → MovesRecords s t i
  | completes (w : TakenWrite) : s.store.taken = some w → KeepsStored (s.completed w) t →
      MovesRecords s t .retainedWriteComplete

theorem KeepsStored.refl (s : State) : KeepsStored s s := ⟨rfl, rfl, rfl⟩

theorem Settles.keepsStored {s t : State} (h : Settles s t) : KeepsStored s t := by
  obtain ⟨⟨-, hstored, -⟩, -⟩ := h
  exact hstored

theorem State.cold_movesRecords (s : State) (pins : Pins) (flash : Flash) (i : Instr) :
    MovesRecords s (s.cold pins flash) i := .cycles rfl rfl rfl

theorem State.startPowerClass_movesRecords (s : State) (pins : Pins) (flash : Flash) (cause : Cause) (hcs : Bool) (i : Instr) :
    MovesRecords s ((s.cold pins flash).startPowerClass cause hcs) i := .cycles rfl rfl rfl

/-- A write that is not taken after all leaves the records alone (R148, R155). -/
theorem execRetainedWriteTake_movesRecords {s t : State} (e : execRetainedWriteTake s = .next t) (i : Instr) :
    MovesRecords s t i := by
  rcases execRetainedWriteTake_cases e with rfl | ⟨w, rest, -, -, ⟨-, -, -, hstored, -⟩ | ⟨-, -, -, -, hstored, -⟩⟩
  · exact .stands (KeepsStored.refl _)
  · exact .takes w hstored
  · exact .stands hstored

/-- The blocks told of a completed write change no record. -/
theorem State.writeDone_keepsStored (s : State) (w : TakenWrite) :
    KeepsStored (s.completed w) ((s.completed w).writeDone w.write) := by
  by_cases hk : w.write.kind = .bootCount
  · exact Settles.keepsStored (s := s.bootCounted w) (s.writeDone_boot hk).2
  · obtain ⟨-, hstored, -⟩ := (s.completed w).writeDone_steady hk
    exact hstored

theorem execRetainedWriteComplete_movesRecords {s t : State} (e : execRetainedWriteComplete s = .next t) :
    MovesRecords s t .retainedWriteComplete := by
  rcases execRetainedWriteComplete_cases e with rfl | ⟨w, hw, _, _, _, _, rfl⟩
  · exact .stands (KeepsStored.refl _)
  · exact .completes w hw (s.writeDone_keepsStored w)

/-- All that a command can do to the records. -/
theorem exec_movesRecords {i : Instr} {s t : State} (e : exec i s = .next t) : MovesRecords s t i := by
  by_cases hi : isMove i = false
  · exact .stands (exec_tame hi e).2.keepsStored
  · unfold exec at e
    cases i with
    | powerOn hcs rstReq =>
      cases e
      split
      · exact s.cold_movesRecords _ _ _
      · exact s.startPowerClass_movesRecords _ _ _ _ _
    | powerLoss => cases e; exact s.cold_movesRecords _ _ _
    | resetNLow => cases e; exact s.cold_movesRecords _ _ _
    | lineReset hcs =>
      cases e
      split
      · dsimp only
        split
        · exact s.startPowerClass_movesRecords _ _ _ _ _
        · exact s.cold_movesRecords _ _ _
      · exact .stands (KeepsStored.refl s)
    | tick presence =>
      rcases execTick_cases e with rfl | ⟨_, _, rfl⟩
      · exact .stands (KeepsStored.refl t)
      · exact .stands (KeepsStored.refl s)
    | cryptoJobEnd =>
      rcases execCryptoJobEnd_cases e with htame | ⟨_, _, hfree⟩
      · exact .stands htame.2.keepsStored
      · exact .stands hfree.1.keepsStored
    | hostForwardComplete took =>
      rcases execHostForwardComplete_cases e with htame | ⟨_, _, hfree⟩
      · exact .stands htame.2.keepsStored
      · exact .stands hfree.1.keepsStored
    | retainedWriteTake => exact execRetainedWriteTake_movesRecords e _
    | retainedWriteComplete => exact execRetainedWriteComplete_movesRecords e
    | _ => exact absurd rfl hi

/-! ## The floor that a write fixes -/

/-- Only a confirm's group writes the floor (R111, R188). -/
theorem WriteKind.values_floor {k : WriteKind} (hk : k ≠ .confirm) (r : Retained) : (k.values r).floor = r.floor := by
  cases k with
  | confirm => exact absurd rfl hk
  | credGroup rs => exact (congrArg Retained.floor (r.putCreds_frame rs) :)
  | _ => rfl

/-- A confirm's group leaves the floor or raises it to the version of the slot confirmed (R111). -/
theorem WriteKind.floor_le_confirm (r : Retained) : r.floor ≤ (WriteKind.confirm.values r).floor := by
  show r.floor ≤ if (r.records.get r.selector).floorRaise then max r.floor (r.records.get r.selector).version else r.floor
  split
  · exact Nat.le_max_left _ _
  · exact le_rfl

theorem WriteKind.floor_le_values (k : WriteKind) (r : Retained) : r.floor ≤ (k.values r).floor := by
  by_cases hk : k = .confirm
  · subst hk
    exact WriteKind.floor_le_confirm r
  · exact (WriteKind.values_floor hk r).ge

/-! ## What keeps the floor sound -/

/-- The invariant speaks of the records, and of the kind and the values of the write in progress, alone. -/
theorem KeepsStored.floorSound {s t : State} (h : KeepsStored s t) (hs : s.FloorSound) : t.FloorSound := by
  obtain ⟨hworking, hnonvolatile, htaken⟩ := h
  obtain ⟨hsame, hfloor⟩ := hs
  refine ⟨hworking.trans (hsame.trans hnonvolatile.symm), fun w hw => ?_⟩
  rw [hw] at htaken
  obtain ⟨v, hv, htag⟩ := Option.map_eq_some_iff.1 htaken.symm
  have hkind : v.write.kind = w.write.kind := congrArg (·.1.2) htag
  have hvalues : v.values = w.values := congrArg (·.2) htag
  rw [← hkind, ← hvalues, hworking]
  exact hfloor v hv

theorem KeepsStored.floor_eq {s t : State} (h : KeepsStored s t) : t.store.working.floor = s.store.working.floor := by
  obtain ⟨hworking, -, -⟩ := h
  exact congrArg Retained.floor hworking

/-- The values that the store fixes do not lower the floor (R188). -/
theorem State.startWrite_floorSound {s : State} (hs : s.FloorSound) (w : Write) : (s.startWrite w).FloorSound := by
  obtain ⟨hsame, -⟩ := hs
  refine ⟨hsame, fun v hv => ?_⟩
  obtain rfl := Option.some.inj hv
  exact ⟨w.kind.floor_le_values _, fun hk => WriteKind.values_floor hk _⟩

/-- The values of a completed write stand in both copies, and no write is in progress (R187). -/
theorem State.completed_floorSound (s : State) (w : TakenWrite) : (s.completed w).FloorSound :=
  ⟨rfl, fun _ h => nomatch h⟩

theorem MovesRecords.floorSound {s t : State} {i : Instr} (h : MovesRecords s t i) (hs : s.FloorSound) : t.FloorSound := by
  cases h with
  | stands hstored => exact hstored.floorSound hs
  | cycles hworking hnonvolatile htaken =>
    exact ⟨hworking.trans hnonvolatile.symm, fun _ hw => nomatch htaken.symm.trans hw⟩
  | takes w hstored => exact hstored.floorSound (State.startWrite_floorSound hs w)
  | completes w _ hstored => exact hstored.floorSound (s.completed_floorSound w)

/-- The floor is as it was, or a confirm's group has completed, whose values do not lower it (R111). -/
theorem MovesRecords.floor_cases {s t : State} {i : Instr} (h : MovesRecords s t i) (hs : s.FloorSound) :
    t.store.working.floor = s.store.working.floor ∨
      s.store.working.floor ≤ t.store.working.floor ∧ i = .retainedWriteComplete ∧
        ∃ w, s.store.taken = some w ∧ w.write.kind = .confirm := by
  obtain ⟨hsame, hvalues⟩ := hs
  cases h with
  | stands hstored => exact .inl hstored.floor_eq
  | cycles hworking => exact .inl (congrArg Retained.floor (hworking.trans hsame.symm))
  | takes w hstored => exact .inl hstored.floor_eq
  | completes w hw hstored =>
    have hfloor : t.store.working.floor = w.values.floor := hstored.floor_eq
    obtain ⟨hle, hother⟩ := hvalues w hw
    by_cases hconfirm : w.write.kind = .confirm
    · exact .inr ⟨hle.trans hfloor.ge, rfl, w, hw, hconfirm⟩
    · exact .inl (hfloor.trans (hother hconfirm))

/-- Settles O55: a step is a command on the rest of the queue, and of all that commands do to the records only a completed confirm
changes the floor. -/
theorem floorNeverFalls : Obligations.FloorNeverFalls := by
  intro s t hs e
  unfold step at e
  split at e
  · cases e
    exact ⟨hs, le_rfl, fun hne => absurd rfl hne⟩
  · rename_i i rest hpending
    have hmoves := exec_movesRecords (s := { s with pending := rest }) e
    refine ⟨hmoves.floorSound hs, ?_⟩
    rcases hmoves.floor_cases hs with hfloor | ⟨hle, rfl, w, hw, hconfirm⟩
    · exact ⟨hfloor.ge, fun hne => absurd hfloor hne⟩
    · exact ⟨hle, fun _ => ⟨rest, w, hpending, hw, hconfirm⟩⟩

end Sys2Proof.Machine
end

section
/-! # Confirming, wiping, opening a session and moving its bank

BOOT_CONFIRM (R110), OWNER_WIPE (R158, R159), UPDATE_OPEN and STAGING_BANK (R89, R90): the checks of each in their order, and the
one write that three of them queue. -/

namespace Sys2Proof.Machine

open Sys2Proof

section requests

variable {s : State} {c : Ctx} {code tag : Nat} {body : List Byte}

/-! ## The one write of a request -/

/-- A request queues its write behind a change that leaves the contexts and the retained store alone, and waits for it (R188). -/
theorem Executing.requestsWriteAfter {w : ExecWork} (h : Executing s c code tag body w) {u : State}
    (hrequests : u.requests = s.requests) (hstore : u.store = s.store) (k : WriteKind) :
    GoesOn s (u.requestWrite c k) c code tag body .awaitWrite ∧ QueuesWrite s (u.requestWrite c k) c k ∧
      { u.requestWrite c k with requests := s.requests, store := s.store } = u := by
  obtain ⟨-, hreq, -⟩ := h
  have hctx (d : Ctx) : (u.enqueueWrite (.ctx c) k).ctx d = s.ctx d := congrArg (fun r : Requests => r.ctx.get d) hrequests
  refine ⟨⟨?_, ?_⟩, ?_, ?_⟩
  · simp [State.requestWrite, State.setWork, hctx, hreq]
  · simp [State.requestWrite, State.setWork, hctx]
  · rw [QueuesWrite, ← hstore]
    rfl
  · rw [← hrequests, ← hstore]
    rfl

/-! ## BOOT_CONFIRM (R110) -/

theorem execBootConfirm_eq (h : Routed s c 0x36 tag []) :
    exec (.bootConfirm c) s =
      .next
        (if (s.store.working.records.get s.store.working.selector).state ≠ .trial then s.answerError c .sessionState
        else if s.watch.trust.level < Trust.trial.level then s.answerError c .confirmDenied
        else s.requestWrite c .confirm) := by
  show execBootConfirm c s = _
  rw [execBootConfirm, h.exec_eq]
  rfl

/-! ## OWNER_WIPE (R158, R159) -/

theorem execOwnerWipe_eq (h : Routed s c 0x65 tag []) :
    exec (.ownerWipe c) s = .next (if s.creds.grant.isSome then s.wipeTaken c else s.answerError c .presenceRequired) := by
  show execOwnerWipe c s = _
  rw [execOwnerWipe, h.exec_eq]
  rfl

/-- The grant and both contexts' reservations go at once, and the wipe is queued (R158, R159). -/
theorem Routed.wipes (h : Routed s c 0x65 tag []) :
    GoesOn s (s.wipeTaken c) c 0x65 tag [] .awaitWrite ∧ QueuesWrite s (s.wipeTaken c) c .wipe ∧
      (s.wipeTaken c).creds =
        { s.creds with
          grant := none
          reservations := ⟨s.creds.reservations.c0.lose, s.creds.reservations.c1.lose⟩ } ∧
      AlertChange s (s.wipeTaken c) sourcePresence 0 ∧
      { s.wipeTaken c with requests := s.requests, store := s.store, creds := s.creds, alert := s.alert } = s := by
  obtain ⟨hgoes, hqueues, -⟩ := h.requestsWriteAfter (u :=
    { ({ s with creds := { s.creds with grant := none } }.clearSource sourcePresence) with
      creds :=
        { s.creds with
          grant := none
          reservations := ⟨s.creds.reservations.c0.lose, s.creds.reservations.c1.lose⟩ } }) rfl rfl .wipe
  exact ⟨hgoes, hqueues, rfl, State.clearSource_change { s with creds := { s.creds with grant := none } } sourcePresence, rfl⟩

/-! ## UPDATE_OPEN (R89) -/

theorem execUpdateOpen_eq (h : Routed s c 0x30 tag body) : exec (.updateOpen c) s = .next (s.openRequest c body) := by
  show execUpdateOpen c s = _
  rw [execUpdateOpen, h.exec_eq]

theorem State.openRequest_manufacture (h : s.store.working.stage = .manufacture) :
    s.openRequest c body = s.answerError c .wrongLifecycle := by
  have hin : ¬ s.inField = true := by simp [State.inField, State.wc, h]
  rw [State.openRequest, if_pos hin]

/-- UPDATE_OPEN's checks behind that of the stage. -/
theorem State.openRequest_field (h : s.store.working.stage = .field) :
    s.openRequest c body =
      if body ≠ [] then s.answerError c .badLength
      else if (s.store.working.records.get s.store.working.selector).state = .trial then s.answerError c .trialActive
      else if (s.intake.session.state ≠ .idle ∧ s.intake.session.state ≠ .failed) ∨ s.intake.session.claim.isSome then
        s.answerError c .sessionState
      else (s.setClaim s.intake.nextOpen).requestWrite c (.openSession s.intake.nextOpen) := by
  have hin : s.inField = true := by simp [State.inField, State.wc, h]
  rw [State.openRequest, if_neg (not_not_intro hin)]
  rfl

/-- The claim is set and the emptying of the inactive slot's record queued (R89). -/
theorem Routed.opens (h : Routed s c 0x30 tag body) (n : Nat) :
    GoesOn s ((s.setClaim n).requestWrite c (.openSession n)) c 0x30 tag body .awaitWrite ∧
      QueuesWrite s ((s.setClaim n).requestWrite c (.openSession n)) c (.openSession n) ∧
      ((s.setClaim n).requestWrite c (.openSession n)).intake.session = { s.intake.session with claim := some n } ∧
      { (s.setClaim n).requestWrite c (.openSession n) with
        requests := s.requests, store := s.store, intake := s.intake } = s := by
  obtain ⟨hgoes, hqueues, -⟩ := h.requestsWriteAfter (u := s.setClaim n) rfl rfl (.openSession n)
  exact ⟨hgoes, hqueues, rfl, rfl⟩

/-! ## STAGING_BANK (R90) -/

theorem execStagingBank_eq (h : Routed s c 0x31 tag body) (hlen : body.length = 4) :
    exec (.stagingBank c) s =
      .next
        (if s.intake.session.state ≠ .receiving then s.answerError c .sessionState
        else if s.intake.session.owner ≠ some c then s.answerError c .notOwner
        else if ofLe body % 0x10000 ≠ 0 then s.answerParameter c 0x01
        else if s.slotSize < ofLe body + s.stagingLength then s.answerParameter c 0x02
        else
          (s.setSession
            { s.intake.session with bank := ofLe body, deadline := some (s.time.tick + 60000) }).answerOk c []) := by
  show execStagingBank c s = _
  rw [execStagingBank, h.exec_eq, if_neg (not_not_intro hlen)]

theorem State.stagingLength_inForce {k : Slot} {u : Table} (h : s.xlat.inForce = .table k u) :
    s.stagingLength = u.stagingLength := by
  simp only [State.stagingLength, State.tableInForce, h]

/-- An OK answer behind a change of the session record alone (R87, R179). -/
theorem Routed.setsSession (h : Routed s c code tag body) (x : Session) :
    Answers s ((s.setSession x).answerOk c []) c code tag .ok 0 [] ∧
      AlertChange s ((s.setSession x).answerOk c []) 0 (responseSource c) ∧
      ((s.setSession x).answerOk c []).intake = { s.intake with session := x } ∧
      { (s.setSession x).answerOk c [] with requests := s.requests, alert := s.alert, intake := s.intake } = s := by
  obtain ⟨hanswers, hchange, -⟩ := Executing.answersAfter h (u := s.setSession x) rfl rfl rfl .ok 0 []
  exact ⟨hanswers, hchange, rfl, rfl⟩

end requests

/-- Settles O32: BOOT_CONFIRM by its two checks, OWNER_WIPE by the presence grant. -/
theorem confirmAndWipeQueueOneWrite : Obligations.ConfirmAndWipeQueueOneWrite := by
  refine fun c tag s => ⟨fun h => ⟨_, execBootConfirm_eq h, fun hnot => ?_, fun htrial =>
      ⟨fun hlow => ?_, fun hhigh => ?_⟩⟩,
    fun h => ⟨_, execOwnerWipe_eq h, fun hnone => ?_, fun hsome => ?_⟩⟩
  · rw [if_pos hnot]
    exact h.answered _ _ _
  · rw [if_neg (not_not_intro htrial), if_pos ((Trust.level_lt_trial _).2 hlow)]
    exact h.answered _ _ _
  · rw [if_neg (not_not_intro htrial), if_neg (Trust.trial_le_level hhigh)]
    exact h.requestsWriteAfter rfl rfl .confirm
  · rw [if_neg (by rw [hnone]; exact Bool.false_ne_true)]
    exact h.answered _ _ _
  · rw [if_pos (Option.isSome_iff_ne_none.2 hsome)]
    exact h.wipes

/-- Settles O37: UPDATE_OPEN by the stage and its checks, STAGING_BANK by the session and where the bank lies. -/
theorem updateOpenAndStagingBank : Obligations.UpdateOpenAndStagingBank := by
  refine ⟨fun c tag body s h => ⟨_, execUpdateOpen_eq h, fun hstage => ?_, fun hstage => ⟨fun hbody => ?_, ?_⟩⟩,
    fun c tag body s h hlen => ⟨_, execStagingBank_eq h hlen, fun hstate => ?_, fun hstate => ⟨fun howner => ?_, fun howner =>
      ⟨fun hodd => ?_, fun k u hforce hbank => ⟨fun hover => ?_, fun hfits => ?_⟩⟩⟩⟩⟩
  · rw [State.openRequest_manufacture hstage]
    exact h.answered _ _ _
  · rw [State.openRequest_field hstage, if_pos hbody]
    exact h.answered _ _ _
  · rintro rfl
    rw [State.openRequest_field hstage, if_neg (not_not_intro rfl)]
    refine ⟨fun htrial => ?_, fun hother => ⟨fun hbusy => ?_, fun hrests hfree => ⟨s.intake.nextOpen, ?_⟩⟩⟩
    · rw [if_pos htrial]
      exact h.answered _ _ _
    · rw [if_neg hother, if_pos (hbusy.imp_right Option.isSome_iff_ne_none.2)]
      exact h.answered _ _ _
    · have hpass : ¬ ((s.intake.session.state ≠ .idle ∧ s.intake.session.state ≠ .failed) ∨
          s.intake.session.claim.isSome = true) := by
        rintro (⟨hidle, hfailed⟩ | hclaim)
        · exact hrests.elim hidle hfailed
        · exact Option.isSome_iff_ne_none.1 hclaim hfree
      rw [if_neg hother, if_neg hpass]
      exact h.opens _
  · rw [if_pos hstate]
    exact h.answered _ _ _
  · rw [if_neg (not_not_intro hstate), if_pos howner]
    exact h.answered _ _ _
  · rw [if_neg (not_not_intro hstate), if_neg (not_not_intro howner), if_pos hodd]
    exact h.answered _ _ _
  · rw [if_neg (not_not_intro hstate), if_neg (not_not_intro howner), if_neg (not_not_intro hbank),
      State.stagingLength_inForce hforce, if_pos hover]
    exact h.answered _ _ _
  · rw [if_neg (not_not_intro hstate), if_neg (not_not_intro howner), if_neg (not_not_intro hbank),
      State.stagingLength_inForce hforce, if_neg (Nat.not_lt.2 hfits)]
    exact h.setsSession _

end Sys2Proof.Machine
end

section
/-! # The crypto engine is never idle over a queued job (R118)

A job joins the FIFO only in a command that starts the next job last, and that start leaves the engine fed whatever stood in the
FIFO. Every other command leaves the engine alone, removes jobs from it (R119), or resets the part. -/

namespace Sys2Proof.Machine

open Sys2Proof

/-- The start of the next job feeds the engine, whatever was queued before. -/
theorem State.startNext_feeds (s : State) : s.startNext.EngineFed := by
  unfold State.startNext
  split
  · exact fun hidle => nomatch hidle
  · rename_i hnone
    intro hidle
    cases hq : s.crypto.queue with
    | nil => rfl
    | cons j rest => exact absurd hq (hnone j rest hidle)

namespace State.EngineFed

variable {s : State}

theorem ite {p : Prop} [Decidable p] {a b : State} (ha : a.EngineFed) (hb : b.EngineFed) : (if p then a else b).EngineFed := by
  split
  · exact ha
  · exact hb

theorem of_crypto (h : s.EngineFed) {t : State} (e : t.crypto = s.crypto) : t.EngineFed := by
  unfold State.EngineFed
  rw [e]
  exact h

/-- An engine that loses a requester's jobs stays fed: a running job goes on to its end (R119). -/
theorem removeJobs (h : s.EngineFed) (r : Requester) : (s.removeJobs r).EngineFed :=
  fun hidle => h.filter _ (Option.map_eq_none_iff.1 hidle)

/-! ## The update intake -/

theorem dropIntakeWork (h : s.EngineFed) : s.dropIntakeWork.EngineFed :=
  (h.removeJobs .intake).of_crypto (congrArg (·.crypto) s.dropIntakeWork_eq)

theorem failSession (h : s.EngineFed) (reason : FailReason) (detail : Nat) : (s.failSession reason detail).EngineFed :=
  h.dropIntakeWork

theorem restSession (h : s.EngineFed) : s.restSession.EngineFed := h.dropIntakeWork

/-! ## The entry into HELD and the halt -/

theorem trigger (h : s.EngineFed) (cause : Cause) : (s.trigger cause).EngineFed := .ite (State.enterHeld_fed h cause) h

theorem tryHaltFlash (h : s.EngineFed) : s.tryHaltFlash.EngineFed := by
  unfold State.tryHaltFlash
  split
  · exact .ite h h
  · exact h

/-! ## The upstream link and the aperture -/

theorem discardRequest (h : s.EngineFed) (c : Ctx) : (s.discardRequest c).EngineFed := by
  have hopen : (s.discardOpen c).crypto = s.crypto := by
    unfold State.discardOpen
    dsimp only
    split
    · rfl
    · split <;> rfl
  have hclaim : ((s.discardOpen c).discardClaim c).crypto = (s.discardOpen c).crypto := by
    obtain ⟨_, e⟩ := State.dropClaim_touches { s.discardOpen c with
      requests := { (s.discardOpen c).requests with claimQueue := (s.discardOpen c).requests.claimQueue.filter (· ≠ c) } } c
    unfold State.discardClaim
    dsimp only
    rw [e]
    split <;> rfl
  exact State.EngineFed.removeJobs (h.of_crypto (hclaim.trans hopen)) _

theorem placed (h : s.EngineFed) (c : Ctx) (buffer : List Byte) : (s.placed c buffer).EngineFed := by
  obtain ⟨_, _, e⟩ := s.placed_touches c buffer
  rw [e]
  exact h

theorem deliver (h : s.EngineFed) {page off : Nat} {bytes : List Byte} {t : State} (e : s.deliver page off bytes = some t) :
    t.EngineFed := by
  unfold State.deliver at e
  dsimp only at e
  split at e
  · cases e
  · split at e <;> split at e
    · obtain rfl := Option.some.inj e
      exact h.discardRequest _
    · cases e
    · obtain rfl := Option.some.inj e
      exact h.placed _ _
    · obtain rfl := Option.some.inj e
      exact h
    · obtain rfl := Option.some.inj e
      exact h.placed _ _
    · split at e
      · obtain rfl := Option.some.inj e
        exact h.placed _ _
      · obtain rfl := Option.some.inj e
        exact h

theorem deliverAll (h : s.EngineFed) (page base : Nat) (runs : List (Nat × List Byte)) :
    (s.deliverAll page base runs).1.EngineFed := by
  induction runs generalizing s with
  | nil => exact h
  | cons run runs ih =>
    unfold State.deliverAll
    split
    · exact ih h
    · rename_i t ht
      exact ih (h.deliver ht)

theorem deliverProgram (h : s.EngineFed) (page base : Nat) (runs : List (Nat × List Byte)) :
    (s.deliverProgram page base runs).1.EngineFed := by
  refine .ite (h.deliverAll _ _ _) ?_
  obtain ⟨_, _, e⟩ := (s.deliverAll page base runs).1.answerUnlisted_touches (pageCtx page)
  rw [e]
  exact h.deliverAll _ _ _

theorem refuse (h : s.EngineFed) (start : Nat) (kind : AccessKind) (region : Option Nat) :
    (s.refuse start kind region).EngineFed := by
  obtain ⟨_, _, _, _, _, e⟩ := s.refuse_touches start kind region
  rw [e]
  exact h

theorem endRead (h : s.EngineFed) (b : Bool) : (s.endRead b).EngineFed := by
  obtain ⟨_, _, _, _, _, e⟩ := s.endRead_touches b
  rw [e]
  exact h

theorem performProgram (h : s.EngineFed) (start n : Nat) (bytes : List Byte) : (s.performProgram start n bytes).EngineFed := by
  have hwel : s.clearWel.EngineFed := h
  unfold State.performProgram
  dsimp only
  split
  · exact .ite ((hwel.deliverProgram _ _ _).refuse _ _ _) (hwel.deliverProgram _ _ _)
  · exact .ite h h
  · refine State.EngineFed.refuse ?_ _ _ _
    exact .ite hwel hwel

theorem forwardErase (h : s.EngineFed) (start : Nat) (ops : List FlashOp) (rs : List (Nat × Record)) :
    (s.forwardErase start ops rs).EngineFed := .ite h h

theorem performSectorErase (h : s.EngineFed) (start : Nat) : (s.performSectorErase start).EngineFed := by
  have hwel : s.clearWel.EngineFed := h
  unfold State.performSectorErase
  dsimp only
  split
  · obtain ⟨_, _, e⟩ := s.clearWel.eraseAperture_touches _
    rw [e]
    exact h
  · exact hwel.forwardErase _ _ _
  · exact hwel.refuse _ _ _

theorem performBlockErase (h : s.EngineFed) (start : Nat) : (s.performBlockErase start).EngineFed := by
  have hwel : s.clearWel.EngineFed := h
  unfold State.performBlockErase
  dsimp only
  split
  · exact hwel.refuse _ _ _
  · exact hwel.forwardErase _ _ _

theorem perform (h : s.EngineFed) (cmd : LinkCmd) (stray : Nat) : (s.perform cmd stray).EngineFed := by
  have hwel : s.clearWel.EngineFed := h
  cases cmd with
  | read => exact h.endRead false
  | fastRead => exact h.endRead false
  | quadRead => exact h.endRead false
  | writeEnable => exact .ite h h
  | writeDisable => exact .ite h h
  | chipErase => exact .ite (hwel.refuse _ _ _) h
  | sectorErase => exact .ite (h.performSectorErase _) h
  | blockErase => exact .ite (h.performBlockErase _) h
  | pageProgram => exact .ite (h.performProgram _ _ _) h
  | _ => exact h

theorem clockAll (h : s.EngineFed) (cmd : LinkCmd) (bytes : List Byte) : (s.clockAll cmd bytes).EngineFed := by
  obtain ⟨_, _, _, e⟩ := State.clockAll_touches cmd bytes s
  rw [e]
  exact h

/-- A transaction of the host queues no job: a reset frame in it removes its context's (R119, R178). -/
theorem linkStep (h : s.EngineFed) (cmd : LinkCmd) (step : LinkStep) : (s.linkStep cmd step).EngineFed := by
  cases step with
  | select => exact .ite h h
  | command => exact .ite h h
  | clock bytes => exact .ite (h.clockAll cmd bytes) h
  | release stray => exact .ite (h.perform cmd stray) h
  | transaction bytes stray =>
    have hselect : s.select.EngineFed := .ite h h
    have hcommand : (s.select.takeCommand cmd).EngineFed := .ite hselect hselect
    exact .ite ((hcommand.clockAll cmd bytes).perform cmd stray) h

/-! ## Requests -/

theorem answerClaimed (h : s.EngineFed) (c : Ctx) (st : Status) (detail : Nat) (body : List Byte) :
    (s.answerClaimed c st detail body).EngineFed := by
  obtain ⟨_, _, e⟩ := s.answerClaimed_touches c st detail body
  rw [e]
  exact h

theorem checkProvisioning (h : s.EngineFed) (c : Ctx) (code : Nat) (body : List Byte) :
    (s.checkProvisioning c code body).EngineFed := by
  have claimed (st : Status) (detail : Nat) := h.answerClaimed c st detail []
  have hload : (s.checkRegionLoad c body).EngineFed := by
    refine .ite (claimed _ _) (.ite (claimed _ _) (.ite (claimed _ _) (.ite (claimed _ _) ?_)))
    split
    · exact claimed _ _
    · exact h
  have hinject : (s.checkInject c body).EngineFed := by
    refine .ite (claimed _ _) (.ite (claimed _ _) ?_)
    split
    · exact claimed _ _
    · exact .ite (claimed _ _) (.ite (claimed _ _) h)
  refine .ite hload (.ite ?_ (.ite ?_ (.ite hinject (.ite ?_ h))))
  · exact .ite (claimed _ _) (.ite (claimed _ _) h)
  · exact .ite (claimed _ _) (.ite (claimed _ _) (.ite (claimed _ _) h))
  · exact .ite (claimed _ _) (.ite (claimed _ _) (.ite (claimed _ _) (.ite (claimed _ _) (.ite (claimed _ _)
      (.ite (claimed _ _) (.ite (claimed _ _) h))))))

theorem provision (h : s.EngineFed) (c : Ctx) (code : Nat) (body : List Byte) : (s.provision c code body).EngineFed := by
  refine .ite (State.EngineFed.checkProvisioning ?_ c code body) h
  exact h

theorem resetContext (h : s.EngineFed) (c : Ctx) : (s.resetContext c).EngineFed := by
  have hsession : ((s.setReservation c .none).resetSession c).EngineFed := by
    refine .ite (State.EngineFed.failSession ?_ _ _) h
    exact h
  exact .ite hsession hsession

theorem alertRead (h : s.EngineFed) (c : Ctx) : (s.alertRead c).EngineFed := by
  have hack : s.acknowledge.crypto = s.crypto := by
    unfold State.acknowledge
    dsimp only
    split <;> rfl
  have hanswer : (s.acknowledge.answerOk c ([s.alert.pending, s.alert.mask] ++ le 2 s.alert.interval)).EngineFed :=
    h.of_crypto ((State.answerOk_crypto _ c _).trans hack)
  exact .ite hanswer hanswer

theorem extendRequest (h : s.EngineFed) (c : Ctx) (body : List Byte) : (s.extendRequest c body).EngineFed := by
  unfold State.extendRequest
  refine .ite h ?_
  split
  · exact h
  · exact .ite h (.ite h (State.startNext_feeds _))

theorem condRequest (h : s.EngineFed) (c : Ctx) (body : List Byte) : (s.condRequest c body).EngineFed := by
  unfold State.condRequest
  split
  · exact h
  · split
    · exact .ite (p := _ = _) h h
    · exact State.startNext_feeds _

theorem whenEmpty (h : s.EngineFed) (c : Ctx) (body : List Byte) {t : State} (ht : t.EngineFed) :
    (s.whenEmpty c body t).EngineFed := .ite ht h

end State.EngineFed

/-! ## The commands -/

theorem execBackgroundJobRun_fed {s t : State} {count : Nat} (h : s.EngineFed) (e : execBackgroundJobRun count s = .next t) :
    t.EngineFed := by
  unfold execBackgroundJobRun at e
  split at e
  · cases e; exact h
  · split at e
    · split at e <;> cases e
      exact h
    · cases e; exact h

/-- Every command keeps the engine fed. -/
theorem exec_engineFed {i : Instr} {s t : State} (h : s.EngineFed) (e : exec i s = .next t) : t.EngineFed := by
  have event {f : State → State} (e : whenRunning s f = .next t) (hf : (f s).EngineFed) : t.EngineFed :=
    whenRunning_keeps h hf e
  have link {cmd : LinkCmd} {step : LinkStep} (e : (whenRunning s fun s => s.linkStep cmd step) = .next t) : t.EngineFed :=
    event e (h.linkStep cmd step)
  have request {c : Ctx} {code : Nat} {f : List Byte → State → State}
      (e : (whenRunning s fun s => s.onRequest c code f) = .next t) (hf : ∀ body, (f body s).EngineFed) : t.EngineFed :=
    event e (State.onRequest_keeps h hf)
  have empty {c : Ctx} {code : Nat} {f : State → State}
      (e : (whenRunning s fun s => s.onRequest c code fun body s => s.whenEmpty c body (f s)) = .next t)
      (hf : (f s).EngineFed) : t.EngineFed := request e fun body => h.whenEmpty c body hf
  have starts (u : State) := u.startNext_feeds
  unfold exec at e
  cases i with
  | powerOn hcs rstReq => cases e; exact .ite (fun _ => rfl) fun _ => rfl
  | resetNLow => cases e; exact fun _ => rfl
  | lineReset hcs => cases e; exact .ite (.ite (fun _ => rfl) fun _ => rfl) h
  | powerLoss => cases e; exact fun _ => rfl
  | restartLine => cases e; refine .ite h (.ite (State.EngineFed.trigger ?_ _) h); exact h
  | rstReqNDeassert => cases e; exact h
  | tick presence => exact event e (.ite h h)
  | trialExpiry => exact event e (.ite (State.enterHeld_fed h _) h)
  | trialAlertRaise =>
    refine event e ?_
    split
    · exact .ite h h
    · exact h
  | idleTimeout => exact event e (.ite (h.failSession _ _) h)
  | timeout c => exact event e (.ite h h)
  | requestBusyCapExpiry c => exact event e (.ite h h)
  | presenceRelease => exact event e (.ite (starts _) h)
  | presenceGrantOpen => exact event e (.ite h h)
  | presenceGrantExpiry => exact event e (.ite h h)
  | lockoutExpiry slot => exact event e (.ite h h)
  | realertExpiry => exact event e (.ite h h)
  | pulseEnd => exact event e (.ite h h)
  | stampWaitServe => exact event e (starts _)
  | ignoringTransactionEnd => exact event e (.ite h h)
  | read step => exact link e
  | fastRead step => exact link e
  | quadOutputFastRead step => exact link e
  | writeEnable step => exact link e
  | writeDisable step => exact link e
  | readStatus step => exact link e
  | readIdentification step => exact link e
  | pageProgram step => exact link e
  | sectorErase step => exact link e
  | blockErase step => exact link e
  | chipErase step => exact link e
  | unknownCommand code step => exact link e
  | substituteEraseNext took =>
    refine event e ?_
    split
    · exact h
    · split <;> exact h
  | hostForwardComplete took =>
    refine event e ?_
    split
    · exact h
    · exact .ite h (starts _)
  | capacityHandover id took =>
    refine event e ?_
    split
    · exact h
    · refine State.EngineFed.tryHaltFlash ?_
      exact h
  | backgroundJobRun count => exact execBackgroundJobRun_fed h e
  | backgroundReadComplete =>
    refine event e ?_
    split
    · exact h
    · exact .ite (starts _) h
  | cryptoJobEnd =>
    refine event e ?_
    split
    · exact h
    · exact starts _
  | retainedWriteTake =>
    refine event e ?_
    split
    · exact starts _
    · exact h
  | retainedWriteComplete =>
    refine event e ?_
    split
    · exact h
    · exact starts _
  | heldEnd => exact event e (.ite (starts _) h)
  | provisioningClaimGrant =>
    refine event e ?_
    split
    · split
      · refine State.EngineFed.checkProvisioning ?_ _ _ _
        exact h
      · exact h
    · exact h
  | identityDrawDone =>
    refine event e ?_
    split
    · exact .ite h h
    · exact h
  | info c => exact empty e h
  | contextReset c => exact empty e (h.resetContext c)
  | restart c => exact empty e (.ite (State.enterHeld_fed h _) h)
  | alertRead c => exact empty e (h.alertRead c)
  | alertSet c => exact request e fun body => .ite h (.ite (p := _ = _) h h)
  | closeBootWindow c => exact empty e h
  | regionRead c => exact request e fun body => .ite h (.ite h h)
  | regionLoad c => exact request e fun body => h.provision c _ body
  | watchLoad c =>
    refine request e fun body => .ite h ?_
    split <;> exact h
  | watchRead c => exact empty e h
  | hitsRead c => exact request e fun body => .ite h (.ite h (.ite (p := _ = _) h h))
  | extend c => exact request e fun body => h.extendRequest c body
  | measureRead c => exact request e fun body => .ite h (.ite h h)
  | quote c => exact request e fun body => .ite h (.ite h (starts _))
  | certRead c => exact empty e h
  | updateOpen c => exact request e fun body => .ite h (.ite h (.ite h (.ite h h)))
  | stagingBank c => exact request e fun body => .ite h (.ite h (.ite h (.ite h (.ite h h))))
  | updateFinish c => exact request e fun body => .ite h (.ite h (.ite h (.ite h h)))
  | updateStatus c => exact empty e h
  | updateCommit c =>
    refine request e fun body => .ite h (.ite h ?_)
    split
    · exact .ite h h
    · exact h
  | updateAbort c => exact request e fun body => .ite h (.ite h (.ite h.restSession h.restSession))
  | bootConfirm c => exact request e fun body => .ite h (.ite h (.ite h h))
  | identityGenerate c => exact request e fun body => h.provision c _ body
  | certStore c => exact request e fun body => h.provision c _ body
  | keyInject c => exact request e fun body => h.provision c _ body
  | keyRead c => exact empty e h
  | derive c => exact request e fun body => .ite h (.ite h (starts _))
  | lifecycleAdvance c => exact request e fun body => h.provision c _ body
  | timeSet c => exact request e fun body => .ite h (.ite h (.ite h h))
  | timeRead c => exact empty e h
  | credList c => exact empty e h
  | credRead c =>
    refine request e fun body => .ite h ?_
    split
    · exact h
    · split <;> exact h
  | credReserve c =>
    refine request e fun body => .ite h (.ite h ?_)
    split
    · exact h
    · split <;> exact h
  | credWriteCond c => exact request e fun body => h.condRequest c body
  | credCompare c =>
    refine request e fun body => .ite h ?_
    split
    · exact h
    · exact starts _
  | ownerWipe c => exact empty e (.ite h h)

/-- Settles O58: a command that queues a job ends with the start of the next, and no other command brings a job into the FIFO. -/
theorem engineRunsWhileJobsWait : Obligations.EngineRunsWhileJobsWait := by
  intro s t h e
  unfold step at e
  split at e
  · cases e; exact h
  · rename_i rest _
    exact exec_engineFed (s := { s with pending := rest }) h e

end Sys2Proof.Machine
end

section
/-! # The key and certificate reports

KEY_READ and CERT_READ (R126): the report is six entries of 67 bytes each, of which the slices of the statement are the entries. -/

namespace Sys2Proof.Machine

open Sys2Proof

/-! ## Equal pieces of a byte string -/

theorem flatten_length_of_forall {n : Nat} {ls : List (List Byte)} (h : ∀ l ∈ ls, l.length = n) :
    ls.flatten.length = n * ls.length := by
  rw [List.length_flatten, List.map_congr_left h, List.map_const', List.sum_replicate_nat, Nat.mul_comm]

/-- A piece of a string of equal pieces is a slice of it. -/
theorem slice_flatten {n : Nat} {ls : List (List Byte)} (h : ∀ l ∈ ls, l.length = n) {i : Nat} (hi : i < ls.length) :
    slice ls.flatten (n * i) n = ls[i] := by
  induction ls generalizing i with
  | nil => cases hi
  | cons l ls ih =>
    have hl : l.length = n := h l List.mem_cons_self
    unfold slice
    rw [List.flatten_cons]
    cases i with
    | zero => exact List.take_left' hl
    | succ i =>
      rw [Nat.mul_succ, Nat.add_comm, ← List.drop_drop, List.drop_left' hl]
      exact ih (fun l hmem => h l (List.mem_cons_of_mem _ hmem)) (Nat.lt_of_succ_lt_succ hi)

/-! ## The entries of KEY_READ -/

theorem wideBytes_length (w : BitVec 512) : (wideBytes w).length = 64 := by
  rw [wideBytes, be, List.length_reverse, le_length]

theorem wideBytes_zero : wideBytes 0 = zeros 64 := by
  have hzero : (0 : BitVec 512).toNat = 0 := BitVec.toNat_zero
  rw [wideBytes, hzero]
  rfl

theorem keyEntry_length (kind : Byte) (state : KeyState) (origin : Origin) (pub : PubKey) :
    (keyEntry kind state origin pub).length = 67 := by
  rw [keyEntry, List.length_append, wideBytes_length]
  rfl

theorem keyEntry_zero (kind : Byte) (state : KeyState) (origin : Origin) :
    keyEntry kind state origin 0 = [kind, state.code, origin.code] ++ zeros 64 := by
  rw [keyEntry, wideBytes_zero]

/-- The entry of slot 0. -/
def identityEntry : Option IdentityKey → List Byte
  | some k => keyEntry 1 .active .generated k.pub
  | none => keyEntry 1 .empty .none 0

/-- The entry of slot 1, whose secret is never given. -/
def derivationEntry (held : Bool) : List Byte :=
  if held then keyEntry 2 .active .generated 0 else keyEntry 2 .empty .none 0

/-- The entry of an update root. -/
def updateEntry (k : UpdateKey) : List Byte := keyEntry 3 k.state k.origin (if k.state = .empty then 0 else k.pub)

theorem identityEntry_eq (x : Option IdentityKey) :
    identityEntry x =
      match x with
      | some k => [0x01, 0x01, 0x01] ++ wideBytes k.pub
      | none => [0x01, 0x00, 0x00] ++ zeros 64 := by
  cases x with
  | none => exact keyEntry_zero _ _ _
  | some k => rfl

theorem derivationEntry_eq (held : Bool) :
    derivationEntry held = if held then [0x02, 0x01, 0x01] ++ zeros 64 else [0x02, 0x00, 0x00] ++ zeros 64 := by
  cases held <;> exact keyEntry_zero _ _ _

theorem updateEntry_eq (k : UpdateKey) :
    updateEntry k = [0x03, k.state.code, k.origin.code] ++ if k.state = .empty then zeros 64 else wideBytes k.pub := by
  rw [updateEntry, keyEntry, apply_ite wideBytes, wideBytes_zero]

/-- The six entries of KEY_READ, slot 0 first. -/
def State.keyEntries (s : State) : List (List Byte) :=
  identityEntry s.wc.identity :: derivationEntry s.wc.derivation.isSome :: s.wc.updateKeys.toList.map updateEntry

theorem State.keyBody_eq (s : State) : s.keyBody = s.keyEntries.flatten := by
  rw [State.keyBody, State.keyEntries, List.flatten_cons, List.flatten_cons, ← List.append_assoc, ← List.flatMap_def]
  cases s.wc.identity <;> rfl

theorem State.keyEntries_length (s : State) : s.keyEntries.length = 6 := by
  rw [State.keyEntries, List.length_cons, List.length_cons, List.length_map, Vector.length_toList]

theorem State.keyEntries_even (s : State) : ∀ l ∈ s.keyEntries, l.length = 67 := by
  have hidentity (x : Option IdentityKey) : (identityEntry x).length = 67 := by cases x <;> exact keyEntry_length _ _ _ _
  have hderivation (held : Bool) : (derivationEntry held).length = 67 := by cases held <;> exact keyEntry_length _ _ _ _
  intro l hl
  rcases List.mem_cons.1 hl with rfl | hl
  · exact hidentity _
  · rcases List.mem_cons.1 hl with rfl | hl
    · exact hderivation _
    · obtain ⟨k, -, rfl⟩ := List.mem_map.1 hl
      exact keyEntry_length _ _ _ _

theorem State.keyBody_slice (s : State) {i : Nat} (hi : i < s.keyEntries.length) :
    slice s.keyBody (67 * i) 67 = s.keyEntries[i] := by
  rw [s.keyBody_eq]
  exact slice_flatten s.keyEntries_even hi

theorem State.keyBody_update (s : State) (i : Fin 4) :
    slice s.keyBody (134 + 67 * i.val) 67 = updateEntry s.store.working.updateKeys[i] := by
  have hi : i.val + 2 < s.keyEntries.length := by rw [s.keyEntries_length]; omega
  rw [show 134 + 67 * i.val = 67 * (i.val + 2) by omega, s.keyBody_slice hi]
  show (s.wc.updateKeys.toList.map updateEntry)[i.val]'_ = _
  rw [List.getElem_map, Vector.getElem_toList]
  rfl

/-! ## The requests -/

section requests

variable {s : State} {c : Ctx} {code tag : Nat} {body : List Byte}

theorem Routed.reports (h : Routed s c code tag body) (out : List Byte) :
    (body = [] → OnlyAnswers s (s.whenEmpty c body (s.answerOk c out)) c code tag .ok 0 out) ∧
      (body ≠ [] → OnlyAnswers s (s.whenEmpty c body (s.answerOk c out)) c code tag .badLength 0 []) := by
  refine ⟨fun hempty => ?_, fun hsome => ?_⟩
  · rw [State.whenEmpty, if_pos hempty]
    exact h.answered _ _ _
  · rw [State.whenEmpty, if_neg hsome]
    exact h.answered _ _ _

theorem execKeyRead_eq (h : Routed s c 0x43 tag body) :
    exec (.keyRead c) s = .next (s.whenEmpty c body (s.answerOk c s.keyBody)) := by
  show execKeyRead c s = _
  rw [execKeyRead, h.exec_eq]

theorem execCertRead_eq (h : Routed s c 0x23 tag body) :
    exec (.certRead c) s = .next (s.whenEmpty c body (s.answerOk c (s.store.working.certificate.getD []))) := by
  show execCertRead c s = _
  rw [execCertRead, h.exec_eq]
  rfl

end requests

/-- Settles O21: each entry of the report is a slice of it, and the owner's answer is all that happens. -/
theorem keyAndCertificateReports : Obligations.KeyAndCertificateReports := by
  refine fun c tag body s => ⟨fun h => ⟨_, s.keyBody, execKeyRead_eq h, ?_, ?_, ?_, fun i => ?_, h.reports _⟩,
    fun h => ⟨_, execCertRead_eq h, h.reports _⟩⟩
  · rw [s.keyBody_eq, flatten_length_of_forall s.keyEntries_even, s.keyEntries_length]
  · exact (s.keyBody_slice (i := 0) (by rw [s.keyEntries_length]; decide)).trans (identityEntry_eq _)
  · exact (s.keyBody_slice (i := 1) (by rw [s.keyEntries_length]; decide)).trans (derivationEntry_eq _)
  · rw [s.keyBody_update, updateEntry_eq]

end Sys2Proof.Machine
end

section
/-! # Reset frames

A reset frame delivered to an executing context: what its discard leaves of the request's claims, writes, jobs and stamp requests
(R122, R140, R168, R178), and the frame that is then taken (R173, R174). -/

namespace Sys2Proof.Machine

open Sys2Proof

/-! ## The discard of a request (R178) -/

theorem Write.waitedBy_iff (w : Write) (c : Ctx) : w.waitedBy c = true ↔ w.owner = .ctx c ∧ w.live = true := by
  simp [Write.waitedBy]

section discard

variable {s : State} {c : Ctx}

/-- What the discard makes of a queued write (R178). -/
def Write.afterDiscard (w : Write) (c : Ctx) : Option Write :=
  if w.waitedBy c then (if w.kind.keptOnReset then some { w with live := false } else none) else some w

theorem Write.afterDiscard_eq (w : Write) (c : Ctx) :
    w.afterDiscard c =
      if w.owner = .ctx c ∧ w.live = true then
        match w.kind with
        | .openSession _ => some { w with live := false }
        | .commit _ _ _ => some { w with live := false }
        | .clearPending => some { w with live := false }
        | .confirm => some { w with live := false }
        | _ => none
      else some w := by
  unfold Write.afterDiscard
  simp only [w.waitedBy_iff c]
  cases w.kind <;> rfl

/-- What the discard makes of the store's writes. -/
theorem Store.afterDiscard_eq (x : Store) (c : Ctx) :
    ({ x with
      queue := x.queue.filterMap fun w => w.afterDiscard c
      taken := x.taken.map fun t =>
        if t.write.waitedBy c then { t with write := { t.write with live := false } } else t } : Store) =
    { x with
      queue := x.queue.filterMap fun w =>
        if w.owner = .ctx c ∧ w.live = true then
          match w.kind with
          | .openSession _ => some { w with live := false }
          | .commit _ _ _ => some { w with live := false }
          | .clearPending => some { w with live := false }
          | .confirm => some { w with live := false }
          | _ => none
        else some w
      taken := x.taken.map fun t =>
        if t.write.owner = .ctx c ∧ t.write.live = true then { t with write := { t.write with live := false } } else t } := by
  simp only [Write.waitedBy_iff, funext fun w : Write => w.afterDiscard_eq c]

/-- The number of the open that a write of this context's waiting UPDATE_OPEN starts. -/
def Write.opens? (w : Write) (c : Ctx) : Option Nat :=
  match w.kind with
  | .openSession n => if w.waitedBy c then some n else none
  | _ => none

theorem Write.opens?_eq_some (w : Write) (c : Ctx) (n : Nat) : w.opens? c = some n ↔ w = ⟨.ctx c, .openSession n, true⟩ := by
  obtain ⟨owner, kind, live⟩ := w
  unfold Write.opens?
  cases kind with
  | openSession m =>
    by_cases hw : Write.waitedBy ⟨owner, .openSession m, live⟩ c = true
    · obtain ⟨rfl, rfl⟩ := (Write.waitedBy_iff _ c).1 hw
      simp [hw]
    · have hnot : ¬ (owner = .ctx c ∧ live = true) := fun h => hw ((Write.waitedBy_iff _ c).2 h)
      simp only [hw, Bool.false_eq_true, if_false, Write.mk.injEq, reduceCtorEq, false_iff]
      exact fun ⟨ho, _, hl⟩ => hnot ⟨ho, hl⟩
  | _ => simp

/-- The writes that have not completed, a started one first. -/
def Store.writes (x : Store) : List Write := (x.taken.map (·.write)).toList ++ x.queue

/-- The discard looks for the open claim among the writes that wait (R178). -/
theorem State.discardOpen_eq (s : State) (c : Ctx) :
    s.discardOpen c =
      { s with
        intake :=
          if ∃ n, s.intake.session.claim = some n ∧ ⟨.ctx c, .openSession n, true⟩ ∈ s.store.writes then
            { s.intake with session := { s.intake.session with claim := none } }
          else s.intake } := by
  have hids (n : Nat) : ((s.store.queue ++ (s.store.taken.map (·.write)).toList).filterMap fun w => w.opens? c).contains n = true ↔
      ⟨.ctx c, .openSession n, true⟩ ∈ s.store.writes := by
    rw [List.contains_iff_mem, List.mem_filterMap]
    simp only [Write.opens?_eq_some, exists_eq_right, Store.writes, List.mem_append, or_comm]
  have hopen : s.discardOpen c = match s.intake.session.claim with
      | none => s
      | some n =>
        if ((s.store.queue ++ (s.store.taken.map (·.write)).toList).filterMap fun w => w.opens? c).contains n then
          { s with intake := { s.intake with session := { s.intake.session with claim := none } } }
        else s := rfl
  rw [hopen]
  cases hclaim : s.intake.session.claim with
  | none => rw [if_neg (by simp)]
  | some n =>
    simp only [hids, Option.some.injEq, exists_eq_left']
    split <;> rfl

theorem State.provisioningStarted_iff (s : State) (c : Ctx) :
    s.provisioningStarted c = true ↔
      ∃ w, s.store.taken = some w ∧ w.write.owner = .ctx c ∧ w.write.kind.provisioning = true := by
  unfold State.provisioningStarted
  cases s.store.taken <;> simp

/-- The provisioning claim clears unless its write has started (R122, R178). -/
theorem State.discardClaim_eq (s : State) (c : Ctx) :
    s.discardClaim c =
      { s with
        requests :=
          { s.requests with
            claim := if s.requests.claim = some c ∧ s.provisioningStarted c = false then none else s.requests.claim
            claimQueue := s.requests.claimQueue.filter (· ≠ c) } } := by
  have hstarted : State.provisioningStarted
      { s with requests := { s.requests with claimQueue := s.requests.claimQueue.filter (· ≠ c) } } c = s.provisioningStarted c :=
    rfl
  unfold State.discardClaim State.dropClaim
  dsimp only
  rw [hstarted]
  cases s.provisioningStarted c <;> by_cases hclaim : s.requests.claim = some c <;> simp [hclaim]

/-- All that the discard of a request changes (R178). -/
theorem State.discardRequest_eq (s : State) (c : Ctx) :
    s.discardRequest c =
      { s with
        intake := (s.discardOpen c).intake
        requests :=
          { s.requests with
            claim := if s.requests.claim = some c ∧ s.provisioningStarted c = false then none else s.requests.claim
            claimQueue := s.requests.claimQueue.filter (· ≠ c) }
        store :=
          { s.store with
            queue := s.store.queue.filterMap fun w => w.afterDiscard c
            taken := s.store.taken.map fun t =>
              if t.write.waitedBy c then { t with write := { t.write with live := false } } else t }
        time := { s.time with waiting := s.time.waiting.filter (· ≠ .quote c) }
        crypto := s.crypto.without (.ctx c) } := by
  unfold State.discardRequest
  dsimp only
  rw [State.discardClaim_eq, s.discardOpen_eq]
  rfl

/-! ## The reset frame -/

/-- A reset frame for a context that executes is taken at once (R173, R178). -/
theorem State.delivered_reset {data : List Byte} {start : Nat} (hstate : (s.ctx c).state = .executing)
    (hreset : isResetFrame data = true) :
    s.delivered (requestPage c) 0 [(0, data)] start = (s.discardRequest c).takeFrame c (data.take 8) := by
  obtain ⟨hctx, hpage, -⟩ := requestPage_facts c
  have hdeliver := State.deliver_reset (s := s) (page := requestPage c) (data := data) hpage (hctx.symm ▸ hstate) hreset
  have hall : s.deliverAll (requestPage c) 0 [(0, data)] = ((s.discardRequest c).takeFrame c (data.take 8), false) := by
    unfold State.deliverAll
    rw [Nat.zero_add, hdeliver, hctx]
    rfl
  have hprogram : s.deliverProgram (requestPage c) 0 [(0, data)] = ((s.discardRequest c).takeFrame c (data.take 8), false) := by
    unfold State.deliverProgram
    rw [hall, hctx]
    exact congrArg (·, false) (if_pos hstate)
  unfold State.delivered
  rw [hprogram]
  rfl

/-- The eight bytes of a reset frame with a tag. -/
def resetFrame (lo hi : Byte) : List Byte := [0x6A, 0x02, lo, hi, 0, 0, 0, 0]

theorem isResetFrame_resetFrame (lo hi : Byte) (more : List Byte) : isResetFrame (resetFrame lo hi ++ more) = true := by
  have hlength : 8 ≤ (resetFrame lo hi ++ more).length := by simp [resetFrame]
  have hhead : headerFailure (resetFrame lo hi ++ more) = none := rfl
  rw [isResetFrame, decide_eq_true hlength, hhead]
  rfl

theorem resetFrame_tag (lo hi : Byte) : numAt (resetFrame lo hi) 2 2 = lo.toNat + 256 * hi.toNat := rfl

/-- The state when a context's request has been discarded and the reset frame taken. -/
def State.resetBy (s : State) (c : Ctx) (lo hi : Byte) : State := (s.discardRequest c).takeFrame c (resetFrame lo hi)

theorem WriteReady.exec_resetFrame {base : Nat} (hbase : base = match c with | .c0 => 0xFFC000 | .c1 => 0xFFE000)
    (h : WriteReady s) (hstate : (s.ctx c).state = .executing) (lo hi : Byte) {more : List Byte} (hmore : more.length ≤ 248) :
    ∃ d, exec (.pageProgram (.transaction (addressBytes base ++ (resetFrame lo hi ++ more)) 0)) s =
      .next (((s.judging d).resetBy c lo hi).setDecoder (Decoder.after [])) := by
  obtain ⟨-, -, hpage, -⟩ := requestPage_facts c
  have hlen : (resetFrame lo hi ++ more).length ≤ 256 := by
    simp only [resetFrame, List.length_append, List.length_cons, List.length_nil]
    omega
  have hone : 0 % 0x100 + (resetFrame lo hi ++ more).length ≤ 0x100 := by rwa [Nat.zero_mod, Nat.zero_add]
  have hdata : resetFrame lo hi ++ more ≠ [] := List.cons_ne_nil _ _
  obtain ⟨d, hexec⟩ := h.exec_oneRun hpage (by decide) hdata hlen hone
  rw [Nat.zero_mod, Nat.sub_zero, State.delivered_reset (s := s.judging d) hstate (isResetFrame_resetFrame lo hi more),
    Nat.add_zero, ← hbase.trans (requestBase_eq c)] at hexec
  exact ⟨d, hexec⟩

theorem State.resetBy_ctx (s : State) (c : Ctx) (lo hi : Byte) :
    (s.resetBy c lo hi).ctx c =
      ⟨.executing, resetFrame lo hi, none, some (s.time.tick + 50),
        some ⟨0x02, lo.toNat + 256 * hi.toNat, [], .routed⟩, .pending (lo.toNat + 256 * hi.toNat) 0x02, .none⟩ := by
  obtain ⟨-, -, htick⟩ := s.discardRequest_keeps c
  have hctx := (s.discardRequest c).takeFrame_ctx c (resetFrame lo hi)
  rw [htick] at hctx
  exact hctx

theorem State.resetBy_other (s : State) (c : Ctx) (lo hi : Byte) :
    (s.resetBy c lo hi).ctx (otherCtx c) = s.ctx (otherCtx c) :=
  ((s.discardRequest c).takeFrame_other c _).trans
    (congrArg (fun p : PerCtx Context => p.get (otherCtx c)) (s.discardRequest_keeps c).1)

theorem State.resetBy_change (s : State) (c : Ctx) (lo hi : Byte) : AlertChange s (s.resetBy c lo hi) (responseSource c) 0 := by
  obtain ⟨-, halert, htick⟩ := s.discardRequest_keeps c
  have hclear := (s.discardRequest c).takeFrame_alert c (resetFrame lo hi)
  rw [halert, htick] at hclear
  exact ⟨_, hclear, _, AlertStep.refl _ _, rfl⟩

/-- All that the discard and the frame change beside the contexts and the alert unit (R122, R140, R178). -/
theorem State.resetBy_eq (s : State) (c : Ctx) (lo hi : Byte) :
    s.resetBy c lo hi =
      { s with
        alert := (s.resetBy c lo hi).alert
        intake := (s.discardOpen c).intake
        requests :=
          { ctx := (s.resetBy c lo hi).requests.ctx
            claim := if s.requests.claim = some c ∧ s.provisioningStarted c = false then none else s.requests.claim
            claimQueue := s.requests.claimQueue.filter (· ≠ c) }
        store :=
          { s.store with
            queue := s.store.queue.filterMap fun w => w.afterDiscard c
            taken := s.store.taken.map fun t =>
              if t.write.waitedBy c then { t with write := { t.write with live := false } } else t }
        time := { s.time with waiting := s.time.waiting.filter (· ≠ .quote c) }
        crypto := s.crypto.without (.ctx c) } := by
  unfold State.resetBy
  rw [State.discardRequest_eq]
  rfl

/-- The open claim of an UPDATE_OPEN that waits for its write clears with it (R178). -/
theorem State.discardOpen_clears {n : Nat} (hclaim : s.intake.session.claim = some n)
    (h : ⟨.ctx c, .openSession n, true⟩ ∈ s.store.writes) :
    (s.discardOpen c).intake = { s.intake with session := { s.intake.session with claim := none } } := by
  rw [State.discardOpen_eq, if_pos ⟨n, hclaim, h⟩]

theorem State.discardOpen_keeps
    (h : ∀ n, s.intake.session.claim = some n → ⟨.ctx c, .openSession n, true⟩ ∉ s.store.writes) :
    (s.discardOpen c).intake = s.intake := by
  rw [State.discardOpen_eq, if_neg fun ⟨n, hclaim, hmem⟩ => h n hclaim hmem]

end discard

/-- Settles O17: the transaction leaves what `State.resetBy_eq` says of the discard, and the frame taken. -/
theorem resetFramesDiscardTheRequest : Obligations.ResetFramesDiscardTheRequest := by
  intro c lo hi more s h hstate hmore
  obtain ⟨d, hexec⟩ := WriteReady.exec_resetFrame (c := c) rfl h hstate lo hi hmore
  have heq := (s.judging d).resetBy_eq c lo hi
  refine ⟨_, hexec, ?_, (s.judging d).resetBy_ctx c lo hi, (s.judging d).resetBy_other c lo hi,
    (s.judging d).resetBy_change c lo hi, ?_, fun started hstarted => ?_, ?_, ?_, ?_,
    fun n hclaim => ⟨fun hmem => ?_, fun hnot => ?_⟩, fun hnone => ?_, ?_⟩
  · exact congrArg (fun k : Link => { k with decoder := Decoder.after [] }) (congrArg (·.link) heq)
  · exact congrArg (·.requests.claimQueue) heq
  · have hsame : started = s.provisioningStarted c := Bool.eq_iff_iff.2 (hstarted.trans (s.provisioningStarted_iff c).symm)
    subst hsame
    exact congrArg (·.requests.claim) heq
  · exact congrArg (·.time) heq
  · exact congrArg (·.crypto) heq
  · exact (congrArg (·.store) heq).trans (s.store.afterDiscard_eq c)
  · exact (congrArg (·.intake) heq).trans ((s.judging d).discardOpen_clears hclaim hmem)
  · refine (congrArg (·.intake) heq).trans ((s.judging d).discardOpen_keeps fun m hm => ?_)
    obtain rfl : n = m := Option.some.inj (hclaim.symm.trans hm)
    exact hnot
  · exact (congrArg (·.intake) heq).trans ((s.judging d).discardOpen_keeps fun m hm => nomatch hnone.symm.trans hm)
  · exact congrArg (fun t : State => { t with
      link := s.link, requests := s.requests, alert := s.alert, time := s.time, crypto := s.crypto, store := s.store,
      intake := s.intake }) heq

end Sys2Proof.Machine
end

section
/-! # Signed quotes

The end of a SIGNING job, and of a discarded job with a SIGNING job behind it or one that waited for it outside the FIFO (R116,
R118, R119, R164 to R166, R178). -/

namespace Sys2Proof.Machine

open Sys2Proof

section signing

variable {s : State} {c : Ctx} {code tag : Nat} {body record : List Byte}

/-! ## The answer of a quote (R164, R165) -/

/-- The end of a SIGNING job with its signature. -/
theorem Executing.quoteSigned (h : Executing s c code tag body .quoting) (hquote : (s.ctx c).quote = .signing record)
    (sig : Signature) : s.jobEnded.ctxJob c (.signature sig) = s.jobEnded.answerOk c (record ++ wideBytes sig) := by
  have hwork : s.jobEnded.work? c = some .quoting := h.work?
  have hsame : (s.jobEnded.ctx c).quote = .signing record := hquote
  unfold State.ctxJob
  rw [hwork]
  simp only [hsame]

/-- The end of a SIGNING job that found slot 0 empty when it started. -/
theorem Executing.quoteUnsigned (h : Executing s c code tag body .quoting) :
    s.jobEnded.ctxJob c .noKey = s.jobEnded.answerError c .noIdentity := by
  have hwork : s.jobEnded.work? c = some .quoting := h.work?
  unfold State.ctxJob
  rw [hwork]

/-- The end of a context's job whose result the request answers with nothing else changed (R118). -/
theorem Executing.jobAnswered {w : ExecWork} (h : Executing s c code tag body w) {k : JobKind} {x : JobResult}
    (hjob : JobEnding s (.ctx c) k x) {st : Status} {detail : Nat} {out : List Byte}
    (hctx : s.jobEnded.ctxJob c x = s.jobEnded.answer c st detail out) :
    ∃ t, exec .cryptoJobEnd s = .next t ∧ JobAnswers s t c code tag st detail out := by
  obtain ⟨hrun, hrunning, hdeferred, -⟩ := hjob
  have hexec := execCryptoJobEnd_ctx hrun hrunning
  rw [hctx] at hexec
  obtain ⟨hanswers, hchange, hfifo, hframe⟩ := h.answersAtJobEnd hdeferred rfl (u := s.jobEnded) rfl rfl rfl rfl
  exact ⟨_, hexec, hanswers, hchange, hfifo, congrArg (fun t : State => { t with crypto := s.crypto }) hframe⟩

/-! ## The start of a job (R118, R119) -/

/-- An idle engine takes the oldest job, with the draw of that moment. -/
theorem State.startNext_starts {j : Job} {rest : List Job} (hidle : s.crypto.running = none) (hq : s.crypto.queue = j :: rest) :
    s.startNext =
      { s with
        crypto := { s.crypto with running := some ⟨j, s.jobResult j.kind, false⟩, queue := rest }, draws := s.draws + 1 } := by
  unfold State.startNext
  rw [hidle, hq]

theorem State.jobResult_signing {key : IdentityKey} (h : s.store.working.identity = some key) (msg : List Byte) :
    s.jobResult (.signing msg) = .signature (Config.ecdsaSign key.priv (Config.sha256 msg) s.draws) := by
  have hkey : s.wc.identity = some key := h
  unfold State.jobResult
  simp only [hkey]

/-- Stream bytes that have gathered join the FIFO at its end (R94). -/
theorem State.kickStream_appends (s : State) :
    ∃ i more, s.kickStream = { s with intake := i, crypto := { s.crypto with queue := s.crypto.queue ++ more } } := by
  unfold State.kickStream
  split
  · rename_i h
    obtain ⟨-, -, hnone⟩ := h
    rw [State.enqueueJob, if_neg hnone]
    exact ⟨_, _, rfl⟩
  · exact ⟨s.intake, [], by rw [List.append_nil]⟩

/-- A discarded job's result is dropped; what its requester had waiting enters the FIFO, and the next job starts (R118, R119). -/
theorem execCryptoJobEnd_discarded {j : RunningJob} (hrun : s.running = true) (hjob : s.crypto.running = some j)
    (hdiscarded : j.discarded = true) :
    exec .cryptoJobEnd s =
      .next (if j.job.requester = .intake then (s.jobEnded.enterDeferred j.job.requester).kickStream
        else s.jobEnded.enterDeferred j.job.requester).startNext := by
  have hdrop : s.jobEnded.handResult j = s.jobEnded := if_pos hdiscarded
  show execCryptoJobEnd s = _
  rw [execCryptoJobEnd, whenRunning_eq hrun]
  simp only [hjob]
  rw [← hdrop]
  rfl

/-- Behind a discarded job the SIGNING job at the front starts, and signs with the key in slot 0 and the draw of that moment. -/
theorem State.signs_next {key : IdentityKey} {rest : List Job} (hidle : s.crypto.running = none)
    (hq : s.crypto.queue = ⟨.ctx c, .signing record⟩ :: rest) (hkey : s.store.working.identity = some key) :
    s.startNext.crypto.queue = rest ∧
      s.startNext.crypto.running =
        some ⟨⟨.ctx c, .signing record⟩, .signature (Config.ecdsaSign key.priv (Config.sha256 record) s.draws), false⟩ ∧
      s.startNext.draws = s.draws + 1 := by
  rw [State.startNext_starts hidle hq, State.jobResult_signing hkey]
  exact ⟨rfl, rfl, rfl⟩

end signing

/-! ## The order of quotes (R166) -/

theorem Job.signsAfter_iff (a b : Job) :
    a.signsAfter b = true ↔ ∃ r q, a.kind = .signing r ∧ b.kind = .signing q ∧
      numAt q 22 6 * 0x10000 + numAt q 28 2 < numAt r 22 6 * 0x10000 + numAt r 28 2 := by
  obtain ⟨_, ka⟩ := a
  obtain ⟨_, kb⟩ := b
  unfold Job.signsAfter
  cases ka with
  | signing r => cases kb <;> simp [JobKind.quoteStamp]
  | _ => simp [JobKind.quoteStamp]

/-- A job enters behind those that sign no later quote, and ahead of the first that does. -/
theorem insertJob_split {x : Job} {pre post : List Job} (hpre : ∀ a ∈ pre, a.signsAfter x = false)
    (hpost : ∀ a, post.head? = some a → a.signsAfter x = true) : insertJob x (pre ++ post) = pre ++ x :: post := by
  induction pre with
  | nil =>
    cases post with
    | nil => rfl
    | cons a post => exact if_pos (hpost a rfl)
  | cons a pre ih =>
    have ha : ¬ a.signsAfter x = true := by rw [hpre a List.mem_cons_self]; exact Bool.false_ne_true
    exact (if_neg ha).trans (congrArg (a :: ·) (ih fun b hb => hpre b (List.mem_cons_of_mem _ hb)))

/-- The job that waited outside for its requester's discarded one enters the FIFO when that has ended (R119). -/
theorem State.enterDeferred_one {s : State} {r : Requester} {x : JobKind} (h : s.crypto.deferred = [⟨r, x⟩]) :
    s.enterDeferred r = { s with crypto := { s.crypto with queue := insertJob ⟨r, x⟩ s.crypto.queue, deferred := [] } } := by
  simp [State.enterDeferred, h]

/-- Settles O36: a signing job's end by the answer of its request, its start by `State.signs_next`, and the order of quotes by
`insertJob_split`. -/
theorem quotesAreSigned : Obligations.QuotesAreSigned := by
  refine ⟨fun c tag body record k s h hquote => ⟨fun sig hjob => h.jobAnswered hjob (h.quoteSigned hquote sig),
      fun hjob => h.jobAnswered hjob h.quoteUnsigned⟩,
    fun s j c record rest key hrun hcrypto hdiscarded hkey => ?_,
    fun key msg m n => ⟨signatureValid_sign key msg n, Config.ecdsa.sign_fresh key (Config.sha256 msg) m n⟩,
    fun s j x c later hrun hjob hdiscarded hreq hdeferred hlater => ?_⟩
  · have hexec := execCryptoJobEnd_discarded hrun (by rw [hcrypto]) hdiscarded
    have hengine : s.jobEnded.crypto = ⟨none, ⟨.ctx c, .signing record⟩ :: rest, []⟩ := by rw [State.jobEnded, hcrypto]
    rw [s.jobEnded.enterDeferred_none _ (by rw [hengine])] at hexec
    by_cases hintake : j.job.requester = .intake
    · obtain ⟨i, more, hkick⟩ := s.jobEnded.kickStream_appends
      rw [if_pos hintake, hkick, hengine] at hexec
      obtain ⟨-, hrunning, hdraws⟩ := State.signs_next (s := { s.jobEnded with intake := i, crypto := ⟨none, _, []⟩ }) (c := c)
        (record := record) (rest := rest ++ more) rfl rfl hkey
      exact ⟨_, hexec, fun hother => absurd hintake hother, hrunning, hdraws⟩
    · rw [if_neg hintake] at hexec
      obtain ⟨hqueue, hrunning, hdraws⟩ := State.signs_next (s := s.jobEnded) (by rw [hengine]) (by rw [hengine]) hkey
      exact ⟨_, hexec, fun _ => hqueue, hrunning, hdraws⟩
  · have hexec := execCryptoJobEnd_discarded hrun hjob hdiscarded
    have hafter (a : Job) : a.signsAfter ⟨.ctx c, x⟩ = true ↔ later a ⟨.ctx c, x⟩ :=
      (Job.signsAfter_iff _ _).trans (hlater _ _).symm
    rw [hreq, if_neg nofun, State.enterDeferred_one (s := s.jobEnded) hdeferred] at hexec
    refine ⟨_, hexec, State.startNext_deferred _, fun hnot => ?_, fun pre post hqueue hpre hpost => ?_, ?_⟩
    · refine (State.startNext_fifo _).trans (insertJob_append _ _ ?_)
      cases x with
      | signing r => exact absurd rfl (hnot r)
      | _ => rfl
    · refine (State.startNext_fifo _).trans ?_
      show insertJob ⟨.ctx c, x⟩ s.crypto.queue = _
      rw [hqueue]
      exact insertJob_split (fun a ha => Bool.eq_false_iff.2 fun e => hpre a ha ((hafter a).1 e))
        fun a ha => (hafter a).2 (hpost a ha)
    · exact congrArg (fun t : State => { t with crypto := s.crypto, draws := s.draws }) (State.startNext_frame _)

end Sys2Proof.Machine
end

section
/-! # The form of a CRED_WRITE_COND body

A body as its records: how it is cut, what each record says, and which check of R153 answers. -/

namespace Sys2Proof.Machine

open Sys2Proof

/-! ## The cut (R153 check 1) -/

section cut

variable {r bs : List Byte} {raw : List (List Byte)}

theorem byteAt_append {i : Nat} (h : i < r.length) : byteAt (r ++ bs) i = byteAt r i := by
  simp [byteAt, List.getD_eq_getElem?_getD, List.getElem?_append_left h]

theorem credRecordLength_append (h : CredRecordCut r) (bs : List Byte) : credRecordLength (r ++ bs) = some r.length := by
  have hlen : r.length = 15 + byteAt r 5 + byteAt r (14 + byteAt r 5) := h
  unfold credRecordLength
  simp only [List.length_append]
  rw [if_neg (by omega), byteAt_append (by omega), if_neg (by omega), byteAt_append (by omega), ← hlen]

/-- The bytes that carry a record's length are there, and the record's own bytes state that length. -/
theorem credRecordLength_some {n : Nat} (h : credRecordLength bs = some n) (hlen : n ≤ bs.length) :
    CredRecordCut (bs.take n) := by
  unfold credRecordLength at h
  dsimp only at h
  split at h
  · cases h
  · split at h
    · cases h
    · obtain rfl := Option.some.inj h
      unfold CredRecordCut
      rw [byteAt_take (by omega), byteAt_take (by omega), List.length_take, Nat.min_eq_left hlen]

theorem splitCredRecords_flatten (h : ∀ r ∈ raw, CredRecordCut r) : splitCredRecords raw.length raw.flatten = some raw := by
  induction raw with
  | nil => rfl
  | cons r raw ih =>
    have hcut := credRecordLength_append (h r List.mem_cons_self) raw.flatten
    have hlen : ¬ (r ++ raw.flatten).length < r.length := by simp
    rw [List.length_cons, List.flatten_cons, splitCredRecords, hcut]
    simp only [if_neg hlen, List.drop_left, List.take_left, ih fun q hq => h q (List.mem_cons_of_mem _ hq)]

theorem splitCredRecords_some {count : Nat} (h : splitCredRecords count bs = some raw) :
    raw.length = count ∧ (∀ r ∈ raw, CredRecordCut r) ∧ bs = raw.flatten := by
  induction count generalizing bs raw with
  | zero =>
    cases bs with
    | nil =>
      obtain rfl := Option.some.inj h
      exact ⟨rfl, fun _ hr => absurd hr List.not_mem_nil, rfl⟩
    | cons b bs => cases h
  | succ count ih =>
    unfold splitCredRecords at h
    split at h
    · cases h
    · rename_i n hn
      split at h
      · cases h
      · rename_i hlen
        split at h
        · cases h
        · rename_i rest hrest
          obtain rfl := Option.some.inj h
          obtain ⟨hcount, hcuts, hflat⟩ := ih hrest
          refine ⟨congrArg (· + 1) hcount, fun q hq => ?_, ?_⟩
          · rcases List.mem_cons.1 hq with rfl | hq
            · exact credRecordLength_some hn (Nat.not_lt.1 hlen)
            · exact hcuts q hq
          · rw [List.flatten_cons, ← hflat, List.take_append_drop]

theorem splitCredRecords_none {count : Nat}
    (h : ∀ raw : List (List Byte), raw.length = count → (∀ r ∈ raw, CredRecordCut r) → bs ≠ raw.flatten) :
    splitCredRecords count bs = none := by
  cases hsplit : splitCredRecords count bs with
  | none => rfl
  | some raw =>
    obtain ⟨hcount, hcuts, hflat⟩ := splitCredRecords_some hsplit
    exact absurd hflat (h raw hcount hcuts)

end cut

/-! ## The records (R153 checks 3 to 5) -/

section records

variable {r : List Byte} {raw : List (List Byte)}

theorem credSlot_of_lt {n : Nat} (h : n < 32) : credSlot n = some (Fin.ofNat 32 n) := by
  rw [credSlot, dif_pos h]
  exact congrArg some (Fin.ext (Nat.mod_eq_of_lt h).symm)

/-- A record is read where its fields are in range (R153 checks 3 and 4). -/
theorem NewCred.parse_formed (h : CredRecordFormed r) : NewCred.parse r = some (credRecordRead r) := by
  obtain ⟨hslot, hset, hcls, hmin, hflags, hlabel, hvalue, hnot, hempty⟩ := h
  have hrange : ¬ (1 < byteAt r 1 ∨ 1 < byteAt r 2 ∨ 3 < byteAt r 3 ∨ 3 < byteAt r 4 ∨ 24 < byteAt r 5 ∨
      192 < byteAt r (14 + byteAt r 5) ∨ (byteAt r 4 < 2 ∧ numAt r (6 + byteAt r 5) 8 ≠ 0)) := by
    omega
  have hzero : ¬ (byteAt r 1 = 0 ∧ (byteAt r 2 ≠ 0 ∨ byteAt r 3 ≠ 0 ∨ byteAt r 4 ≠ 0 ∨ byteAt r 5 ≠ 0 ∨
      numAt r (6 + byteAt r 5) 8 ≠ 0 ∨ byteAt r (14 + byteAt r 5) ≠ 0)) := by
    rintro ⟨hz, hsome⟩
    obtain ⟨h2, h3, h4, h5, hn, hv⟩ := hempty hz
    rw [h5, Nat.add_zero, Nat.add_zero] at hsome
    omega
  unfold NewCred.parse
  simp only [credSlot_of_lt (Nat.lt_succ_of_le hslot)]
  rw [if_neg hrange, if_neg hzero]
  rfl

theorem NewCred.parse_unformed (h : ¬ CredRecordFormed r) : NewCred.parse r = none := by
  unfold NewCred.parse
  dsimp only
  split
  · rfl
  · rename_i slot hslot
    have hlt : byteAt r 0 ≤ 31 := by
      unfold credSlot at hslot
      split at hslot
      · omega
      · cases hslot
    split
    · rfl
    · rename_i hrange
      refine if_pos (Classical.byContradiction fun hzero => h ?_)
      refine ⟨hlt, by omega, by omega, by omega, by omega, by omega, by omega, by omega, fun hz => ?_⟩
      have h5 : byteAt r 5 = 0 := by omega
      rw [h5, Nat.add_zero, Nat.add_zero] at hzero
      omega

theorem parseCreds_formed (h : ∀ r ∈ raw, CredRecordFormed r) : parseCreds raw = some (raw.map credRecordRead) := by
  induction raw with
  | nil => rfl
  | cons r raw ih =>
    rw [parseCreds, NewCred.parse_formed (h r List.mem_cons_self), ih fun q hq => h q (List.mem_cons_of_mem _ hq)]
    rfl

theorem parseCreds_unformed (h : ∃ r ∈ raw, ¬ CredRecordFormed r) : parseCreds raw = none := by
  induction raw with
  | nil =>
    obtain ⟨r, hr, -⟩ := h
    exact absurd hr List.not_mem_nil
  | cons r raw ih =>
    obtain ⟨q, hq, hnot⟩ := h
    rw [parseCreds]
    rcases List.mem_cons.1 hq with rfl | hq
    · rw [NewCred.parse_unformed hnot]
    · rw [ih ⟨q, hq, hnot⟩]
      cases NewCred.parse r <;> rfl

/-- Two records are in order where the second's slot number is the first's plus 1 (R153 check 5). -/
theorem neighbours_read {q : List Byte} (hr : CredRecordFormed r) (hq : CredRecordFormed q) :
    neighbours [credRecordRead r, credRecordRead q] = true ↔ byteAt q 0 = byteAt r 0 + 1 := by
  have hslot (x : List Byte) (hx : CredRecordFormed x) : (credRecordRead x).slot.val = byteAt x 0 :=
    Nat.mod_eq_of_lt (Nat.lt_succ_of_le hx.1)
  rw [neighbours, decide_eq_true_iff, hslot q hq, hslot r hr]

end records

/-! ## The checks in their order -/

section form

variable {body : List Byte} {raw : List (List Byte)}

theorem credWriteForm_short (h : body.length < 16) : credWriteForm body = .error (.badLength, 0) := if_pos h

theorem credWriteForm_uncut
    (h : ∀ raw : List (List Byte), raw.length = byteAt body 0 → (∀ r ∈ raw, CredRecordCut r) → body.drop 1 ≠ raw.flatten) :
    credWriteForm body = .error (.badLength, 0) := by
  unfold credWriteForm
  dsimp only
  rw [splitCredRecords_none h]
  split <;> rfl

/-- The checks behind the length (R153). -/
theorem credWriteForm_cut (hlen : 16 ≤ body.length) (hcount : raw.length = byteAt body 0) (hcuts : ∀ r ∈ raw, CredRecordCut r)
    (hflat : body.drop 1 = raw.flatten) :
    (byteAt body 0 ≠ 1 ∧ byteAt body 0 ≠ 2 → credWriteForm body = .error (.badParameter, 0x01)) ∧
    (byteAt body 0 = 1 ∨ byteAt body 0 = 2 →
      (parseCreds raw = none → credWriteForm body = .error (.badParameter, 0x02)) ∧
      ∀ rs, parseCreds raw = some rs →
        credWriteForm body = if neighbours rs then .ok rs else .error (.badParameter, 0x02)) := by
  unfold credWriteForm
  dsimp only
  rw [if_neg (Nat.not_lt.2 hlen), hflat, ← hcount, splitCredRecords_flatten hcuts]
  refine ⟨fun hother => if_pos hother, fun hpair => ?_⟩
  dsimp only
  rw [if_neg fun ⟨hone, htwo⟩ => hpair.elim hone htwo]
  exact ⟨fun hparse => by rw [hparse], fun rs hparse => by rw [hparse]⟩

theorem neighbours_all (hcount : raw.length = 1 ∨ raw.length = 2) (hformed : ∀ r ∈ raw, CredRecordFormed r)
    (h : ∀ r q, raw = [r, q] → byteAt q 0 = byteAt r 0 + 1) : neighbours (raw.map credRecordRead) = true := by
  match raw, hcount with
  | [r], _ => rfl
  | [r, q], _ =>
    have hr : CredRecordFormed r := hformed r List.mem_cons_self
    have hq : CredRecordFormed q := hformed q (List.mem_cons_of_mem _ List.mem_cons_self)
    exact (neighbours_read hr hq).2 (h r q rfl)

end form

/-- The first part of O31: the form of a body. -/
theorem credWriteForm_judged (body : List Byte) (count : Nat) (hcount : count = byteAt body 0) :
    (body.length < 16 ∨
        (∀ raw : List (List Byte), raw.length = count → (∀ r ∈ raw, CredRecordCut r) → body.drop 1 ≠ raw.flatten) →
      credWriteForm body = .error (.badLength, 0)) ∧
    ∀ raw : List (List Byte), 16 ≤ body.length → raw.length = count → (∀ r ∈ raw, CredRecordCut r) →
      body.drop 1 = raw.flatten →
        (count ≠ 1 → count ≠ 2 → credWriteForm body = .error (.badParameter, 0x01)) ∧
        (count = 1 ∨ count = 2 →
          ((∃ r ∈ raw, ¬ CredRecordFormed r) → credWriteForm body = .error (.badParameter, 0x02)) ∧
          (∀ r q, raw = [r, q] → byteAt q 0 ≠ byteAt r 0 + 1 → credWriteForm body = .error (.badParameter, 0x02)) ∧
          ((∀ r ∈ raw, CredRecordFormed r) → (∀ r q, raw = [r, q] → byteAt q 0 = byteAt r 0 + 1) →
            credWriteForm body = .ok (raw.map credRecordRead))) := by
  subst hcount
  refine ⟨fun h => h.elim credWriteForm_short credWriteForm_uncut, fun raw hlen hcount hcuts hflat => ?_⟩
  obtain ⟨hother, hform⟩ := credWriteForm_cut hlen hcount hcuts hflat
  refine ⟨fun hone htwo => hother ⟨hone, htwo⟩, fun hpair => ?_⟩
  obtain ⟨hnone, hsome⟩ := hform hpair
  have hunformed (h : ∃ r ∈ raw, ¬ CredRecordFormed r) := hnone (parseCreds_unformed h)
  refine ⟨hunformed, fun r q hraw hne => ?_, fun hformed hnext => ?_⟩
  · by_cases hformed : ∀ x ∈ raw, CredRecordFormed x
    · have hparse := hsome _ (parseCreds_formed hformed)
      subst hraw
      have hr : CredRecordFormed r := hformed r List.mem_cons_self
      have hq : CredRecordFormed q := hformed q (List.mem_cons_of_mem _ List.mem_cons_self)
      exact hparse.trans (if_neg fun hnext => hne ((neighbours_read hr hq).1 hnext))
    · push Not at hformed
      exact hunformed hformed
  · exact (hsome _ (parseCreds_formed hformed)).trans (if_pos (neighbours_all (hcount ▸ hpair) hformed hnext))

end Sys2Proof.Machine
end

section
/-! # The judgement of a CRED_WRITE_COND

The steps of R154 in their order, the records prepared up to the first VERIFIER, and what each outcome leaves (R116, R153 to R155). -/

namespace Sys2Proof.Machine

open Sys2Proof

section judge

variable {s : State} {c : Ctx} {rs : List NewCred}

/-! ## The steps of R154 -/

/-- What steps 4 and 5 compare of a record. -/
def NewCred.target (n : NewCred) : Fin 32 × Nat × Bool := (n.slot, n.minTrustOf, n.windowOnlyOf)

theorem State.condJudge_unreserved (h : s.reservation c = .none) : s.condJudge c rs = some (.reservationLost, 0) := if_pos h

theorem State.condJudge_otherSlots (h : s.reservation c ≠ .none) (hslots : rs.map (·.slot) ≠ (s.reservation c).targets.map (·.1)) :
    s.condJudge c rs = some (.badParameter, 0x03) := (if_neg h).trans (if_pos hslots)

/-- The steps behind those of the reservation: the version, then those taken again after digest jobs. -/
theorem State.condJudge_reserved (h : s.reservation c ≠ .none)
    (hslots : rs.map (·.slot) = (s.reservation c).targets.map (·.1)) :
    ((∃ n ∈ rs, s.store.working.creds[n.slot].version = 0xFFFFFFFF) → s.condJudge c rs = some (.badParameter, 0x04)) ∧
      ((∀ n ∈ rs, s.store.working.creds[n.slot].version ≠ 0xFFFFFFFF) →
        s.condJudge c rs = s.condCheck c (rs.map NewCred.target)) := by
  have htop : rs.any (fun n => s.wc.creds[n.slot].version = 0xFFFFFFFF) = true ↔
      ∃ n ∈ rs, s.store.working.creds[n.slot].version = 0xFFFFFFFF := by
    rw [List.any_eq_true]
    simp only [decide_eq_true_iff]
    rfl
  have hjudge : s.condJudge c rs =
      if rs.any (fun n => s.wc.creds[n.slot].version = 0xFFFFFFFF) then some (.badParameter, 0x04)
      else s.condCheck c (rs.map NewCred.target) := (if_neg h).trans (if_neg (not_not_intro hslots))
  exact ⟨fun hsome => hjudge.trans (if_pos (htop.2 hsome)), fun hnone =>
    hjudge.trans (if_neg fun hany => (htop.1 hany).elim fun n hn => hnone n hn.1 hn.2)⟩

theorem find?_map_first {α β : Type} (f : α → β) {p : β → Bool} {pre post : List α} {x : α}
    (hpre : ∀ y ∈ pre, p (f y) = false) (hx : p (f x) = true) : ((pre ++ x :: post).map f).find? p = some (f x) := by
  rw [List.map_append, List.find?_append, List.find?_eq_none.2, Option.none_or, List.map_cons, List.find?_cons_of_pos hx]
  intro y hy
  obtain ⟨z, hz, rfl⟩ := List.mem_map.1 hy
  rw [hpre z hz]
  exact Bool.false_ne_true

theorem find?_map_none {α β : Type} (f : α → β) {p : β → Bool} {xs : List α} (h : ∀ y ∈ xs, p (f y) = false) :
    (xs.map f).find? p = none := by
  refine List.find?_eq_none.2 fun y hy => ?_
  obtain ⟨z, hz, rfl⟩ := List.mem_map.1 hy
  rw [h z hz]
  exact Bool.false_ne_true

/-- Step 4 (R154). -/
theorem State.condCheck_trust {pre post : List NewCred} {n : NewCred}
    (hpre : ∀ m ∈ pre, s.trustFails m.slot m.minTrustOf = false) (hn : s.trustFails n.slot n.minTrustOf = true) :
    s.condCheck c ((pre ++ n :: post).map NewCred.target) = some (.trustTooLow, n.slot.val) := by
  unfold State.condCheck
  rw [find?_map_first NewCred.target (p := fun t => s.trustFails t.1 t.2.1) hpre hn]
  rfl

/-- Step 5 (R154). -/
theorem State.condCheck_window {pre post : List NewCred} {n : NewCred}
    (htrust : ∀ m ∈ pre ++ n :: post, s.trustFails m.slot m.minTrustOf = false)
    (hpre : ∀ m ∈ pre, s.windowFails m.slot m.windowOnlyOf = false) (hn : s.windowFails n.slot n.windowOnlyOf = true) :
    s.condCheck c ((pre ++ n :: post).map NewCred.target) = some (.bootWindowClosed, n.slot.val) := by
  unfold State.condCheck
  rw [find?_map_none NewCred.target (p := fun t => s.trustFails t.1 t.2.1) htrust]
  dsimp only
  rw [find?_map_first NewCred.target (p := fun t => s.windowFails t.1 t.2.2) hpre hn]
  rfl

/-- Step 6 (R154). -/
theorem State.condCheck_reservation (htrust : ∀ m ∈ rs, s.trustFails m.slot m.minTrustOf = false)
    (hwindow : ∀ m ∈ rs, s.windowFails m.slot m.windowOnlyOf = false) :
    (∀ ts, s.reservation c = .lost ts → s.condCheck c (rs.map NewCred.target) = some (.reservationLost, 0)) ∧
      ∀ ts, s.reservation c = .valid ts → s.condCheck c (rs.map NewCred.target) = none := by
  unfold State.condCheck
  rw [find?_map_none NewCred.target (p := fun t => s.trustFails t.1 t.2.1) htrust]
  dsimp only
  rw [find?_map_none NewCred.target (p := fun t => s.windowFails t.1 t.2.2) hwindow]
  dsimp only
  exact ⟨fun ts hts => by rw [hts], fun ts hts => by rw [hts]⟩

/-! ## Preparation (R154) -/

/-- A record that writes no VERIFIER, as it is prepared. -/
def NewCred.plain (n : NewCred) : Fin 32 × Option CredContent :=
  (n.slot, if n.set then some ⟨n.label, .secret n.value, n.minTrust, n.windowOnly, n.notAfter⟩ else none)

theorem State.prepare_plain {pre : List NewCred} (hpre : ∀ m ∈ pre, (m.set && m.verifier) = false)
    (done : List (Fin 32 × Option CredContent)) (again : Bool) (more : List NewCred) :
    s.prepare c done again (pre ++ more) = s.prepare c (done ++ pre.map NewCred.plain) again more := by
  induction pre generalizing done with
  | nil => rw [List.nil_append, List.map_nil, List.append_nil]
  | cons n pre ih =>
    have hn : ¬ (n.set = true ∧ n.verifier = true) := by
      rw [← Bool.and_eq_true, hpre n List.mem_cons_self]
      exact Bool.false_ne_true
    rw [List.cons_append, State.prepare, if_neg hn, ih fun m hm => hpre m (List.mem_cons_of_mem _ hm), List.append_assoc]
    rfl

/-- A salt is drawn for the first VERIFIER, and its digest job submitted. -/
theorem State.prepare_verifier {n : NewCred} (hn : (n.set && n.verifier) = true) (done : List (Fin 32 × Option CredContent))
    (again : Bool) (rest : List NewCred) :
    s.prepare c done again (n :: rest) =
      (({ s with draws := s.draws + 1 } : State).enqueueJob (.ctx c)
        (.digest [] (be 16 (Config.random16 s.draws).toNat ++ n.value) true)).setWork c
        (.preparing done n (Config.random16 s.draws) rest) := by
  rw [State.prepare, if_pos (by simpa using hn)]

end judge

/-! ## The request -/

section request

variable {s : State} {c : Ctx} {tag : Nat} {body : List Byte} {rs : List NewCred}

theorem execCredWriteCond_eq (h : Routed s c 0x63 tag body) : exec (.credWriteCond c) s = .next (s.condRequest c body) := by
  show execCredWriteCond c s = _
  rw [execCredWriteCond, h.exec_eq]

theorem State.condRequest_unformed {st : Status} {detail : Nat} (h : credWriteForm body = .error (st, detail)) :
    s.condRequest c body = s.answer c st detail [] := by
  unfold State.condRequest
  rw [h]

theorem State.condRequest_refused (h : credWriteForm body = .ok rs) {f : Status × Nat} (hjudge : s.condJudge c rs = some f) :
    s.condRequest c body = s.condRefuse c f := by
  unfold State.condRequest
  rw [h]
  dsimp only
  rw [hjudge]

theorem State.condRequest_passes (h : credWriteForm body = .ok rs) (hjudge : s.condJudge c rs = none) :
    s.condRequest c body = (s.prepare c [] false rs).startNext := by
  unfold State.condRequest
  rw [h]
  dsimp only
  rw [hjudge]

theorem State.condRefuse_keeps {st : Status} (h : st ≠ .reservationLost) (detail : Nat) :
    s.condRefuse c (st, detail) = s.answer c st detail [] := by
  unfold State.condRefuse
  dsimp only
  rw [if_neg h]

theorem State.condRefuse_lost (s : State) (c : Ctx) :
    s.condRefuse c (.reservationLost, 0) = (s.setReservation c .none).answerError c .reservationLost := rfl

/-- A failed step that leaves the reservation alone answers, and nothing else happens. -/
theorem Routed.refuses (h : Routed s c 0x63 tag body) (hform : credWriteForm body = .ok rs) {st : Status} {detail : Nat}
    (hjudge : s.condJudge c rs = some (st, detail)) (hst : st ≠ .reservationLost) :
    OnlyAnswers s (s.condRequest c body) c 0x63 tag st detail [] := by
  rw [State.condRequest_refused hform hjudge, State.condRefuse_keeps hst]
  exact h.answered _ _ _

/-- Without a reservation there is none to clear. -/
theorem Routed.refusesUnreserved (h : Routed s c 0x63 tag body) (hform : credWriteForm body = .ok rs)
    (hnone : s.reservation c = .none) : OnlyAnswers s (s.condRequest c body) c 0x63 tag .reservationLost 0 [] := by
  have hsame : s.setReservation c .none = s := by
    unfold State.setReservation
    rw [← hnone, State.reservation, PerCtx.set_get]
  rw [State.condRequest_refused hform (State.condJudge_unreserved hnone), State.condRefuse_lost, hsame]
  exact h.answered _ _ _

/-- A lost reservation is cleared by the answer (R154 step 6). -/
theorem Routed.refusesLost (h : Routed s c 0x63 tag body) (hform : credWriteForm body = .ok rs)
    (hjudge : s.condJudge c rs = some (.reservationLost, 0)) {t : State} (ht : t = s.condRequest c body) :
    Answers s t c 0x63 tag .reservationLost 0 [] ∧
      t.creds = { s.creds with reservations := s.creds.reservations.set c .none } ∧ AlertChange s t 0 (responseSource c) ∧
      { t with requests := s.requests, creds := s.creds, alert := s.alert } = s := by
  rw [State.condRequest_refused hform hjudge, State.condRefuse_lost] at ht
  subst ht
  obtain ⟨hanswers, hchange, hframe⟩ :=
    Executing.answersAfter h (u := s.setReservation c .none) rfl rfl rfl .reservationLost 0 []
  exact ⟨hanswers, rfl, hchange, congrArg (fun t : State => { t with creds := s.creds }) hframe⟩

/-- Records without a VERIFIER are one group to write (R154, R155). -/
theorem Routed.queuesGroup (h : Routed s c 0x63 tag body) (hfed : s.EngineFed) (hform : credWriteForm body = .ok rs)
    (hjudge : s.condJudge c rs = none) (hplain : ∀ n ∈ rs, (n.set && n.verifier) = false) {t : State}
    (ht : t = s.condRequest c body) :
    GoesOn s t c 0x63 tag body .awaitWrite ∧ QueuesWrite s t c (.credGroup (rs.map NewCred.plain)) ∧
      { t with requests := s.requests, store := s.store } = s := by
  have hprepare := State.prepare_plain (s := s) (c := c) hplain [] false []
  rw [List.append_nil, List.nil_append] at hprepare
  have hstart : (s.requestWrite c (.credGroup (rs.map NewCred.plain))).startNext =
      s.requestWrite c (.credGroup (rs.map NewCred.plain)) := State.startNext_fed hfed
  have hgroup : s.prepare c (rs.map NewCred.plain) false [] = s.requestWrite c (.credGroup (rs.map NewCred.plain)) := rfl
  rw [State.condRequest_passes hform hjudge, hprepare, hgroup, hstart] at ht
  subst ht
  exact Executing.requestsWriteAfter h rfl rfl _

theorem State.le_startNext_draws (s : State) : s.draws ≤ s.startNext.draws := by
  unfold State.startNext
  split
  · exact Nat.le_succ _
  · exact Nat.le_refl _

/-- The first VERIFIER's record runs a digest job over its salt (R116, R154). -/
theorem Routed.digestsVerifier (h : Routed s c 0x63 tag body) {pre rest : List NewCred} {n : NewCred}
    (hform : credWriteForm body = .ok (pre ++ n :: rest)) (hjudge : s.condJudge c (pre ++ n :: rest) = none)
    (hpre : ∀ m ∈ pre, (m.set && m.verifier) = false) (hn : (n.set && n.verifier) = true) {t : State}
    (ht : t = s.condRequest c body) :
    GoesOn s t c 0x63 tag body (.preparing (pre.map NewCred.plain) n (Config.random16 s.draws) rest) ∧
      QueuesJob s t (.ctx c) (.digest [] (be 16 (Config.random16 s.draws).toNat ++ n.value) true) ∧ s.draws < t.draws ∧
      { t with requests := s.requests, crypto := s.crypto, draws := s.draws } = s := by
  rw [State.condRequest_passes hform hjudge, State.prepare_plain hpre, List.nil_append, State.prepare_verifier hn] at ht
  have hdrawn : Executing { s with draws := s.draws + 1 } c 0x63 tag body .routed := h
  obtain ⟨hgoes, hqueues, hframe⟩ := hdrawn.submits (.digest [] (be 16 (Config.random16 s.draws).toNat ++ n.value) true)
    (.preparing (pre.map NewCred.plain) n (Config.random16 s.draws) rest)
  rw [← ht] at hgoes hqueues hframe
  have hdraws : s.draws + 1 ≤ t.draws := by
    rw [ht]
    refine Nat.le_trans (Nat.le_of_eq ?_) (State.le_startNext_draws _)
    obtain ⟨_, e⟩ := State.enqueueJob_touches { s with draws := s.draws + 1 } (.ctx c)
      (.digest [] (be 16 (Config.random16 s.draws).toNat ++ n.value) true)
    rw [e]
    rfl
  exact ⟨hgoes, hqueues, hdraws, congrArg (fun t : State => { t with draws := s.draws }) hframe⟩

end request

/-- Settles O31: the form by `credWriteForm_judged`, then each step of R154 by its equation of `State.condJudge`. -/
theorem credWriteCondIsJudged : Obligations.CredWriteCondIsJudged := by
  refine ⟨credWriteForm_judged, fun c tag body s h hfed => ⟨_, execCredWriteCond_eq h, fun st detail hform => ?_,
    fun rs hform => ⟨fun hnone => h.refusesUnreserved hform hnone,
      fun hsome hslots => h.refuses hform (State.condJudge_otherSlots hsome hslots) nofun,
      fun hsome hslots => ?_⟩⟩⟩
  · rw [State.condRequest_unformed hform]
    exact h.answered _ _ _
  · obtain ⟨htop, hchecks⟩ := State.condJudge_reserved hsome hslots
    refine ⟨fun hany => h.refuses hform (htop hany) nofun, fun hbelow => ?_⟩
    have hjudge := hchecks hbelow
    refine ⟨fun pre n post hrs hpre hn => ?_, fun htrust => ⟨fun pre n post hrs hpre hn => ?_, fun hwindow => ?_⟩⟩
    · subst hrs
      exact h.refuses hform (hjudge.trans (State.condCheck_trust hpre hn)) nofun
    · subst hrs
      exact h.refuses hform (hjudge.trans (State.condCheck_window htrust hpre hn)) nofun
    · obtain ⟨hlost, hvalid⟩ := State.condCheck_reservation (c := c) htrust hwindow
      refine ⟨fun ts hts => h.refusesLost hform (hjudge.trans (hlost ts hts)) rfl, fun ts hts => ?_⟩
      have hpasses := hjudge.trans (hvalid ts hts)
      refine ⟨fun hplain => h.queuesGroup hfed hform hpasses hplain rfl, fun pre n rest hrs hpre hn => ?_⟩
      subst hrs
      exact h.digestsVerifier hform hpasses hpre hn rfl

end Sys2Proof.Machine
end

section
/-! # The time base's report

TIME_READ (R135): the fields of its 28 bytes, each by its place in the report. -/

namespace Sys2Proof.Machine

open Sys2Proof

/-- A field of a byte string stands at the length of what precedes it. -/
theorem slice_between {bs pre mid post : List Byte} {off n : Nat} (h : bs = pre ++ mid ++ post) (hpre : pre.length = off)
    (hmid : mid.length = n) : slice bs off n = mid := by
  rw [h, slice, List.append_assoc, List.drop_left' hpre, List.take_left' hmid]

/-! ## The fields of TIME_READ (R135) -/

theorem Stamp.bytes_length (x : Stamp) : x.bytes.length = 12 := by
  simp only [Stamp.bytes, List.length_append, le_length]

theorem Stamp.zero_bytes : Stamp.zero.bytes = zeros 12 := rfl

theorem le_zero (n : Nat) : le n 0 = zeros n := by
  induction n with
  | zero => rfl
  | succ n ih => rw [le, Nat.zero_div, ih]; rfl

/-- The wall time behind its flag (R132, R135). -/
theorem Time.wallBytes_eq (t : Time) :
    [flagByte t.wall.isSome] ++ le 8 ((t.wallAt t.tick).getD 0) =
      match t.wall with
      | none => zeros 9
      | some (w, at_) => 0x01 :: le 8 (w + (t.tick - at_) / 1000) := by
  rw [Time.wallAt]
  cases t.wall with
  | none => exact congrArg (0x00 :: ·) (le_zero 8)
  | some p => rfl

theorem State.stampsExhausted_iff (s : State) :
    s.stampsExhausted = true ↔
      s.store.working.bootCount = 0xFFFFFFFF ∨
        s.time.tick = 0xFFFFFFFFFFFF ∧ ∃ x ∈ s.time.lastStamp, x.tick = 0xFFFFFFFFFFFF ∧ x.seq = 65535 := by
  unfold State.stampsExhausted State.wc tickMax
  cases s.time.lastStamp <;> simp

theorem State.stampStatus_eq (s : State) :
    s.stampStatus =
      if s.store.working.bootCount = 0xFFFFFFFF ∨
          s.time.tick = 0xFFFFFFFFFFFF ∧ ∃ x ∈ s.time.lastStamp, x.tick = 0xFFFFFFFFFFFF ∧ x.seq = 65535 then 0x02
      else if s.time.lastStamp = none then 0x00
      else 0x01 := by
  simp only [State.stampStatus, s.stampsExhausted_iff]
  cases s.time.lastStamp <;> rfl

theorem lastStampBytes_eq (last : Option Stamp) :
    (last.getD Stamp.zero).bytes =
      match last with
      | none => zeros 12
      | some x => le 4 x.boot ++ le 6 x.tick ++ le 2 x.seq := by
  cases last with
  | none => exact Stamp.zero_bytes
  | some x => rfl

theorem State.timeBody_length (s : State) : s.timeBody.length = 28 := by
  simp only [State.timeBody, List.length_append, List.length_singleton, le_length, Stamp.bytes_length]

/-- The report with its flag and its wall time as one field. -/
theorem State.timeBody_eq (s : State) :
    s.timeBody =
      le 6 s.time.tick ++ ([flagByte s.time.wall.isSome] ++ le 8 ((s.time.wallAt s.time.tick).getD 0)) ++
        ([s.stampStatus] ++ (s.time.lastStamp.getD Stamp.zero).bytes) := by
  simp only [State.timeBody, List.append_assoc]

theorem execTimeRead_eq {s : State} {c : Ctx} {tag : Nat} {body : List Byte} (h : Routed s c 0x51 tag body) :
    exec (.timeRead c) s = .next (s.whenEmpty c body (s.answerOk c s.timeBody)) := by
  show execTimeRead c s = _
  rw [execTimeRead, h.exec_eq]

/-- Settles O24: the report is the owner's whole answer, and each field of it is the slice at its place. -/
theorem timeReadReportsTheTimeBase : Obligations.TimeReadReportsTheTimeBase := by
  refine fun c tag body s h => ⟨_, s.timeBody, execTimeRead_eq h, s.timeBody_length, ?_, ?_, ?_, ?_, h.reports _⟩
  · exact slice_between (pre := []) (s.timeBody_eq.trans (List.append_assoc _ _ _)) rfl (le_length _ _)
  · refine (slice_between s.timeBody_eq (le_length _ _) ?_).trans s.time.wallBytes_eq
    simp only [List.length_append, List.length_singleton, le_length]
  · refine (slice_between rfl ?_ rfl).trans (congrArg (fun b => [b]) s.stampStatus_eq)
    simp only [List.length_append, List.length_singleton, le_length]
  · refine (slice_between (List.append_nil _).symm ?_ (Stamp.bytes_length _)).trans (lastStampBytes_eq _)
    simp only [List.length_append, List.length_singleton, le_length]

end Sys2Proof.Machine
end

section
/-! # Quotes and their stamps

QUOTE (R161 to R164): the record's fields (R163), the assembly, the request with its stamp and without one, and the serving of
the stamp wait list (R137 to R139). -/

namespace Sys2Proof.Machine

open Sys2Proof

/-! ## The fields of a quote record (R163) -/

theorem lifecycleCode_eq (r : Retained) :
    lifecycleCode r =
      match r.stage with
      | .manufacture => (0x00 : Byte)
      | .field => if r.strict then 0x02 else 0x01 := by
  unfold lifecycleCode
  cases r.stage <;> cases r.strict <;> rfl

/-- The outcome record, its flag byte as a sum. -/
theorem Outcome.bytes_eq (o : Outcome) :
    o.bytes =
      [o.cause.code, (match o.selected with | .a => 0x00 | .b => 0x01), o.results.a.code, o.results.b.code,
        (if o.commitApplied then 1 else 0) + (if o.reverted then 2 else 0) + (if o.fallback then 4 else 0),
        BitVec.ofNat 8 o.attemptsLeft, BitVec.ofNat 8 o.trust.level, o.halt.code] := by
  have hflags : ((if o.commitApplied then 1 else 0) ||| (if o.reverted then 2 else 0) ||| (if o.fallback then 4 else 0) : Byte) =
      (if o.commitApplied then 1 else 0) + (if o.reverted then 2 else 0) + (if o.fallback then 4 else 0) := by
    cases o.commitApplied <;> cases o.reverted <;> cases o.fallback <;> rfl
  rw [Outcome.bytes, hflags]
  cases o.selected <;> rfl

/-- The wall time of a tick, 0 where none was set (R132, R163). -/
theorem Time.wallAt_getD (t : Time) (tick : Nat) :
    (t.wallAt tick).getD 0 = match t.wall with | some (w, at_) => w + (tick - at_) / 1000 | none => 0 := by
  rw [Time.wallAt]
  cases t.wall <;> rfl

theorem setCredentials_eq (r : Retained) :
    setCredentials r = (List.finRange 32).countP fun k => r.creds[k].content.isSome := by
  have hcreds : r.creds.toList = (List.finRange 32).map fun k => r.creds[k] :=
    List.ext_getElem (by simp) fun i _ _ => by simp
  rw [setCredentials, hcreds, ← List.countP_eq_length_filter, List.countP_map]
  rfl

theorem selectedRegisters_length (regs : Vector Digest 8) (mask : Byte) :
    (selectedRegisters regs mask.toNat).length = 32 * (List.finRange 8).countP fun n => mask.getLsbD n.val := by
  rw [selectedRegisters_eq, List.length_flatMap, List.map_congr_left fun n _ => digestBytes_length regs[n], List.map_const',
    List.sum_replicate_nat, ← List.countP_eq_length_filter, Nat.mul_comm]

theorem State.quoteRecord_length (s : State) (mask : Byte) (nonce : List Byte) (x : Stamp) :
    (s.quoteRecord mask.toNat nonce x).length =
      80 + 32 * ((List.finRange 8).countP fun n => mask.getLsbD n.val) + nonce.length := by
  have hregisters := selectedRegisters_length s.watch.registers mask
  generalize (List.finRange 8).countP (fun n => mask.getLsbD n.val) = selected at hregisters ⊢
  unfold State.quoteRecord
  simp only [be, Outcome.bytes, List.length_append, List.length_reverse, List.length_cons, List.length_nil,
    le_length, Stamp.bytes_length, hregisters]
  omega

/-! ## Assembly (R162 to R164) -/

section assembly

variable {s u : State} {c : Ctx} {code tag : Nat} {body : List Byte} {mask : Byte} {nonce : List Byte} {x : Stamp}

theorem Executing.goesOn {w : ExecWork} (h : Executing s c code tag body w) : GoesOn s s c code tag body w := by
  obtain ⟨-, hreq, -⟩ := h
  exact ⟨by rw [← hreq], rfl⟩

/-- The assembly, with the record that the request's body selects. -/
theorem GoesOn.assembleQuote_eq (h : GoesOn s u c code tag (mask :: nonce) .quoting) (x : Stamp) :
    u.assembleQuote c x =
      (u.setQuote c (.signing (u.quoteRecord mask.toNat nonce x))).enqueueJob (.ctx c)
        (.signing (u.quoteRecord mask.toNat nonce x)) := by
  have hbody : u.body c = mask :: nonce := by
    obtain ⟨hctx, -⟩ := h
    rw [State.body, hctx]
  rw [State.assembleQuote, hbody]
  rfl

/-- What the assembly and the start of the next job do not touch is as before. -/
theorem State.assembleQuote_frame (u : State) (c : Ctx) (x : Stamp) (r : Requests) (k : Crypto) (d : Nat) :
    { (u.assembleQuote c x).startNext with requests := r, crypto := k, draws := d } =
      { u with requests := r, crypto := k, draws := d } := by
  obtain ⟨_, _, hassemble⟩ := u.assembleQuote_touches c x
  obtain ⟨_, _, hstart⟩ := (u.assembleQuote c x).startNext_touches
  rw [hstart, hassemble]

/-- A request whose stamp is issued behind a change that leaves its context and the engine alone has its record assembled and its
SIGNING job queued. -/
theorem GoesOn.assembles (h : GoesOn s u c 0x22 tag (mask :: nonce) .quoting) (hcrypto : u.crypto = s.crypto) (x : Stamp) :
    Assembles s (u.assembleQuote c x).startNext c tag (mask :: nonce) (u.quoteRecord mask.toNat nonce x) := by
  rw [h.assembleQuote_eq x]
  generalize u.quoteRecord mask.toNat nonce x = record
  obtain ⟨hctx, hother⟩ := h
  obtain ⟨_, hqueue⟩ := (u.setQuote c (.signing record)).enqueueJob_touches (.ctx c) (.signing record)
  have hqueues := ((u.setQuote c (.signing record)).enqueueJob_queues (.ctx c) (.signing record)).startNext
  obtain ⟨_, _, hstart⟩ := ((u.setQuote c (.signing record)).enqueueJob (.ctx c) (.signing record)).startNext_touches
  have hrequests : ((u.setQuote c (.signing record)).enqueueJob (.ctx c) (.signing record)).startNext.requests =
      (u.setQuote c (.signing record)).requests := by rw [hstart, hqueue]
  refine ⟨?_, ?_, ?_⟩
  · rw [State.ctx, hrequests]
    refine (State.setCtx_ctx (s := u) c _).trans ?_
    rw [hctx]
  · rw [State.ctx, hrequests]
    exact (State.setCtx_other (s := u) c _).trans hother
  · unfold QueuesJob NoJob at hqueues ⊢
    rw [← hcrypto]
    exact hqueues

end assembly

/-! ## The request for a stamp (R137 to R139) -/

section asking

variable {s : State} {c : Ctx} {tag : Nat} {mask : Byte} {nonce : List Byte}

theorem State.askQuoteStamp_exhausted (h : s.stampsExhausted = true) : s.askQuoteStamp c = s.answerError c .exhausted := if_pos h

theorem State.askQuoteStamp_stamped {x : Stamp} (h : s.stampsExhausted = false) (hfirst : s.time.waiting = [])
    (hx : s.nextStamp = some x) : s.askQuoteStamp c = (s.issue x).assembleQuote c x := by
  rw [State.askQuoteStamp, if_neg (ne_true_of_eq_false h), hfirst, hx]

theorem State.askQuoteStamp_waits (h : s.stampsExhausted = false) (hwait : s.time.waiting ≠ [] ∨ s.nextStamp = none) :
    s.askQuoteStamp c = (s.setQuote c .waitingStamp).waitStamp (.quote c) := by
  rw [State.askQuoteStamp, if_neg (ne_true_of_eq_false h)]
  split
  · rename_i hfirst hx
    exact (hwait.elim (fun hne => hne hfirst) fun hnone => nomatch hnone.symm.trans hx).elim
  · rfl

theorem execQuote_eq (h : Routed s c 0x22 tag (mask :: nonce)) (hlen : nonce.length ≤ 64) :
    exec (.quote c) s =
      .next (if s.store.working.identity.isNone then s.answerError c .noIdentity
        else ((s.setWork c .quoting).askQuoteStamp c).startNext) := by
  have hform : ¬ (mask :: nonce = [] ∨ 65 < (mask :: nonce).length) := by
    rw [List.length_cons]
    exact not_or.2 ⟨List.cons_ne_nil _ _, by omega⟩
  show execQuote c s = _
  rw [execQuote, h.exec_eq, State.quoteRequest, if_neg hform]
  rfl

/-- Without a stamp to come the request is answered, and nothing else happens (R139). -/
theorem Routed.quoteExhausted (h : Routed s c 0x22 tag (mask :: nonce)) (hfed : s.EngineFed) (hx : s.stampsExhausted = true) :
    OnlyAnswers s ((s.setWork c .quoting).askQuoteStamp c).startNext c 0x22 tag .exhausted 0 [] := by
  have hfed' : ((s.setWork c .quoting).answerError c .exhausted).EngineFed := hfed
  rw [State.askQuoteStamp_exhausted (s := s.setWork c .quoting) hx, State.startNext_fed hfed', State.answerError,
    State.setWork_answer]
  exact h.answered _ _ _

theorem Routed.quoteStamped (h : Routed s c 0x22 tag (mask :: nonce)) (hexhausted : s.stampsExhausted = false) {x : Stamp}
    (hfirst : s.time.waiting = []) (hx : s.nextStamp = some x) {t : State}
    (ht : t = ((s.setWork c .quoting).askQuoteStamp c).startNext) :
    Assembles s t c tag (mask :: nonce) (s.quoteRecord mask.toNat nonce x) ∧ t.time = { s.time with lastStamp := some x } ∧
      { t with requests := s.requests, crypto := s.crypto, draws := s.draws, time := s.time } = s := by
  rw [State.askQuoteStamp_stamped (s := s.setWork c .quoting) hexhausted hfirst hx] at ht
  subst ht
  have hgoes : GoesOn s ((s.setWork c .quoting).issue x) c 0x22 tag (mask :: nonce) .quoting := h.setWork_goesOn .quoting
  have hframe := ((s.setWork c .quoting).issue x).assembleQuote_frame c x s.requests s.crypto s.draws
  exact ⟨hgoes.assembles rfl x, congrArg (·.time) hframe, congrArg (fun t : State => { t with time := s.time }) hframe⟩

/-- A request that cannot have its stamp yet joins the wait list (R138). -/
theorem Routed.quoteWaits (h : Routed s c 0x22 tag (mask :: nonce)) (hfed : s.EngineFed) (hexhausted : s.stampsExhausted = false)
    (hwait : s.time.waiting ≠ [] ∨ s.nextStamp = none) {t : State}
    (ht : t = ((s.setWork c .quoting).askQuoteStamp c).startNext) :
    t.ctx c = { s.ctx c with request := some ⟨0x22, tag, mask :: nonce, .quoting⟩, quote := .waitingStamp } ∧
      t.ctx (otherCtx c) = s.ctx (otherCtx c) ∧ t.time = { s.time with waiting := s.time.waiting ++ [.quote c] } ∧
      { t with requests := s.requests, time := s.time } = s := by
  have hfed' : (((s.setWork c .quoting).setQuote c .waitingStamp).waitStamp (.quote c)).EngineFed := hfed
  rw [State.askQuoteStamp_waits (s := s.setWork c .quoting) hexhausted hwait, State.startNext_fed hfed'] at ht
  subst ht
  obtain ⟨hctx, hother⟩ := h.setWork_goesOn .quoting
  refine ⟨(State.setCtx_ctx (s := s.setWork c .quoting) c _).trans ?_,
    (State.setCtx_other (s := s.setWork c .quoting) c _).trans hother, rfl, rfl⟩
  rw [hctx]

end asking

/-! ## The stamp wait list (R138, R139) -/

section serving

variable {s : State} {c : Ctx} {tag : Nat} {mask : Byte} {nonce : List Byte}

theorem State.serveStamps_nobody (h : s.time.waiting = []) (n : Nat) : s.serveStamps n = s := by
  cases n with
  | zero => rfl
  | succ n => rw [State.serveStamps, h]

theorem State.serveStamps_stampless (hexhausted : s.stampsExhausted = false) (hx : s.nextStamp = none) (n : Nat) :
    s.serveStamps n = s := by
  cases n with
  | zero => rfl
  | succ n =>
    cases hwaiting : s.time.waiting with
    | nil => exact State.serveStamps_nobody hwaiting _
    | cons r rest => simp only [State.serveStamps, hwaiting, hexhausted, hx, Bool.false_eq_true, if_false]

/-- The part with the stamp wait list empty. -/
def State.stampsServed (s : State) : State := { s with time := { s.time with waiting := [] } }

theorem State.serveAllStamps_exhausted (hone : s.time.waiting = [.quote c]) (h : s.stampsExhausted = true) :
    s.serveAllStamps = s.stampsServed.answerError c .exhausted := by
  rw [State.serveAllStamps, hone, List.length_singleton, Nat.add_comm, State.serveStamps]
  simp only [hone, h, if_true]
  exact State.serveStamps_nobody rfl _

theorem State.serveAllStamps_stamped (hone : s.time.waiting = [.quote c]) (h : s.stampsExhausted = false) {x : Stamp}
    (hx : s.nextStamp = some x) : s.serveAllStamps = (s.stampsServed.issue x).assembleQuote c x := by
  obtain ⟨_, _, e⟩ := (s.stampsServed.issue x).assembleQuote_touches c x
  rw [State.serveAllStamps, hone, List.length_singleton, Nat.add_comm, State.serveStamps]
  simp only [hone, h, hx, Bool.false_eq_true, if_false]
  refine State.serveStamps_nobody (s := (s.stampsServed.issue x).assembleQuote c x) ?_ _
  rw [e]
  rfl

theorem execStampWaitServe_eq (hrun : s.running = true) : exec .stampWaitServe s = .next s.serveAllStamps.startNext :=
  whenRunning_eq hrun fun s => s.serveAllStamps.startNext

/-- The waiting quote is answered where no stamp is to come (R139). -/
theorem Executing.servedExhausted (h : Executing s c 0x22 tag (mask :: nonce) .quoting) (hfed : s.EngineFed)
    (hone : s.time.waiting = [.quote c]) (hexhausted : s.stampsExhausted = true) {t : State} (ht : t = s.serveAllStamps.startNext) :
    Answers s t c 0x22 tag .exhausted 0 [] ∧ AlertChange s t 0 (responseSource c) ∧ t.time = { s.time with waiting := [] } ∧
      { t with requests := s.requests, alert := s.alert, time := s.time } = s := by
  have hfed' : (s.stampsServed.answerError c .exhausted).EngineFed := hfed
  rw [State.serveAllStamps_exhausted hone hexhausted, State.startNext_fed hfed'] at ht
  subst ht
  obtain ⟨-, -, hresponse⟩ := h
  obtain ⟨hanswers, hchange, -⟩ := s.stampsServed.answer_only hresponse .exhausted 0 []
  exact ⟨hanswers, hchange, rfl, rfl⟩

/-- The waiting quote has its stamp: its record is assembled in the step that serves it (R138, R162). -/
theorem Executing.servedStamp (h : Executing s c 0x22 tag (mask :: nonce) .quoting) (hone : s.time.waiting = [.quote c])
    (hexhausted : s.stampsExhausted = false) {x : Stamp} (hx : s.nextStamp = some x) {t : State}
    (ht : t = s.serveAllStamps.startNext) :
    Assembles s t c tag (mask :: nonce) (s.quoteRecord mask.toNat nonce x) ∧
      t.time = { s.time with lastStamp := some x, waiting := [] } ∧
      { t with requests := s.requests, crypto := s.crypto, draws := s.draws, time := s.time } = s := by
  rw [State.serveAllStamps_stamped hone hexhausted hx] at ht
  subst ht
  have hgoes : GoesOn s (s.stampsServed.issue x) c 0x22 tag (mask :: nonce) .quoting := h.goesOn
  have hframe := (s.stampsServed.issue x).assembleQuote_frame c x s.requests s.crypto s.draws
  exact ⟨hgoes.assembles rfl x, congrArg (·.time) hframe, congrArg (fun t : State => { t with time := s.time }) hframe⟩

end serving

/-- Settles O35: the record is the builder's by its fields, `GoesOn.assembles` is the assembly at the request and at the wait list
alike, and each way that a request can take stands by its equation. -/
theorem quotesTakeTheirStamp : Obligations.QuotesTakeTheirStamp := by
  intro c tag mask nonce s record hfed hfields
  have hrecord (x : Stamp) : record x = s.quoteRecord mask.toNat nonce x := by
    have hmask : BitVec.ofNat 8 mask.toNat = mask := (BitVec.ofNat_toNat 8 mask).trans mask.setWidth_eq
    rw [hfields x]
    unfold State.quoteRecord
    simp only [State.wc, lifecycleCode_eq, Stamp.bytes, flagByte, Time.wallAt_getD, Outcome.bytes_eq, le_one, hmask,
      selectedRegisters_eq, setCredentials_eq, List.append_assoc, List.cons_append, List.nil_append]
    rfl
  refine ⟨fun x => (congrArg List.length (hrecord x)).trans (s.quoteRecord_length mask nonce x), fun h hlen =>
    ⟨_, execQuote_eq h hlen, fun hnone => ?_, fun hsome hexhausted => ?_, fun hsome hfresh => ?_⟩, fun hrun hidle => ?_,
    fun h hone => ?_⟩
  · rw [if_pos (Option.isNone_iff_eq_none.2 hnone)]
    exact h.answered _ _ _
  · rw [if_neg (hsome ∘ Option.isNone_iff_eq_none.1)]
    exact h.quoteExhausted hfed hexhausted
  · rw [if_neg (hsome ∘ Option.isNone_iff_eq_none.1)]
    refine ⟨fun x hfirst hx => ?_, fun hwait => h.quoteWaits hfed hfresh hwait rfl⟩
    rw [hrecord]
    exact h.quoteStamped hfresh hfirst hx rfl
  · have hall : s.serveAllStamps = s := hidle.elim (State.serveStamps_nobody · _)
      fun ⟨hfresh, hx⟩ => State.serveStamps_stampless hfresh hx _
    rw [execStampWaitServe_eq hrun, hall, State.startNext_fed hfed]
  · refine ⟨_, execStampWaitServe_eq h.1, fun hexhausted => h.servedExhausted hfed hone hexhausted rfl, fun x hfresh hx => ?_⟩
    rw [hrecord]
    exact h.servedStamp hone hfresh hx rfl

end Sys2Proof.Machine
end

section
/-! # The credential list

CRED_LIST (R145): the 32 entries, each by its place in the report, behind the epoch, the count and the grant. -/

namespace Sys2Proof.Machine

open Sys2Proof

/-! ## An entry (R145) -/

/-- The two flag bits do not overlap, so their union is their sum. -/
theorem credFlags_eq (windowOnly notAfter : Bool) :
    ((if windowOnly then 1 else 0) ||| (if notAfter then 2 else 0) : Byte) =
      (if windowOnly then 1 else 0) + (if notAfter then 2 else 0) := by
  cases windowOnly <;> cases notAfter <;> rfl

theorem credListEntry_eq (r : CredRecord) (fails lockoutTicks : Nat) :
    credListEntry r fails lockoutTicks =
      (match r.content with
        | none => zeros 38
        | some x =>
          [0x01, (match x.value with | .verifier _ _ => 0x01 | .secret _ => 0x00), BitVec.ofNat 8 x.minTrust,
            (if x.windowOnly then 1 else 0) + (if x.notAfter.isSome then 2 else 0), BitVec.ofNat 8 x.label.length] ++
          (x.label ++ zeros 24).take 24 ++ le 8 (x.notAfter.getD 0) ++
          [match x.value with | .verifier _ _ => 0x00 | .secret bs => BitVec.ofNat 8 bs.length]) ++
        le 4 r.version ++ [BitVec.ofNat 8 fails] ++ le 4 lockoutTicks := by
  obtain ⟨content, version⟩ := r
  cases content with
  | none => rfl
  | some x =>
    obtain ⟨label, value, minTrust, windowOnly, notAfter⟩ := x
    dsimp only
    rw [← credFlags_eq]
    cases value <;> rfl

theorem credListEntry_length (r : CredRecord) (fails lockoutTicks : Nat) : (credListEntry r fails lockoutTicks).length = 47 := by
  rw [credListEntry_eq]
  cases r.content <;> simp [le_length, zeros]

/-! ## The report (R145) -/

/-- The entry of a slot. -/
def State.credEntry (s : State) (k : Fin 32) : List Byte :=
  credListEntry s.wc.creds[k] s.wc.failCounts[k] (ticksLeft s.time.tick s.creds.lockouts[k])

theorem State.credEntries_eq (s : State) : s.credEntries = ((List.finRange 32).map s.credEntry).flatten := by
  rw [State.credEntries, List.flatMap_def]
  exact congrArg List.flatten (List.ext_getElem (by simp) fun i _ _ => by simp [State.credEntry])

theorem State.credEntries_even (s : State) : ∀ l ∈ (List.finRange 32).map s.credEntry, l.length = 47 := by
  intro l hl
  obtain ⟨k, -, rfl⟩ := List.mem_map.1 hl
  exact credListEntry_length _ _ _

/-- The nine bytes that precede the entries. -/
def State.credHeader (s : State) : List Byte :=
  le 4 s.wc.ownerEpoch.toNat ++ le 1 (setCredentials s.wc) ++ le 4 (ticksLeft s.time.tick s.creds.grant)

theorem State.credHeader_length (s : State) : s.credHeader.length = 9 := by
  simp only [State.credHeader, List.length_append, le_length]

theorem State.credListBody_eq (s : State) :
    s.credListBody = s.credHeader ++ ((List.finRange 32).map s.credEntry).flatten := by
  rw [State.credListBody, s.credEntries_eq]
  rfl

theorem State.credListBody_length (s : State) : s.credListBody.length = 1513 := by
  rw [s.credListBody_eq, List.length_append, s.credHeader_length, flatten_length_of_forall s.credEntries_even,
    List.length_map, List.length_finRange]

theorem State.credListBody_header (s : State) : slice s.credListBody 0 9 = s.credHeader :=
  slice_between (pre := []) s.credListBody_eq rfl s.credHeader_length

theorem State.credListBody_entry (s : State) (k : Fin 32) : slice s.credListBody (9 + 47 * k.val) 47 = s.credEntry k := by
  have hk : k.val < ((List.finRange 32).map s.credEntry).length := by simp
  have hskip : slice s.credListBody (9 + 47 * k.val) 47 =
      slice ((List.finRange 32).map s.credEntry).flatten (47 * k.val) 47 := by
    rw [s.credListBody_eq, slice, ← s.credHeader_length, ← List.drop_drop, List.drop_left]
    rfl
  rw [hskip, slice_flatten s.credEntries_even hk, List.getElem_map, List.getElem_finRange]
  rfl

theorem ticksLeft_eq (tick : Nat) (deadline : Option Nat) :
    ticksLeft tick deadline = match deadline with | some d => d - tick | none => 0 := by
  cases deadline <;> rfl

theorem execCredList_eq {s : State} {c : Ctx} {tag : Nat} {body : List Byte} (h : Routed s c 0x60 tag body) :
    exec (.credList c) s = .next (s.whenEmpty c body (s.answerOk c s.credListBody)) := by
  show execCredList c s = _
  rw [execCredList, h.exec_eq]

/-- Settles O25: the report is the owner's whole answer; its header and each entry are slices of it. -/
theorem credListReportsEverySlot : Obligations.CredListReportsEverySlot := by
  refine fun c tag body s h => ⟨_, s.credListBody, execCredList_eq h, s.credListBody_length, ?_, fun k => ?_, h.reports _⟩
  · rw [s.credListBody_header, State.credHeader, setCredentials_eq, ticksLeft_eq, le_one]
    rfl
  · rw [s.credListBody_entry, State.credEntry, credListEntry_eq, ticksLeft_eq]
    rfl

end Sys2Proof.Machine
end

section
/-! # Requests that release or compare a credential

The release checks for every class a request can need (R144), then CRED_READ (R146), CRED_RESERVE (R150, R151) and the start of
CRED_COMPARE (R147). -/

namespace Sys2Proof.Machine

open Sys2Proof

/-! ## The release checks (R144) -/

/-- The class that the table of R144 is read with: none where either will do. -/
def NeedClass.verifier? : NeedClass → Option Bool
  | .secret => some false
  | .verifier => some true
  | .any => none

/-- A slot of the other class is refused (R144 check 2). -/
theorem NeedClass.refuses_iff (need : NeedClass) (verifier : Bool) :
    (need = .secret ∧ verifier = true) ∨ (need = .verifier ∧ ¬ verifier = true) ↔ need.verifier? = some !verifier := by
  cases need <;> cases verifier <;> decide

theorem CredRecord.isVerifier_full {r : CredRecord} {x : CredContent} (h : r.content = some x) :
    r.isVerifier = match x.value with | .verifier _ _ => true | .secret _ => false := by
  obtain ⟨content, version⟩ := r
  obtain ⟨label, value, minTrust, windowOnly, notAfter⟩ := x
  subst h
  cases value <;> rfl

section checks

variable {s : State} {k : Fin 32} {x : CredContent}

/-- Over a full slot the checks are the table of R144, whatever class is needed. -/
theorem State.releaseCheck_answer (need : NeedClass) (h : s.store.working.creds[k].content = some x) :
    s.releaseCheck need k = s.releaseAnswer need.verifier? x := by
  have hcontent : s.wc.creds[k].content = some x := h
  unfold State.releaseCheck State.releaseAnswer
  rw [hcontent]
  dsimp only
  rw [CredRecord.isVerifier_full hcontent]
  have hclosed := and_congr_right' (a := x.windowOnly = true) (iff_of_eq (Bool.not_eq_true s.restart.bootWindow))
  refine if_congr (need.refuses_iff _) rfl (if_congr Iff.rfl rfl (if_congr hclosed rfl ?_))
  cases x.notAfter with
  | none => rfl
  | some limit => cases s.time.wallAt s.time.tick <;> simp

theorem State.releaseCheck_vacant (h : s.store.working.creds[k].content = none) :
    s.releaseCheck .secret k = some .emptySlot ∧ s.releaseCheck .any k = none := by
  have hcontent : s.wc.creds[k].content = none := h
  unfold State.releaseCheck
  rw [hcontent]
  exact ⟨rfl, rfl⟩

/-- What passes the checks for a SECRET is one. -/
theorem State.releaseAnswer_secret (h : s.releaseAnswer (some false) x = none) : ∃ bs, x.value = .secret bs := by
  cases hvalue : x.value with
  | secret bs => exact ⟨bs, rfl⟩
  | verifier salt d =>
    unfold State.releaseAnswer at h
    rw [hvalue] at h
    cases h

/-- Where either class will do, a slot passes if it is empty or its contents pass the table. -/
theorem State.releaseCheck_passes (h : ∀ y ∈ s.store.working.creds[k].content, s.releaseAnswer none y = none) :
    s.releaseCheck .any k = none := by
  cases hcontent : s.store.working.creds[k].content with
  | none => exact (State.releaseCheck_vacant hcontent).2
  | some y => exact (State.releaseCheck_answer .any hcontent).trans (h y hcontent)

theorem CredRecord.secretBytes_full {r : CredRecord} {bs : List Byte} (h : r.content = some x) (hx : x.value = .secret bs) :
    r.secretBytes = bs := by
  obtain ⟨content, version⟩ := r
  obtain ⟨label, value, minTrust, windowOnly, notAfter⟩ := x
  subst h hx
  rfl

end checks

/-! ## Slot numbers -/

theorem credSlot_val {n : Nat} {k : Fin 32} (h : k.val = n) : credSlot n = some k := by
  subst h
  exact dif_pos k.isLt

theorem credSlot_none {n : Nat} (h : 32 ≤ n) : credSlot n = none := dif_neg (Nat.not_lt.2 h)

theorem slotNumber_lt {n : Nat} {ks : List (Fin 32)} (h : n ∈ ks.map (·.val)) : n < 32 := by
  obtain ⟨k, -, rfl⟩ := List.mem_map.1 h
  exact k.isLt

section requests

variable {s : State} {c : Ctx} {tag : Nat} {n count : Byte}

/-! ## CRED_READ (R146) -/

/-- What CRED_READ does on the slot that its one byte names. -/
def State.releaseSlot (s : State) (c : Ctx) (k : Fin 32) : State :=
  match s.releaseCheck .secret k with
  | some st => s.answer c st k.val []
  | none => s.answerOk c s.wc.creds[k].releaseBody

theorem State.releaseSlot_refused {k : Fin 32} {st : Status} (h : s.releaseCheck .secret k = some st) :
    s.releaseSlot c k = s.answer c st k.val [] := by
  rw [State.releaseSlot, h]

theorem State.releaseSlot_releases {k : Fin 32} (h : s.releaseCheck .secret k = none) :
    s.releaseSlot c k = s.answerOk c s.store.working.creds[k].releaseBody := by
  rw [State.releaseSlot, h]
  rfl

/-- What CRED_READ does on a body of its one byte. -/
def State.readRequest (s : State) (c : Ctx) (n : Byte) : State :=
  match credSlot n.toNat with
  | none => s.answerParameter c 0x20
  | some k => s.releaseSlot c k

theorem State.readRequest_unknown (h : 32 ≤ n.toNat) : s.readRequest c n = s.answerParameter c 0x20 := by
  rw [State.readRequest, credSlot_none h]

theorem State.readRequest_slot {k : Fin 32} (h : k.val = n.toNat) : s.readRequest c n = s.releaseSlot c k := by
  rw [State.readRequest, credSlot_val h]

theorem execCredRead_eq (h : Routed s c 0x61 tag [n]) : exec (.credRead c) s = .next (s.readRequest c n) := by
  show execCredRead c s = _
  rw [execCredRead, h.exec_eq]
  rfl

theorem CredRecord.releaseBody_secret {r : CredRecord} {x : CredContent} {bs : List Byte} (h : r.content = some x)
    (hx : x.value = .secret bs) : r.releaseBody = le 4 r.version ++ [BitVec.ofNat 8 bs.length] ++ bs := by
  rw [CredRecord.releaseBody, CredRecord.secretBytes_full h hx, le_one]

/-- CRED_READ on a slot of the store's numbering: the release checks, then the value. -/
theorem Routed.releasesSlot (h : Routed s c 0x61 tag [n]) (k : Fin 32) :
    (s.store.working.creds[k].content = none → OnlyAnswers s (s.releaseSlot c k) c 0x61 tag .emptySlot k.val []) ∧
      ∀ x, s.store.working.creds[k].content = some x →
        (∀ st, s.releaseAnswer (some false) x = some st → OnlyAnswers s (s.releaseSlot c k) c 0x61 tag st k.val []) ∧
        (s.releaseAnswer (some false) x = none →
          ∃ bs, x.value = .secret bs ∧
            OnlyAnswers s (s.releaseSlot c k) c 0x61 tag .ok 0
              (le 4 s.store.working.creds[k].version ++ [BitVec.ofNat 8 bs.length] ++ bs)) := by
  refine ⟨fun hempty => ?_, fun x hx => ⟨fun st hst => ?_, fun hpass => ?_⟩⟩
  · rw [State.releaseSlot_refused (State.releaseCheck_vacant hempty).1]
    exact h.answered _ _ _
  · rw [State.releaseSlot_refused ((State.releaseCheck_answer .secret hx).trans hst)]
    exact h.answered _ _ _
  · obtain ⟨bs, hvalue⟩ := State.releaseAnswer_secret hpass
    rw [State.releaseSlot_releases ((State.releaseCheck_answer .secret hx).trans hpass), CredRecord.releaseBody_secret hx hvalue]
    exact ⟨bs, hvalue, h.answered _ _ _⟩

/-! ## CRED_RESERVE (R150, R151) -/

theorem reserveTargets_none {m j : Nat} (hm : m < 32) (h : ¬ (j = 1 ∨ j = 2 ∧ m % 2 = 0)) : reserveTargets m j = none := by
  obtain ⟨hone, htwo⟩ := not_or.1 h
  unfold reserveTargets
  rw [credSlot_val (k := ⟨m, hm⟩) rfl]
  dsimp only
  rw [if_neg hone, if_neg htwo]

/-- One slot, or a pair from an even slot on (R150). -/
theorem reserveTargets_some {m j : Nat} {ks : List (Fin 32)}
    (h : ks.map (·.val) = [m] ∧ j = 1 ∨ ks.map (·.val) = [m, m + 1] ∧ j = 2 ∧ m % 2 = 0) :
    reserveTargets m j = some ks := by
  unfold reserveTargets
  rcases h with ⟨hks, rfl⟩ | ⟨hks, rfl, heven⟩
  · obtain ⟨i, rest, rfl, hi, hrest⟩ := List.map_eq_cons_iff.1 hks
    obtain rfl := List.map_eq_nil_iff.1 hrest
    rw [credSlot_val hi]
    rfl
  · obtain ⟨i, rest, rfl, hi, hrest⟩ := List.map_eq_cons_iff.1 hks
    obtain ⟨k, last, rfl, hk, hlast⟩ := List.map_eq_cons_iff.1 hrest
    obtain rfl := List.map_eq_nil_iff.1 hlast
    rw [credSlot_val hi, credSlot_val hk]
    exact (if_neg (by decide)).trans (if_pos ⟨rfl, heven⟩)

/-- CRED_RESERVE over its targets: the first that fails a check answers, else the versions are recorded. -/
def State.reserveSlots (s : State) (c : Ctx) (ks : List (Fin 32)) : State :=
  match ks.find? (fun i => (s.releaseCheck .any i).isSome) with
  | some i => s.answer c ((s.releaseCheck .any i).getD .ok) i.val []
  | none =>
    (s.setReservation c (.valid (ks.map fun i => (i, s.wc.creds[i].version)))).answerOk c (ks.flatMap s.reserveEntry)

theorem State.reserveSlots_refused {pre post : List (Fin 32)} {k : Fin 32} {st : Status}
    (hpre : ∀ j ∈ pre, s.releaseCheck .any j = none) (hk : s.releaseCheck .any k = some st) :
    s.reserveSlots c (pre ++ k :: post) = s.answer c st k.val [] := by
  have hfind := find?_map_first id (p := fun i => (s.releaseCheck .any i).isSome) (post := post)
    (fun j hj => congrArg Option.isSome (hpre j hj)) (congrArg Option.isSome hk)
  rw [List.map_id] at hfind
  rw [State.reserveSlots, hfind]
  exact congrArg (fun x : Option Status => s.answer c (x.getD .ok) k.val []) hk

theorem State.reserveSlots_reserves {ks : List (Fin 32)} (h : ∀ j ∈ ks, s.releaseCheck .any j = none) :
    s.reserveSlots c ks =
      (s.setReservation c (.valid (ks.map fun k => (k, s.store.working.creds[k].version)))).answerOk c
        (ks.flatMap s.reserveEntry) := by
  have hfind := find?_map_none id (p := fun i => (s.releaseCheck .any i).isSome) fun j hj => congrArg Option.isSome (h j hj)
  rw [List.map_id] at hfind
  rw [State.reserveSlots, hfind]
  rfl

theorem State.reserveRequest_unknown (h : 32 ≤ n.toNat) : s.reserveRequest c [n, count] = s.answerParameter c 0x20 := by
  have hlen : ¬ [n, count].length ≠ 2 := not_not_intro rfl
  rw [State.reserveRequest, if_neg hlen]
  exact if_pos h

/-- CRED_RESERVE from a slot of the store's numbering on. -/
theorem State.reserveRequest_slot (h : n.toNat < 32) :
    (reserveTargets n.toNat count.toNat = none → s.reserveRequest c [n, count] = s.answerParameter c 0x21) ∧
      ∀ ks, reserveTargets n.toNat count.toNat = some ks → s.reserveRequest c [n, count] = s.reserveSlots c ks := by
  have hlen : ¬ [n, count].length ≠ 2 := not_not_intro rfl
  have hslot : ¬ 31 < byteAt [n, count] 0 := Nat.not_lt.2 (Nat.le_of_lt_succ h)
  rw [State.reserveRequest, if_neg hlen, if_neg hslot]
  refine ⟨fun hnone => ?_, fun ks hsome => ?_⟩
  · rw [show reserveTargets (byteAt [n, count] 0) (byteAt [n, count] 1) = none from hnone]
  · rw [show reserveTargets (byteAt [n, count] 0) (byteAt [n, count] 1) = some ks from hsome]
    rfl

theorem execCredReserve_eq (h : Routed s c 0x62 tag [n, count]) :
    exec (.credReserve c) s = .next (s.reserveRequest c [n, count]) := by
  show execCredReserve c s = _
  rw [execCredReserve, h.exec_eq]

/-- The entry of a slot in the response (R151). -/
theorem State.reserveEntry_eq (s : State) (k : Fin 32) :
    s.reserveEntry k =
      [BitVec.ofNat 8 k.val] ++ (if s.store.working.creds[k].content = none then [0x00] else [0x01]) ++
        le 4 s.store.working.creds[k].version ++ [BitVec.ofNat 8 s.store.working.creds[k].secretBytes.length] ++
        s.store.working.creds[k].secretBytes := by
  have hflag (x : Option CredContent) : [flagByte x.isSome] = if x = none then [0x00] else [0x01] := by cases x <;> rfl
  rw [← hflag]
  rfl

/-- Targets that all pass are reserved at their versions, and nothing else changes (R151). -/
theorem Routed.reserves (h : Routed s c 0x62 tag [n, count]) {ks : List (Fin 32)}
    (hpass : ∀ j ∈ ks, s.releaseCheck .any j = none) {t : State} (ht : t = s.reserveSlots c ks) :
    Answers s t c 0x62 tag .ok 0 (ks.flatMap s.reserveEntry) ∧
      t.creds =
        { s.creds with
          reservations := s.creds.reservations.set c (.valid (ks.map fun k => (k, s.store.working.creds[k].version))) } ∧
      AlertChange s t 0 (responseSource c) ∧ { t with requests := s.requests, creds := s.creds, alert := s.alert } = s := by
  rw [State.reserveSlots_reserves hpass] at ht
  subst ht
  obtain ⟨hanswers, hchange, hframe⟩ := Executing.answersAfter h
    (u := s.setReservation c (.valid (ks.map fun k => (k, s.store.working.creds[k].version)))) rfl rfl rfl .ok 0
    (ks.flatMap s.reserveEntry)
  exact ⟨hanswers, rfl, hchange, congrArg (fun t : State => { t with creds := s.creds }) hframe⟩

/-! ## CRED_COMPARE (R147) -/

theorem Executing.submitCompare_eq {code : Nat} {cand : List Byte} {w : ExecWork} (h : Executing s c code tag (n :: cand) w)
    (k : Fin 32) :
    s.submitCompare c k =
      (s.enqueueJob (.ctx c) (.compare k cand)).setWork c (.comparing k s.store.working.creds[k].version) := by
  obtain ⟨-, hreq, -⟩ := h
  have hbody : s.body c = n :: cand := by rw [State.body, hreq]
  rw [State.submitCompare, hbody]
  rfl

section compare

variable {cand : List Byte} {k : Fin 32}

theorem execCredCompare_eq {body : List Byte} (h : Routed s c 0x64 tag body) :
    exec (.credCompare c) s = .next (s.compareRequest c body) := by
  show execCredCompare c s = _
  rw [execCredCompare, h.exec_eq]

theorem compareBody_fits (hlen : cand.length ≤ 192) : ¬ (n :: cand = [] ∨ 193 < (n :: cand).length) := by
  rw [List.length_cons]
  exact not_or.2 ⟨List.cons_ne_nil _ _, by omega⟩

theorem State.compareRequest_unknown (hlen : cand.length ≤ 192) (hn : 32 ≤ n.toNat) :
    s.compareRequest c (n :: cand) = s.answerParameter c 0x20 := by
  have hslot : credSlot (byteAt (n :: cand) 0) = none := credSlot_none hn
  rw [State.compareRequest, if_neg (compareBody_fits hlen), hslot]

theorem State.compareRequest_slot (hlen : cand.length ≤ 192) (hk : k.val = n.toNat) :
    s.compareRequest c (n :: cand) = (s.tryCompare c k).startNext := by
  have hslot : credSlot (byteAt (n :: cand) 0) = some k := credSlot_val hk
  rw [State.compareRequest, if_neg (compareBody_fits hlen), hslot]

/-- A compare that is answered at once starts nothing in the engine. -/
theorem Routed.comparesAnswered (h : Routed s c 0x64 tag (n :: cand)) (hfed : s.EngineFed) {st : Status} {detail : Nat}
    {out : List Byte} (htry : s.tryCompare c k = s.answer c st detail out) :
    OnlyAnswers s (s.tryCompare c k).startNext c 0x64 tag st detail out := by
  rw [htry, State.startNext_fed (s := s.answer c st detail out) hfed]
  exact h.answered _ _ _

/-- The release checks for a VERIFIER, then the lockout, then the one job (R144, R147). -/
theorem Routed.compares (h : Routed s c 0x64 tag (n :: cand)) (hfed : s.EngineFed) (k : Fin 32) {t : State}
    (ht : t = (s.tryCompare c k).startNext) :
    (s.store.working.creds[k].content = none → OnlyAnswers s t c 0x64 tag .emptySlot k.val []) ∧
      ∀ x, s.store.working.creds[k].content = some x →
        (∀ st, s.releaseAnswer (some true) x = some st → OnlyAnswers s t c 0x64 tag st k.val []) ∧
        (s.releaseAnswer (some true) x = none →
          (∀ d, s.creds.lockouts[k] = some d → OnlyAnswers s t c 0x64 tag .lockedOut 0 (le 4 (d - s.time.tick))) ∧
          (s.creds.lockouts[k] = none →
            GoesOn s t c 0x64 tag (n :: cand) (.comparing k s.store.working.creds[k].version) ∧
              QueuesJob s t (.ctx c) (.compare k cand) ∧
              { t with requests := s.requests, crypto := s.crypto, draws := s.draws } = s)) := by
  subst ht
  refine ⟨fun hempty => ?_, fun x hx => ⟨fun st hst => ?_, fun hpass => ⟨fun d hd => ?_, fun hfree => ?_⟩⟩⟩
  · exact h.comparesAnswered hfed (State.tryCompare_refused (State.releaseCheck_empty hempty))
  · exact h.comparesAnswered hfed (State.tryCompare_refused ((State.releaseCheck_full hx).trans hst))
  · exact h.comparesAnswered hfed (State.tryCompare_locked ((State.releaseCheck_full hx).trans hpass) hd)
  · rw [State.tryCompare_submits ((State.releaseCheck_full hx).trans hpass) hfree, h.submitCompare_eq]
    exact h.submits _ _

end compare

end requests

/-- Settles O29: CRED_READ by `Routed.releasesSlot`; CRED_RESERVE by its targets, then the first that fails a check or none. -/
theorem credReadAndReserve : Obligations.CredReadAndReserve := by
  refine ⟨fun c tag n s h => ⟨_, execCredRead_eq h, fun hn => ?_, fun k hk => ?_⟩,
    fun c tag n count s h => ⟨_, execCredReserve_eq h, fun hn => ?_, fun hn hform => ?_, fun ks hks => ?_⟩⟩
  · rw [State.readRequest_unknown hn]
    exact h.answered _ _ _
  · rw [State.readRequest_slot hk]
    exact h.releasesSlot k
  · rw [State.reserveRequest_unknown hn]
    exact h.answered _ _ _
  · rw [← BitVec.toNat_inj (y := 1), ← BitVec.toNat_inj (y := 2)] at hform
    obtain ⟨hnone, -⟩ := State.reserveRequest_slot (s := s) (c := c) hn
    rw [hnone (reserveTargets_none hn hform)]
    exact h.answered _ _ _
  · rw [← BitVec.toNat_inj (y := 1), ← BitVec.toNat_inj (y := 2)] at hks
    have hn : n.toNat < 32 := slotNumber_lt <|
      hks.elim (fun h => h.1 ▸ List.mem_cons_self) fun h => h.1 ▸ List.mem_cons_self
    obtain ⟨-, hsome⟩ := State.reserveRequest_slot (s := s) (c := c) hn
    rw [hsome ks (reserveTargets_some hks)]
    refine ⟨fun pre post k x st hsplit hpre hx hst => ?_, fun hpass => ?_⟩
    · subst hsplit
      rw [State.reserveSlots_refused (fun j hj => State.releaseCheck_passes (hpre j hj))
        ((State.releaseCheck_answer .any hx).trans hst)]
      exact h.answered _ _ _
    · simp only [← State.reserveEntry_eq]
      exact h.reserves (fun j hj => State.releaseCheck_passes (hpass j hj)) rfl

/-- Settles O30: the slot number, then `Routed.compares`. -/
theorem credCompareStarts : Obligations.CredCompareStarts := by
  refine fun c tag n cand s h hlen => ⟨_, execCredCompare_eq h, fun hn => ?_, fun k hk hfed => ?_⟩
  · rw [State.compareRequest_unknown hlen hn]
    exact h.answered _ _ _
  · exact h.compares hfed k (State.compareRequest_slot hlen hk)

end Sys2Proof.Machine
end

section
/-! # The ends of a credential's jobs

The end of a compare (R147, R148), and of a VERIFIER's digest (R154, R155): what the request does next, and what it leaves. -/

namespace Sys2Proof.Machine

open Sys2Proof

/-! ## What a request makes of its job's end (R118) -/

section ends

variable {s t u : State} {c : Ctx} {code tag : Nat} {body : List Byte} {w : ExecWork} {job : JobKind} {x : JobResult}

theorem JobEnding.exec_eq (hjob : JobEnding s (.ctx c) job x) :
    exec .cryptoJobEnd s = .next ((s.jobEnded.ctxJob c x).enterDeferred (.ctx c)).startNext := by
  obtain ⟨hrun, hrunning, -⟩ := hjob
  exact execCryptoJobEnd_ctx hrun hrunning

/-- A result that the request answers, with nothing else changed. -/
theorem Executing.answersJob (h : Executing s c code tag body w) (hjob : JobEnding s (.ctx c) job x) {st : Status} {detail : Nat}
    {out : List Byte} (hu : u = s.jobEnded.answer c st detail out) (ht : t = (u.enterDeferred (.ctx c)).startNext) :
    JobAnswers s t c code tag st detail out := by
  subst hu
  obtain ⟨-, -, hdeferred, -⟩ := hjob
  obtain ⟨hanswers, hchange, hfifo, hframe⟩ := h.answersAtJobEnd hdeferred ht (u := s.jobEnded) rfl rfl rfl rfl
  exact ⟨hanswers, hchange, hfifo, congrArg (fun t : State => { t with crypto := s.crypto }) hframe⟩

/-- A request that goes on behind its job, with these jobs entered: the next job starts, and nothing else happens. -/
theorem GoesOn.afterJob {more : List JobKind} (hgoes : GoesOn s u c code tag body w) (hjob : JobEnding s (.ctx c) job x)
    (hclaim : u.requests.claim = s.requests.claim) (hclaims : u.requests.claimQueue = s.requests.claimQueue)
    (hcrypto : u.crypto = ⟨none, s.crypto.queue ++ more.map (fun k => ⟨.ctx c, k⟩), s.crypto.deferred⟩)
    (ht : t = (u.enterDeferred (.ctx c)).startNext) :
    JobGoesOn s t c code tag body w more ∧ { t with crypto := u.crypto, draws := u.draws } = u := by
  subst ht
  obtain ⟨-, -, hdeferred, -⟩ := hjob
  obtain ⟨hfifo, hframe⟩ := State.jobEnd_leaves (r := .ctx c) hdeferred hcrypto
  have hsame : (u.enterDeferred (.ctx c)).startNext.requests = u.requests := congrArg (·.requests) hframe
  refine ⟨⟨?_, hsame ▸ hclaim, hsame ▸ hclaims, hfifo⟩, hframe⟩
  unfold GoesOn State.ctx at *
  rwa [hsame]

/-- The part when a job has ended and its requester's next one is entered, with the count of draws taken by then. -/
def State.jobFollowed (s : State) (j : Job) (d : Nat) : State :=
  { s with crypto := ⟨none, s.crypto.queue ++ [j], s.crypto.deferred⟩, draws := d }

theorem JobEnding.enqueueJob (hjob : JobEnding s (.ctx c) job x) (k : JobKind) (d : Nat) :
    ({ s.jobEnded with draws := d } : State).enqueueJob (.ctx c) k = s.jobFollowed ⟨.ctx c, k⟩ d := by
  obtain ⟨-, -, -, halone⟩ := hjob
  exact State.enqueueJob_alone (s := { s.jobEnded with draws := d }) rfl halone k

/-- A result behind which the request submits its next job. -/
theorem Executing.submitsAfterJob (h : Executing s c code tag body w) (hjob : JobEnding s (.ctx c) job x) (k : JobKind)
    (w' : ExecWork) (d : Nat) (hu : u = (({ s.jobEnded with draws := d } : State).enqueueJob (.ctx c) k).setWork c w')
    (ht : t = (u.enterDeferred (.ctx c)).startNext) :
    JobGoesOn s t c code tag body w' [k] ∧ d ≤ t.draws ∧
      { t with requests := s.requests, crypto := s.crypto, draws := s.draws } = s := by
  rw [hjob.enqueueJob] at hu
  subst hu
  have hgoes : GoesOn s ((s.jobFollowed ⟨.ctx c, k⟩ d).setWork c w') c code tag body w' :=
    Executing.setWork_goesOn (s := s.jobFollowed ⟨.ctx c, k⟩ d) h w'
  obtain ⟨hon, hframe⟩ := hgoes.afterJob (more := [k]) hjob rfl rfl rfl ht
  have hdraws := State.le_startNext_draws (((s.jobFollowed ⟨.ctx c, k⟩ d).setWork c w').enterDeferred (.ctx c))
  rw [← ht] at hdraws
  exact ⟨hon, hdraws,
    congrArg (fun t : State => { t with requests := s.requests, crypto := s.crypto, draws := s.draws }) hframe⟩

/-- A result behind which the request queues its one write. -/
theorem Executing.writesAfterJob (h : Executing s c code tag body w) (hjob : JobEnding s (.ctx c) job x) {k : WriteKind}
    (hu : u = s.jobEnded.requestWrite c k) (ht : t = (u.enterDeferred (.ctx c)).startNext) :
    JobGoesOn s t c code tag body .awaitWrite [] ∧ QueuesWrite s t c k ∧
      { t with requests := s.requests, crypto := s.crypto, store := s.store, draws := s.draws } = s := by
  subst hu
  obtain ⟨hgoes, hqueues, hkeeps⟩ := Executing.requestsWriteAfter h (u := s.jobEnded) rfl rfl k
  obtain ⟨hon, hframe⟩ := hgoes.afterJob (more := []) hjob rfl rfl (by rw [List.map_nil, List.append_nil]; rfl) ht
  have hstore : t.store = (s.jobEnded.requestWrite c k).store := congrArg (·.store) hframe
  unfold QueuesWrite at *
  exact ⟨hon, hstore.trans hqueues,
    congrArg (fun t : State => { t with requests := s.requests, crypto := s.crypto, store := s.store, draws := s.draws }) hframe⟩

end ends

/-! ## The end of a compare (R147, R148) -/

section compare

variable {s : State} {c : Ctx} {k : Fin 32} {v : Nat} {ok : Bool}

theorem Executing.ctxJob_compared {code tag : Nat} {body : List Byte} (h : Executing s c code tag body (.comparing k v))
    (ok : Bool) : s.jobEnded.ctxJob c (.matched ok) = s.jobEnded.compareDone c k v ok := by
  have hwork : s.jobEnded.work? c = some (.comparing k v) := h.work?
  unfold State.ctxJob
  rw [hwork]

theorem State.compareDone_refused {st : Status} (h : s.releaseCheck .verifier k = some st) :
    s.compareDone c k v ok = s.answer c st k.val [] := by
  unfold State.compareDone State.compareCheck
  rw [h]
  rfl

theorem State.compareDone_locked {d : Nat} (h : s.releaseCheck .verifier k = none) (hd : s.creds.lockouts[k] = some d) :
    s.compareDone c k v ok = s.answer c .lockedOut 0 (le 4 (d - s.time.tick)) := by
  unfold State.compareDone State.compareCheck
  rw [h, hd]
  rfl

/-- Behind the checks, the slot's version tells whether the result stands. -/
theorem State.compareDone_checked (h : s.releaseCheck .verifier k = none) (hd : s.creds.lockouts[k] = none) :
    s.compareDone c k v ok =
      if s.store.working.creds[k].version ≠ v then s.submitCompare c k else s.compareStands c k v ok := by
  unfold State.compareDone State.compareCheck
  rw [h, hd]
  rfl

theorem State.compareStands_answers (hok : ok = true) (hfails : s.store.working.failCounts[k] = 0) :
    s.compareStands c k v ok = s.answer c .ok 0 [] := by
  rw [State.compareStands, if_pos hok]
  exact if_pos hfails

/-- A result that leaves something to write: a match clears the fail count, a mismatch counts. -/
theorem State.compareStands_writes (h : ok = false ∨ s.store.working.failCounts[k] ≠ 0) :
    s.compareStands c k v ok = s.requestWrite c (if ok then .resetFails k else .mismatch k v) := by
  cases ok with
  | false => rfl
  | true => exact if_neg (h.resolve_left Bool.noConfusion)

/-- Behind the checks: a new job over a slot written meanwhile, else the result stands. -/
theorem Executing.compareEnds {tag : Nat} {n : Byte} {cand : List Byte}
    (h : Executing s c 0x64 tag (n :: cand) (.comparing k v)) {job : JobKind}
    (hjob : JobEnding s (.ctx c) job (.matched ok)) {t : State}
    (ht : t = ((s.jobEnded.compareDone c k v ok).enterDeferred (.ctx c)).startNext) {x : CredContent}
    (hx : s.store.working.creds[k].content = some x) (hpass : s.releaseAnswer (some true) x = none)
    (hfree : s.creds.lockouts[k] = none) :
    (s.store.working.creds[k].version ≠ v →
      JobGoesOn s t c 0x64 tag (n :: cand) (.comparing k s.store.working.creds[k].version) [.compare k cand] ∧
        { t with requests := s.requests, crypto := s.crypto, draws := s.draws } = s) ∧
    (s.store.working.creds[k].version = v →
      (ok = true → s.store.working.failCounts[k] = 0 → JobAnswers s t c 0x64 tag .ok 0 []) ∧
      (ok = false ∨ s.store.working.failCounts[k] ≠ 0 →
        JobGoesOn s t c 0x64 tag (n :: cand) .awaitWrite [] ∧
          QueuesWrite s t c (if ok then .resetFails k else .mismatch k v) ∧
          { t with requests := s.requests, crypto := s.crypto, store := s.store, draws := s.draws } = s)) := by
  have hdone := State.compareDone_checked (s := s.jobEnded) (c := c) (v := v) (ok := ok)
    ((State.releaseCheck_full (s := s.jobEnded) hx).trans hpass) hfree
  refine ⟨fun hwritten => ?_, fun hsame => ?_⟩
  · have hagain := (hdone.trans (if_pos hwritten)).trans
      (Executing.submitCompare_eq (s := s.jobEnded) (n := n) (cand := cand) h k)
    obtain ⟨hon, -, hframe⟩ := h.submitsAfterJob hjob _ _ s.draws hagain ht
    exact ⟨hon, hframe⟩
  · have hstands := hdone.trans (if_neg (not_not_intro hsame))
    exact ⟨fun hok hfails => h.answersJob hjob (hstands.trans (State.compareStands_answers (s := s.jobEnded) hok hfails)) ht,
      fun hwrites => h.writesAfterJob hjob (hstands.trans (State.compareStands_writes (s := s.jobEnded) hwrites)) ht⟩

end compare

/-! ## The end of a VERIFIER's digest (R154, R155) -/

section digest

variable {s : State} {c : Ctx} {all : List (Fin 32 × Option CredContent)}
  {f : Fin 32 × Option CredContent → Fin 32 × Nat × Bool}

/-- Step 4 over targets: the first that fails it answers (R154). -/
theorem State.condCheck_lowTrust {pre post : List (Fin 32 × Option CredContent)} {r : Fin 32 × Option CredContent}
    (hpre : ∀ q ∈ pre, s.trustFails (f q).1 (f q).2.1 = false) (hr : s.trustFails (f r).1 (f r).2.1 = true) :
    s.condCheck c ((pre ++ r :: post).map f) = some (.trustTooLow, (f r).1.val) := by
  unfold State.condCheck
  rw [find?_map_first f (p := fun t => s.trustFails t.1 t.2.1) hpre hr]

/-- Step 5 over targets. -/
theorem State.condCheck_closedWindow {pre post : List (Fin 32 × Option CredContent)} {r : Fin 32 × Option CredContent}
    (htrust : ∀ q ∈ pre ++ r :: post, s.trustFails (f q).1 (f q).2.1 = false)
    (hpre : ∀ q ∈ pre, s.windowFails (f q).1 (f q).2.2 = false) (hr : s.windowFails (f r).1 (f r).2.2 = true) :
    s.condCheck c ((pre ++ r :: post).map f) = some (.bootWindowClosed, (f r).1.val) := by
  unfold State.condCheck
  rw [find?_map_none f (p := fun t => s.trustFails t.1 t.2.1) htrust]
  dsimp only
  rw [find?_map_first f (p := fun t => s.windowFails t.1 t.2.2) hpre hr]

/-- Step 6 over targets: a reservation that is not VALID answers. -/
theorem State.condCheck_reserved (htrust : ∀ q ∈ all, s.trustFails (f q).1 (f q).2.1 = false)
    (hwindow : ∀ q ∈ all, s.windowFails (f q).1 (f q).2.2 = false) :
    ((∀ ts, s.reservation c ≠ .valid ts) → s.condCheck c (all.map f) = some (.reservationLost, 0)) ∧
      ∀ ts, s.reservation c = .valid ts → s.condCheck c (all.map f) = none := by
  unfold State.condCheck
  rw [find?_map_none f (p := fun t => s.trustFails t.1 t.2.1) htrust]
  dsimp only
  rw [find?_map_none f (p := fun t => s.windowFails t.1 t.2.2) hwindow]
  dsimp only
  refine ⟨fun hnot => ?_, fun ts hts => by rw [hts]⟩
  cases hreservation : s.reservation c with
  | valid ts => exact absurd hreservation (hnot ts)
  | none => rfl
  | lost ts => rfl

theorem State.queueGroup_refused {st : Status} {detail : Nat} (h : s.condCheck c (all.map preparedTarget) = some (st, detail)) :
    s.queueGroup c all true = s.condRefuse c (st, detail) := by
  rw [State.queueGroup, if_pos rfl, h]

theorem State.queueGroup_passes (h : s.condCheck c (all.map preparedTarget) = none) :
    s.queueGroup c all true = s.requestWrite c (.credGroup all) := by
  rw [State.queueGroup, if_pos rfl, h]

/-- With the records that are left all plain, the preparation ends at the group (R154). -/
theorem State.prepare_all {rest : List NewCred} (h : ∀ m ∈ rest, (m.set && m.verifier) = false)
    (done : List (Fin 32 × Option CredContent)) :
    s.prepare c done true rest = s.queueGroup c (done ++ rest.map NewCred.plain) true := by
  have hplain := State.prepare_plain (s := s) (c := c) h done true []
  rwa [List.append_nil] at hplain

section group

variable {tag : Nat} {body : List Byte} {w : ExecWork} {job : JobKind} {x : JobResult} {t : State}

theorem Executing.ctxJob_digested {done : List (Fin 32 × Option CredContent)} {n : NewCred} {salt : Salt} {rest : List NewCred}
    (h : Executing s c 0x63 tag body (.preparing done n salt rest)) (d : Digest) :
    s.jobEnded.ctxJob c (.digest d) = s.jobEnded.prepare c (done ++ [n.prepared (.verifier salt d)]) true rest := by
  have hwork : s.jobEnded.work? c = some (.preparing done n salt rest) := h.work?
  unfold State.ctxJob
  rw [hwork]

/-- A failed step that leaves the reservation alone answers, and nothing else happens. -/
theorem Executing.groupRefused (h : Executing s c 0x63 tag body w) (hjob : JobEnding s (.ctx c) job x)
    (ht : t = ((s.jobEnded.queueGroup c all true).enterDeferred (.ctx c)).startNext) {st : Status} {detail : Nat}
    (hcheck : s.jobEnded.condCheck c (all.map preparedTarget) = some (st, detail)) (hst : st ≠ .reservationLost) :
    JobAnswers s t c 0x63 tag st detail [] :=
  h.answersJob hjob ((State.queueGroup_refused hcheck).trans (State.condRefuse_keeps hst detail)) ht

/-- A reservation that is not VALID is cleared by the answer (R154 step 6). -/
theorem Executing.groupLost (h : Executing s c 0x63 tag body w) (hjob : JobEnding s (.ctx c) job x)
    (ht : t = ((s.jobEnded.queueGroup c all true).enterDeferred (.ctx c)).startNext)
    (hcheck : s.jobEnded.condCheck c (all.map preparedTarget) = some (.reservationLost, 0)) :
    Answers s t c 0x63 tag .reservationLost 0 [] ∧
      t.creds = { s.creds with reservations := s.creds.reservations.set c .none } ∧
      AlertChange s t 0 (responseSource c) ∧ t.crypto.fifo = s.crypto.queue ∧
      { t with
        requests := s.requests, creds := s.creds, alert := s.alert, crypto := s.crypto, draws := s.draws } = s := by
  obtain ⟨-, -, hdeferred, -⟩ := hjob
  rw [State.queueGroup_refused hcheck, State.condRefuse_lost] at ht
  obtain ⟨hanswers, hchange, hfifo, hframe⟩ :=
    h.answersAtJobEnd hdeferred ht (u := s.jobEnded.setReservation c .none) rfl rfl rfl rfl
  exact ⟨hanswers, congrArg (·.creds) hframe, hchange, hfifo,
    congrArg (fun t : State => { t with creds := s.creds, crypto := s.crypto, draws := s.draws }) hframe⟩

/-- Steps 4 to 6 again over the prepared records, then the one group (R154, R155). `f` is what they read of a record. -/
theorem Executing.groupEnds (h : Executing s c 0x63 tag body w) (hjob : JobEnding s (.ctx c) job x)
    (ht : t = ((s.jobEnded.queueGroup c all true).enterDeferred (.ctx c)).startNext) (hf : preparedTarget = f) :
    (∀ pre r post, all = pre ++ r :: post → (∀ q ∈ pre, s.trustFails (f q).1 (f q).2.1 = false) →
      s.trustFails (f r).1 (f r).2.1 = true → JobAnswers s t c 0x63 tag .trustTooLow (f r).1.val []) ∧
    ((∀ q ∈ all, s.trustFails (f q).1 (f q).2.1 = false) →
      (∀ pre r post, all = pre ++ r :: post → (∀ q ∈ pre, s.windowFails (f q).1 (f q).2.2 = false) →
        s.windowFails (f r).1 (f r).2.2 = true → JobAnswers s t c 0x63 tag .bootWindowClosed (f r).1.val []) ∧
      ((∀ q ∈ all, s.windowFails (f q).1 (f q).2.2 = false) →
        ((∀ ts, s.reservation c ≠ .valid ts) →
          Answers s t c 0x63 tag .reservationLost 0 [] ∧
            t.creds = { s.creds with reservations := s.creds.reservations.set c .none } ∧
            AlertChange s t 0 (responseSource c) ∧ t.crypto.fifo = s.crypto.queue ∧
            { t with
              requests := s.requests, creds := s.creds, alert := s.alert, crypto := s.crypto, draws := s.draws } = s) ∧
        (∀ ts, s.reservation c = .valid ts →
          JobGoesOn s t c 0x63 tag body .awaitWrite [] ∧ QueuesWrite s t c (.credGroup all) ∧
            { t with requests := s.requests, crypto := s.crypto, store := s.store, draws := s.draws } = s))) := by
  subst hf
  refine ⟨fun pre r post hall hpre hr => ?_, fun htrust => ⟨fun pre r post hall hpre hr => ?_, fun hwindow => ?_⟩⟩
  · subst hall
    exact h.groupRefused hjob ht (State.condCheck_lowTrust (s := s.jobEnded) hpre hr) nofun
  · subst hall
    exact h.groupRefused hjob ht (State.condCheck_closedWindow (s := s.jobEnded) htrust hpre hr) nofun
  · obtain ⟨hlost, hvalid⟩ := State.condCheck_reserved (s := s.jobEnded) (c := c) htrust hwindow
    exact ⟨fun hnot => h.groupLost hjob ht (hlost hnot),
      fun ts hts => h.writesAfterJob hjob (State.queueGroup_passes (hvalid ts hts)) ht⟩

end group

end digest

/-- Settles O34: `Executing.compareEnds` behind the checks; the next VERIFIER's digest, or the steps of R154 over the group. -/
theorem credentialJobsEnd : Obligations.CredentialJobsEnd := by
  refine ⟨fun c tag n cand k v job ok s h hjob => ?_, fun c tag body done n salt rest d job s now h hjob hnow => ?_⟩
  · have hexec := hjob.exec_eq
    rw [h.ctxJob_compared] at hexec
    refine ⟨_, hexec, fun hempty => ?_, fun x hx => ⟨fun st hst => ?_, fun hpass => ⟨fun d hd => ?_, fun hfree => ?_⟩⟩⟩
    · exact h.answersJob hjob (State.compareDone_refused (State.releaseCheck_empty (s := s.jobEnded) hempty)) rfl
    · exact h.answersJob hjob
        (State.compareDone_refused ((State.releaseCheck_full (s := s.jobEnded) hx).trans hst)) rfl
    · exact h.answersJob hjob
        (State.compareDone_locked ((State.releaseCheck_full (s := s.jobEnded) hx).trans hpass) hd) rfl
    · exact h.compareEnds hjob rfl hx hpass hfree
  · have hexec := hjob.exec_eq
    rw [h.ctxJob_digested] at hexec
    subst hnow
    refine ⟨_, hexec, fun m more hrest hm => ?_, fun all least window hplain hall hleast hwindow => ?_⟩
    · subst hrest
      exact h.submitsAfterJob hjob _ _ (s.draws + 1) (State.prepare_verifier hm _ true more) rfl
    · have htarget : preparedTarget = fun q => (q.1, least q.2, window q.2) := by
        funext ⟨i, content⟩
        rw [hleast, hwindow]
        cases content <;> rfl
      have hprepare := State.prepare_all (s := s.jobEnded) (c := c) hplain (done ++ [n.prepared (.verifier salt d)])
      subst hall
      exact h.groupEnds hjob (congrArg (fun u : State => (u.enterDeferred (.ctx c)).startNext) hprepare) htarget

end Sys2Proof.Machine
end

section
/-! # The standing of the part

INFO (R183): the report in the values of the statement, its length, and the answer that is all that happens. -/

namespace Sys2Proof.Machine

open Sys2Proof

theorem Slot.code_eq (k : Slot) : k.code = match k with | .a => 0x00 | .b => 0x01 := by
  cases k <;> rfl

theorem Outcome.bytes_length (o : Outcome) : o.bytes.length = 8 := by
  rw [Outcome.bytes_eq]
  rfl

theorem State.infoBody_length (s : State) : s.infoBody.length = 17 := by
  simp only [State.infoBody, List.length_append, List.length_singleton, Outcome.bytes_length, le_length]

/-- The codes of the report spelled out, the single bytes next to each other taken together (R183). -/
theorem State.infoBody_eq (s : State) :
    s.infoBody =
      [match s.store.working.stage with
        | .manufacture => (0x00 : Byte)
        | .field => if s.store.working.strict then 0x02 else 0x01] ++
      s.restart.outcome.bytes ++
      [BitVec.ofNat 8 s.watch.trust.level, (match s.store.working.selector with | .a => 0x00 | .b => 0x01)] ++
      le 4 s.store.working.bootCount ++ [if s.restart.bootWindow then 0x01 else 0x00, s.intake.session.state.code] := by
  have hfields : s.infoBody = [lifecycleCode s.wc] ++ s.restart.outcome.bytes ++
      [BitVec.ofNat 8 s.watch.trust.level, s.active.code] ++ le 4 s.wc.bootCount ++
      [flagByte s.restart.bootWindow, s.intake.session.state.code] := by
    simp only [State.infoBody, le_one, List.append_assoc, List.singleton_append]
  rw [hfields, lifecycleCode_eq, Slot.code_eq]
  rfl

theorem execInfo_eq {s : State} {c : Ctx} {tag : Nat} {body : List Byte} (h : Routed s c 0x01 tag body) :
    exec (.info c) s = .next (s.whenEmpty c body (s.answerOk c s.infoBody)) := by
  show execInfo c s = _
  rw [execInfo, h.exec_eq]

/-- Settles O20: the report is the owner's whole answer, 17 bytes by the lengths of its fields. -/
theorem infoReportsTheStanding : Obligations.InfoReportsTheStanding :=
  fun _ _ _ s h => ⟨_, s.infoBody, execInfo_eq h, s.infoBody_length, s.infoBody_eq, h.reports _⟩

end Sys2Proof.Machine
end

section
/-! # The alert unit's requests

ALERT_SET and ALERT_READ (R184 to R186): each sets the alert unit and nothing else, and its answer then raises the RESPONSE source. -/

namespace Sys2Proof.Machine

open Sys2Proof

/-! ## The re-alert timer (R186) -/

/-- The timer of an asserted line set afresh, as ALERT_SET does: disarmed for interval 0. -/
def Alert.rearmed (now : Nat) (a : Alert) : Alert :=
  if a.line = .asserted then { a with timer := realertTimer now a.interval } else a

/-- The timer of an asserted line armed afresh, as ALERT_READ does: for an interval other than 0. -/
def Alert.acknowledged (now : Nat) (a : Alert) : Alert :=
  if a.line = .asserted ∧ a.interval ≠ 0 then { a with timer := some (now + a.interval) } else a

/-- An asserted line's timer stands armed from this tick, where there is an interval. -/
def Alert.Armed (now : Nat) (a : Alert) : Prop :=
  a.line = .asserted → a.interval ≠ 0 → a.timer = some (now + a.interval)

section unit

variable {now : Nat} {a b : Alert} {cleared raised : BitVec 8}

@[simp] theorem Alert.rearmed_pending : (a.rearmed now).pending = a.pending := by
  unfold Alert.rearmed; split <;> rfl
@[simp] theorem Alert.rearmed_mask : (a.rearmed now).mask = a.mask := by
  unfold Alert.rearmed; split <;> rfl
@[simp] theorem Alert.rearmed_interval : (a.rearmed now).interval = a.interval := by
  unfold Alert.rearmed; split <;> rfl
@[simp] theorem Alert.acknowledged_pending : (a.acknowledged now).pending = a.pending := by
  unfold Alert.acknowledged; split <;> rfl
@[simp] theorem Alert.acknowledged_mask : (a.acknowledged now).mask = a.mask := by
  unfold Alert.acknowledged; split <;> rfl
@[simp] theorem Alert.acknowledged_interval : (a.acknowledged now).interval = a.interval := by
  unfold Alert.acknowledged; split <;> rfl

theorem Alert.acknowledged_armed (now : Nat) (a : Alert) : (a.acknowledged now).Armed now := by
  unfold Alert.acknowledged
  split
  · exact fun _ _ => rfl
  next hidle => exact fun hline hinterval => absurd ⟨hline, hinterval⟩ hidle

/-- Judging the line leaves the sources, the mask and the interval (R184). -/
theorem LineJudged.settings (h : LineJudged now a b) :
    b.pending = a.pending ∧ b.mask = a.mask ∧ b.interval = a.interval := by
  obtain ⟨hrest, -⟩ := h
  rw [← hrest]
  exact ⟨rfl, rfl, rfl⟩

/-- A line that a judgement leaves asserted was asserted before, or its timer is armed by it (R184, R186). -/
theorem LineJudged.keepsArmed (h : LineJudged now a b) (ha : a.Armed now) : b.Armed now := by
  obtain ⟨-, -, hinterval⟩ := h.settings
  obtain ⟨-, hnone, hasserts, hstays⟩ := h
  intro hline hsome
  by_cases hpending : a.pending &&& a.mask = 0
  · obtain ⟨hreleased, -⟩ := hnone hpending
    exact absurd (hline.symm.trans hreleased) (by decide)
  · by_cases hreleased : a.line = .released
    · obtain ⟨-, htimer⟩ := hasserts hpending hreleased
      rw [htimer, ← hinterval, if_neg hsome]
    · obtain rfl := hstays hpending hreleased
      exact ha hline hsome

/-- A change of the pending set leaves the mask and the interval (R184). -/
theorem AlertStep.settings (h : AlertStep now cleared raised a b) :
    b.pending = (a.pending &&& ~~~cleared) ||| raised ∧ b.mask = a.mask ∧ b.interval = a.interval := by
  obtain ⟨hsame, hchanged⟩ := h
  by_cases hpending : (a.pending &&& ~~~cleared) ||| raised = a.pending
  · rw [hsame hpending]
    exact ⟨hpending.symm, rfl, rfl⟩
  · exact (hchanged hpending).settings

theorem AlertStep.keepsArmed (h : AlertStep now cleared raised a b) (ha : a.Armed now) : b.Armed now := by
  obtain ⟨hsame, hchanged⟩ := h
  by_cases hpending : (a.pending &&& ~~~cleared) ||| raised = a.pending
  · rwa [hsame hpending]
  · exact (hchanged hpending).keepsArmed ha

/-- Raising sources clears none (R184). -/
theorem AlertStep.raises_pending (h : AlertStep now 0 raised a b) : b.pending = a.pending ||| raised := by
  obtain ⟨hpending, -⟩ := h.settings
  rwa [not_clear] at hpending

end unit

/-! ## What the two requests do -/

section requests

variable {s : State} {c : Ctx} {code tag : Nat} {body : List Byte}

/-- An answer behind a change of the alert unit: it raises the context's RESPONSE source there, and nothing else changes (R179,
R184). -/
theorem Routed.answersFromAlert (h : Routed s c code tag body) (a : Alert) (out : List Byte) :
    Answers s ({ s with alert := a }.answerOk c out) c code tag .ok 0 out ∧
      AlertStep s.time.tick 0 (responseSource c) a ({ s with alert := a }.answerOk c out).alert ∧
      { { s with alert := a }.answerOk c out with requests := s.requests, alert := s.alert } = s := by
  obtain ⟨-, -, hresponse⟩ := h
  obtain ⟨hanswers, -, -⟩ := State.answer_only { s with alert := a } (c := c) hresponse .ok 0 out
  exact ⟨hanswers, State.answer_raises (s := { s with alert := a }) hresponse .ok 0 out, rfl⟩

theorem storedInterval_eq (n : Nat) : storedInterval n = if n = 0 then 0 else max 100 (min n 60000) := by
  unfold storedInterval
  split_ifs <;> omega

theorem State.setAlert_eq (s : State) (mask : Byte) (k : Nat) :
    s.setAlert mask k =
      { s with alert := ({ s.alert with mask := mask, interval := k }.judge s.time.tick).rearmed s.time.tick } := by
  unfold State.setAlert Alert.rearmed
  dsimp only
  split <;> rfl

theorem execAlertSet_eq {mask lo hi : Byte} (h : Routed s c 0x05 tag [mask, lo, hi]) :
    exec (.alertSet c) s =
      .next ((s.setAlert mask (storedInterval (lo.toNat + 256 * hi.toNat))).answerOk c
        ([mask] ++ le 2 (storedInterval (lo.toNat + 256 * hi.toNat)))) := by
  show execAlertSet c s = _
  rw [execAlertSet, h.exec_eq]
  rfl

theorem State.acknowledge_eq (s : State) :
    s.acknowledge =
      { s with alert := (s.clearSource (sourceLockout ||| sourceTrustDrop)).alert.acknowledged s.time.tick } := by
  unfold State.acknowledge Alert.acknowledged realertTimer
  dsimp only
  split
  next harms => rw [if_neg harms.2]; rfl
  · rfl

theorem execAlertRead_eq (h : Routed s c 0x04 tag []) : exec (.alertRead c) s = .next (s.alertRead c) := by
  show execAlertRead c s = _
  rw [execAlertRead, h.exec_eq]
  rfl

/-- The answer behind ALERT_READ's acknowledgement, before the line in PULSE is set apart (R185). -/
theorem Routed.acknowledges (h : Routed s c code tag body) {out : List Byte} {t : State} (ht : t = s.acknowledge.answerOk c out) :
    Answers s t c code tag .ok 0 out ∧
      t.alert.pending = (s.alert.pending &&& ~~~(sourceLockout ||| sourceTrustDrop)) ||| responseSource c ∧
      t.alert.mask = s.alert.mask ∧ t.alert.interval = s.alert.interval ∧ t.alert.Armed s.time.tick ∧
      (∃ a, AlertStep s.time.tick (sourceLockout ||| sourceTrustDrop) 0 s.alert a ∧
        AlertStep s.time.tick 0 (responseSource c) (a.acknowledged s.time.tick) t.alert) ∧
      { t with requests := s.requests, alert := s.alert } = s := by
  have hclear := s.clearSource_step (sourceLockout ||| sourceTrustDrop)
  obtain ⟨-, hclearMask, hclearInterval⟩ := hclear.settings
  obtain ⟨hanswers, hraise, hframe⟩ := h.answersFromAlert
    ((s.clearSource (sourceLockout ||| sourceTrustDrop)).alert.acknowledged s.time.tick) out
  rw [← State.acknowledge_eq, ← ht] at hanswers hraise hframe
  have hpending := hraise.raises_pending
  obtain ⟨-, hmask, hinterval⟩ := hraise.settings
  rw [Alert.acknowledged_pending, State.clearSource_sources] at hpending
  rw [Alert.acknowledged_mask, hclearMask] at hmask
  rw [Alert.acknowledged_interval, hclearInterval] at hinterval
  exact ⟨hanswers, hpending, hmask, hinterval, hraise.keepsArmed (Alert.acknowledged_armed _ _), ⟨_, hclear, hraise⟩, hframe⟩

/-- A pulse is not ended: of the alert unit the pending set alone changes then (log entry 39). -/
theorem State.alertRead_pulse (hpulse : s.alert.line = .pulse) {t : State}
    (ht : t = s.acknowledge.answerOk c ([s.alert.pending, s.alert.mask] ++ le 2 s.alert.interval)) :
    s.alertRead c = { t with alert := { s.alert with pending := t.alert.pending } } := by
  subst ht
  exact if_pos hpulse

theorem State.alertRead_steady (hsteady : s.alert.line ≠ .pulse) :
    s.alertRead c = s.acknowledge.answerOk c ([s.alert.pending, s.alert.mask] ++ le 2 s.alert.interval) :=
  if_neg hsteady

end requests

/-- Settles O28: each request is an answer behind a change of the alert unit, judged and armed as the rules say; a line in PULSE keeps
all of the unit but its sources. -/
theorem alertRequests : Obligations.AlertRequests := by
  refine ⟨fun c tag mask lo hi s n k h hn hk => ?_, fun c tag s h => ?_⟩
  · have hexec := execAlertSet_eq h
    rw [← hn, storedInterval_eq, ← hk, State.setAlert_eq] at hexec
    have hjudged := Alert.judge_judged s.time.tick { s.alert with mask := mask, interval := k }
    obtain ⟨hanswers, hraise, hframe⟩ := h.answersFromAlert
      (({ s.alert with mask := mask, interval := k }.judge s.time.tick).rearmed s.time.tick) ([mask] ++ le 2 k)
    have hpending := hraise.raises_pending
    obtain ⟨-, hmask, hinterval⟩ := hraise.settings
    simp only [Alert.rearmed_pending, Alert.rearmed_mask, Alert.rearmed_interval, Alert.judge_pending, Alert.judge_mask,
      Alert.judge_interval] at hpending hmask hinterval
    refine ⟨_, hexec, hanswers, hpending, hmask, hinterval, ⟨_, _, hjudged, ?_, hraise⟩, hframe⟩
    rw [Alert.rearmed, realertTimer, Alert.judge_interval]
  · obtain ⟨hanswers, hpending, hmask, hinterval, harmed, ⟨a, hclear, hraise⟩, hframe⟩ := h.acknowledges rfl
    refine ⟨_, execAlertRead_eq h, ?_⟩
    by_cases hpulse : s.alert.line = .pulse
    · rw [State.alertRead_pulse hpulse rfl]
      exact ⟨hanswers, hpending, rfl, rfl, fun _ => rfl, fun hsteady => absurd hpulse hsteady,
        fun hline => absurd (hline.symm.trans hpulse) (by decide), hframe⟩
    · rw [Alert.Armed, hinterval] at harmed
      rw [State.alertRead_steady hpulse]
      exact ⟨hanswers, hpending, hmask, hinterval, fun hline => absurd hline hpulse,
        fun _ => ⟨a, _, hclear, rfl, hraise⟩, harmed, hframe⟩

end Sys2Proof.Machine
end

section
/-! # A step runs the command at the front of the queue

No operation of the model touches the queue of commands. Each shared operation has a rule that says so, in the order of the model;
from these `exec_pending`: whatever a command does, what waits behind it goes on waiting (spec/95). -/

namespace Sys2Proof.Machine

open Sys2Proof

section queue

variable (s : State)

/-- Of two ways of going on, the queue is that of the one taken. -/
@[simp] theorem State.ite_pending (p : Prop) [Decidable p] (a b : State) :
    (if p then a else b).pending = if p then a.pending else b.pending := apply_ite State.pending p a b

/-! ## The engine, the hits and the stamps -/

@[simp] theorem State.enqueueJob_pending (r : Requester) (k : JobKind) : (s.enqueueJob r k).pending = s.pending :=
  congrArg (·.pending) (s.enqueueJob_frame r k)

@[simp] theorem State.startNext_pending : s.startNext.pending = s.pending := congrArg (·.pending) s.startNext_frame

@[simp] theorem State.serveAllStamps_pending : s.serveAllStamps.pending = s.pending := by
  obtain ⟨_, _, _, _, _, _, _, e⟩ := s.serveAllStamps_touches
  rw [e]

@[simp] theorem State.askQuoteStamp_pending (c : Ctx) : (s.askQuoteStamp c).pending = s.pending := by
  obtain ⟨_, _, _, _, e⟩ := s.askQuoteStamp_touches c
  rw [e]

/-! ## The update intake -/

@[simp] theorem State.cancelRead_pending (u : JobUser) : (s.cancelRead u).pending = s.pending := by
  obtain ⟨_, e⟩ := s.cancelRead_touches u
  rw [e]

@[simp] theorem State.failSession_pending (reason : FailReason) (detail : Nat) :
    (s.failSession reason detail).pending = s.pending := by
  obtain ⟨_, _, _, _, e⟩ := s.failSession_touches reason detail
  rw [e]

@[simp] theorem State.restSession_pending : s.restSession.pending = s.pending := by
  obtain ⟨_, _, _, e⟩ := s.restSession_touches
  rw [e]

@[simp] theorem State.kickStream_pending : s.kickStream.pending = s.pending := by
  obtain ⟨_, _, e⟩ := s.kickStream_touches
  rw [e]

@[simp] theorem State.tryManifestDigest_pending : s.tryManifestDigest.pending = s.pending := by
  obtain ⟨_, _, e⟩ := s.tryManifestDigest_touches
  rw [e]

@[simp] theorem State.pipeRead_pending (u : JobUser) (base : Nat) (p : Pipe) :
    (s.pipeRead u base p).1.pending = s.pending := by
  unfold State.pipeRead
  split <;> rfl

@[simp] theorem State.pipeDigest_pending (r : Requester) (u : JobUser) (base : Nat) (p : Pipe) (block : List Byte) :
    (s.pipeDigest r u base p block).1.pending = s.pending := by simp [State.pipeDigest]

@[simp] theorem State.pipeBlock_pending (r : Requester) (u : JobUser) (base : Nat) (p : Pipe) (block : List Byte) :
    (s.pipeBlock r u base p block).1.pending = s.pending := by
  unfold State.pipeBlock
  split <;> simp

@[simp] theorem State.pipeAbsorbed_pending (r : Requester) (u : JobUser) (base : Nat) (p : Pipe) (bytes : List Byte) :
    (s.pipeAbsorbed r u base p bytes).1.pending = s.pending := by
  unfold State.pipeAbsorbed
  dsimp only
  split <;> simp

@[simp] theorem State.checkManifest_pending (block : List Byte) (md : Digest) :
    (s.checkManifest block md).pending = s.pending := by
  unfold State.checkManifest
  split
  · simp
  · split <;> simp

@[simp] theorem State.choosePath_pending (m : Manifest) (md : Digest) : (s.choosePath m md).pending = s.pending := by
  simp [State.choosePath]

@[simp] theorem State.checkSignature_pending (m : Manifest) (md : Digest) (ok : Bool) :
    (s.checkSignature m md ok).pending = s.pending := by
  unfold State.checkSignature
  split
  · simp
  · split <;> simp

@[simp] theorem State.checkImage_pending (m : Manifest) (md d : Digest) : (s.checkImage m md d).pending = s.pending := by
  simp [State.checkImage]

@[simp] theorem State.intakeBlock_pending (block : List Byte) : (s.intakeBlock block).pending = s.pending := by
  unfold State.intakeBlock
  split <;> simp

@[simp] theorem State.intakeJob_pending (result : JobResult) : (s.intakeJob result).pending = s.pending := by
  unfold State.intakeJob
  split
  · split <;> simp
  · split <;> simp

/-! ## The restart controller -/

@[simp] theorem State.enterHeld_pending (cause : Cause) : (s.enterHeld cause).pending = s.pending := by
  obtain ⟨-, -, -, -, -, -, -, -, -, -, -, -, -, -, -, -, -, -, h, -⟩ := s.enterHeld_entersHeld cause
  exact h

@[simp] theorem State.trigger_pending (cause : Cause) : (s.trigger cause).pending = s.pending := by simp [State.trigger]

@[simp] theorem State.tryHaltFlash_pending : s.tryHaltFlash.pending = s.pending :=
  congrArg (·.pending) s.tryHaltFlash_frame

@[simp] theorem State.beginRelease_pending (trust : Trust) (halt : HaltReason) :
    (s.beginRelease trust halt).pending = s.pending := by simp [State.beginRelease]

@[simp] theorem State.releaseJob_pending (stage : ReleaseStage) (trust : Trust) (d : Digest) :
    (s.releaseJob stage trust d).pending = s.pending := congrArg (·.pending) (s.releaseJob_frame stage trust d)

@[simp] theorem State.startVerify_pending (v : Verify) : (s.startVerify v).pending = s.pending := rfl

@[simp] theorem State.rejectSlot_pending (v : Verify) (md : Digest) (reason : SlotResult) :
    (s.rejectSlot v md reason).pending = s.pending := by simp [State.rejectSlot]

@[simp] theorem State.verifyManifest_pending (v : Verify) (block : List Byte) (md : Digest) :
    (s.verifyManifest v block md).pending = s.pending := by
  unfold State.verifyManifest
  split
  · simp
  · split
    · simp
    · dsimp only
      split <;> simp

@[simp] theorem State.verifySignature_pending (v : Verify) (m : Manifest) (md : Digest) (p : Pipe) (ok : Bool) :
    (s.verifySignature v m md p ok).pending = s.pending := by
  unfold State.verifySignature
  cases p.waiting <;> simp

@[simp] theorem State.verifyImage_pending (v : Verify) (m : Manifest) (md d : Digest) :
    (s.verifyImage v m md d).pending = s.pending := by simp [State.verifyImage, State.passSlot]

@[simp] theorem State.restartBlock_pending (block : List Byte) : (s.restartBlock block).pending = s.pending := by
  unfold State.restartBlock
  split <;> simp

@[simp] theorem State.restartJob_pending (result : JobResult) : (s.restartJob result).pending = s.pending := by
  unfold State.restartJob
  split <;> simp

@[simp] theorem State.selectSlot_pending : s.selectSlot.pending = s.pending := by
  obtain ⟨_, _, _, e⟩ := s.selectSlot_touches
  rw [e]

@[simp] theorem State.reconcileSession_pending : s.reconcileSession.pending = s.pending := by simp [State.reconcileSession]

/-! ## The retained store and the credential store -/

@[simp] theorem State.compareCheck_pending (c : Ctx) (slot : Fin 32) : (s.compareCheck c slot).1.pending = s.pending := by
  unfold State.compareCheck
  split
  · simp
  · split <;> simp

@[simp] theorem State.tryCompare_pending (c : Ctx) (slot : Fin 32) : (s.tryCompare c slot).pending = s.pending := by
  simp [State.tryCompare, State.submitCompare]

@[simp] theorem State.decideWrite_pending (w : Write) : (s.decideWrite w).pending = s.pending := by
  unfold State.decideWrite
  split <;> simp

@[simp] theorem State.answerWrite_pending (w : Write) (st : Status) (detail : Nat) (body : List Byte) :
    (s.answerWrite w st detail body).pending = s.pending := by
  unfold State.answerWrite
  split <;> simp

@[simp] theorem State.dropClaim_pending (c : Ctx) : (s.dropClaim c).pending = s.pending := by simp [State.dropClaim]

@[simp] theorem State.dropWriteClaim_pending (w : Write) : (s.dropWriteClaim w).pending = s.pending := by
  unfold State.dropWriteClaim
  split <;> simp

theorem State.recordDone_pending (passed : Bool) : (s.recordDone passed).pending = s.pending := by
  unfold State.recordDone
  split <;> simp [State.afterPass, State.afterReject, State.noSlot]

theorem State.confirmDone_pending (w : Write) : (s.confirmDone w).pending = s.pending := by
  unfold State.confirmDone
  dsimp only
  split <;> simp

theorem State.loadDone_pending (w : Write) : (s.loadDone w).pending = s.pending := by
  unfold State.loadDone
  cases w.ctx? <;> simp

theorem State.credGroupDone_pending (w : Write) (rs : List (Fin 32 × Option CredContent)) :
    (s.credGroupDone w rs).pending = s.pending := by
  unfold State.credGroupDone
  cases w.ctx? <;> simp

/-- The block that is told of a completed write leaves the queue, whichever it is (R187). -/
@[simp] theorem State.writeDone_pending (w : Write) : (s.writeDone w).pending = s.pending := by
  unfold State.writeDone
  split
  · simp
  · rfl
  · rfl
  · rfl
  · exact s.recordDone_pending _
  · exact s.recordDone_pending _
  · simp [State.openDone]
  · simp [State.commitDone]
  · simp
  · exact s.confirmDone_pending w
  · exact s.loadDone_pending w
  · simp
  · simp
  · simp
  · simp [State.advanceDone]
  · simp
  · simp [State.mismatchDone]
  · exact s.credGroupDone_pending w _
  · simp [State.wipeDone]

@[simp] theorem State.writeCompletes_pending (w : TakenWrite) : (s.writeCompletes w).pending = s.pending := by
  obtain ⟨_, _, _, _, e⟩ := s.writeCompletes_touches w
  rw [e]
  exact (s.completed w).writeDone_pending w.write

/-! ## The ends of jobs -/

@[simp] theorem State.condRefuse_pending (c : Ctx) (f : Status × Nat) : (s.condRefuse c f).pending = s.pending := by
  simp [State.condRefuse]

@[simp] theorem State.prepare_pending (c : Ctx) (done : List (Fin 32 × Option CredContent)) (again : Bool) (rs : List NewCred) :
    (s.prepare c done again rs).pending = s.pending := by
  induction rs generalizing done with
  | nil =>
    unfold State.prepare State.queueGroup
    split <;> simp
  | cons n rs ih => simp [State.prepare, ih]

@[simp] theorem State.compareDone_pending (c : Ctx) (slot : Fin 32) (version : Nat) (matched : Bool) :
    (s.compareDone c slot version matched).pending = s.pending := by
  simp [State.compareDone, State.submitCompare, State.compareStands]

@[simp] theorem State.ctxJob_pending (c : Ctx) (result : JobResult) : (s.ctxJob c result).pending = s.pending := by
  unfold State.ctxJob
  generalize s.work? c = w
  rcases w with _ | w
  · rfl
  · cases w with
    | extending n => cases result <;> simp [State.extendDone]
    | deriving_ => cases result <;> simp [State.deriveDone]
    | comparing slot version => cases result <;> simp
    | preparing done n salt rest => cases result <;> simp
    | quoting =>
      cases result with
      | signature sig => dsimp only; split <;> simp
      | _ => simp
    | _ => rfl

@[simp] theorem State.handResult_pending (j : RunningJob) : (s.handResult j).pending = s.pending := by
  unfold State.handResult
  cases j.job.requester <;> simp

/-! ## The storage link -/

@[simp] theorem State.reportForward_pending (f : HostForward) : (s.reportForward f).pending = s.pending :=
  congrArg (·.pending) (s.reportForward_frame f)

@[simp] theorem State.loadAfterForward_pending : s.loadAfterForward.pending = s.pending :=
  congrArg (·.pending) s.loadAfterForward_frame

/-! ## Requests -/

@[simp] theorem State.answerClaimed_pending (c : Ctx) (st : Status) (detail : Nat) (body : List Byte) :
    (s.answerClaimed c st detail body).pending = s.pending := by simp [State.answerClaimed]

@[simp] theorem State.checkRegionLoad_pending (c : Ctx) (body : List Byte) : (s.checkRegionLoad c body).pending = s.pending := by
  unfold State.checkRegionLoad
  cases (Table.ofBytes body).firstFailure <;> simp

@[simp] theorem State.checkInject_pending (c : Ctx) (body : List Byte) : (s.checkInject c body).pending = s.pending := by
  unfold State.checkInject
  cases updateKeyIndex (byteAt body 0) <;> simp

@[simp] theorem State.checkProvisioning_pending (c : Ctx) (code : Nat) (body : List Byte) :
    (s.checkProvisioning c code body).pending = s.pending := by
  simp [State.checkProvisioning, State.checkIdentity, State.checkCertificate, State.checkAdvance]

@[simp] theorem State.provision_pending (c : Ctx) (code : Nat) (body : List Byte) :
    (s.provision c code body).pending = s.pending := by simp [State.provision]

@[simp] theorem State.openRequest_pending (c : Ctx) (body : List Byte) : (s.openRequest c body).pending = s.pending := by
  simp [State.openRequest]

@[simp] theorem State.resetContext_pending (c : Ctx) : (s.resetContext c).pending = s.pending := by
  have hsession : ((s.setReservation c .none).resetSession c).pending = s.pending := by
    unfold State.resetSession
    dsimp only
    split <;> simp
  unfold State.resetContext
  dsimp only
  split <;> simpa using hsession

@[simp] theorem State.extendRequest_pending (c : Ctx) (body : List Byte) : (s.extendRequest c body).pending = s.pending := by
  unfold State.extendRequest
  cases registerIndex (byteAt body 0) <;> simp

@[simp] theorem State.compareRequest_pending (c : Ctx) (body : List Byte) : (s.compareRequest c body).pending = s.pending := by
  unfold State.compareRequest
  cases credSlot (byteAt body 0) <;> simp

@[simp] theorem State.reserveRequest_pending (c : Ctx) (body : List Byte) : (s.reserveRequest c body).pending = s.pending := by
  unfold State.reserveRequest
  split
  · simp
  · split
    · simp
    · split
      · simp
      · split <;> simp

@[simp] theorem State.condRequest_pending (c : Ctx) (body : List Byte) : (s.condRequest c body).pending = s.pending := by
  unfold State.condRequest
  split
  · simp
  · split <;> simp

/-! ## The upstream link -/

@[simp] theorem State.refuse_pending (start : Nat) (kind : AccessKind) (region : Option Nat) :
    (s.refuse start kind region).pending = s.pending := by
  obtain ⟨_, _, _, _, _, e⟩ := s.refuse_touches start kind region
  rw [e]

@[simp] theorem State.deliverProgram_pending (page base : Nat) (runs : List (Nat × List Byte)) :
    (s.deliverProgram page base runs).1.pending = s.pending := by
  obtain ⟨_, _, _, _, _, _, e⟩ := s.deliverProgram_touches page base runs
  rw [e]

@[simp] theorem State.eraseAperture_pending (page : Nat) : (s.eraseAperture page).pending = s.pending := by
  obtain ⟨_, _, e⟩ := s.eraseAperture_touches page
  rw [e]

@[simp] theorem State.endRead_pending (b : Bool) : (s.endRead b).pending = s.pending := by
  obtain ⟨_, _, _, _, _, e⟩ := s.endRead_touches b
  rw [e]

@[simp] theorem State.clockAll_pending (cmd : LinkCmd) (bytes : List Byte) : (s.clockAll cmd bytes).pending = s.pending := by
  obtain ⟨_, _, _, e⟩ := State.clockAll_touches cmd bytes s
  rw [e]

@[simp] theorem State.performProgram_pending (start n : Nat) (bytes : List Byte) :
    (s.performProgram start n bytes).pending = s.pending := by
  unfold State.performProgram
  dsimp only
  split <;> simp [State.countRefused]

@[simp] theorem State.forwardErase_pending (start : Nat) (ops : List FlashOp) (rs : List (Nat × Record)) :
    (s.forwardErase start ops rs).pending = s.pending := by simp [State.forwardErase]

@[simp] theorem State.performSectorErase_pending (start : Nat) : (s.performSectorErase start).pending = s.pending := by
  unfold State.performSectorErase
  dsimp only
  split <;> simp

@[simp] theorem State.performBlockErase_pending (start : Nat) : (s.performBlockErase start).pending = s.pending := by
  unfold State.performBlockErase
  dsimp only
  split <;> simp

@[simp] theorem State.perform_pending (cmd : LinkCmd) (stray : Nat) : (s.perform cmd stray).pending = s.pending := by
  cases cmd <;> simp [State.perform, State.performChipErase]

/-- No part of a transaction of the host touches the queue (R21). -/
@[simp] theorem State.linkStep_pending (cmd : LinkCmd) (step : LinkStep) : (s.linkStep cmd step).pending = s.pending := by
  have hselect : s.select.pending = s.pending := by simp [State.select]
  have htake (u : State) : (u.takeCommand cmd).pending = u.pending := by simp [State.takeCommand]
  cases step <;> simp [State.linkStep, State.release, State.transact, hselect, htake]

end queue

/-! ## The commands -/

/-- A command of a running part leaves the queue where its effect does. -/
theorem event_pending {s t : State} {f : State → State} (e : whenRunning s f = .next t) (hf : (f s).pending = s.pending) :
    t.pending = s.pending := whenRunning_keeps (P := fun u => u.pending = s.pending) rfl hf e

/-- A request's command leaves the queue where its owner's work does, whatever the body. -/
theorem request_pending {s t : State} {c : Ctx} {code : Nat} {f : List Byte → State → State}
    (e : (whenRunning s fun s => s.onRequest c code f) = .next t) (hf : ∀ body, (f body s).pending = s.pending) :
    t.pending = s.pending :=
  event_pending e (State.onRequest_keeps (P := fun u => u.pending = s.pending) rfl hf)

theorem execBackgroundJobRun_pending {s t : State} {count : Nat} (e : execBackgroundJobRun count s = .next t) :
    t.pending = s.pending := by
  unfold execBackgroundJobRun at e
  split at e
  · cases e; rfl
  · split at e
    · split at e <;> cases e
      rfl
    · cases e; rfl

theorem execCryptoJobEnd_pending {s t : State} (e : execCryptoJobEnd s = .next t) : t.pending = s.pending := by
  refine event_pending e ?_
  split
  · rfl
  · dsimp only
    split <;> simp

theorem execBackgroundReadComplete_pending {s t : State} (e : execBackgroundReadComplete s = .next t) :
    t.pending = s.pending := by
  refine event_pending e ?_
  split
  · rfl
  · rename_i j _
    cases j.user <;> simp

theorem execRetainedWriteTake_pending {s t : State} (e : execRetainedWriteTake s = .next t) : t.pending = s.pending := by
  refine event_pending e ?_
  split
  · simp
  · rfl

theorem execRetainedWriteComplete_pending {s t : State} (e : execRetainedWriteComplete s = .next t) :
    t.pending = s.pending := by
  refine event_pending e ?_
  split
  · rfl
  · exact s.writeCompletes_pending _

theorem execHostForwardComplete_pending {s t : State} {took : Bool} (e : execHostForwardComplete took s = .next t) :
    t.pending = s.pending := by
  refine event_pending e ?_
  split <;> simp

theorem execHeldEnd_pending {s t : State} (e : execHeldEnd s = .next t) : t.pending = s.pending := by
  refine event_pending e ?_
  split
  · dsimp only
    split <;> simp
  · rfl

theorem execUpdateCommit_pending {s t : State} {c : Ctx} (e : execUpdateCommit c s = .next t) : t.pending = s.pending := by
  refine request_pending e fun body => ?_
  split
  · simp
  · split
    · simp
    · split <;> simp [State.commitSession]

theorem execCredRead_pending {s t : State} {c : Ctx} (e : execCredRead c s = .next t) : t.pending = s.pending := by
  refine request_pending e fun body => ?_
  split
  · simp
  · split
    · simp
    · split <;> simp

/-- Whatever a command does, the commands that wait behind it stay as they are (spec/95). -/
theorem exec_pending {i : Instr} {s t : State} (e : exec i s = .next t) : t.pending = s.pending := by
  have link {cmd : LinkCmd} {step : LinkStep} (e : (whenRunning s fun s => s.linkStep cmd step) = .next t) :
      t.pending = s.pending := event_pending e (s.linkStep_pending cmd step)
  have empty {c : Ctx} {code : Nat} {f : State → State}
      (e : (whenRunning s fun s => s.onRequest c code fun body s => s.whenEmpty c body (f s)) = .next t)
      (hf : (f s).pending = s.pending) : t.pending = s.pending :=
    request_pending e fun body => by simp [State.whenEmpty, hf]
  unfold exec at e
  cases i with
  | powerOn hcs rstReq => cases e; split <;> rfl
  | resetNLow => cases e; rfl
  | lineReset hcs =>
    cases e
    split
    · dsimp only
      split <;> rfl
    · rfl
  | restartLine => cases e; simp
  | rstReqNDeassert => cases e; rfl
  | powerLoss => cases e; rfl
  | tick presence => exact event_pending e (by simp)
  | trialExpiry => exact event_pending e (by simp)
  | trialAlertRaise => exact event_pending e (by split <;> simp)
  | idleTimeout => exact event_pending e (by simp)
  | timeout c => exact event_pending e (by simp [State.assemblerAnswer])
  | requestBusyCapExpiry c => exact event_pending e (by simp)
  | presenceRelease => exact event_pending e (by simp)
  | presenceGrantOpen => exact event_pending e (by simp)
  | presenceGrantExpiry => exact event_pending e (by simp)
  | lockoutExpiry slot => exact event_pending e (by simp)
  | realertExpiry => exact event_pending e (by simp)
  | pulseEnd => exact event_pending e (by simp)
  | stampWaitServe => exact event_pending e (by simp)
  | ignoringTransactionEnd => exact event_pending e (by simp)
  | read step => exact link e
  | fastRead step => exact link e
  | quadOutputFastRead step => exact link e
  | writeEnable step => exact link e
  | writeDisable step => exact link e
  | readStatus step => exact link e
  | readIdentification step => exact link e
  | pageProgram step => exact link e
  | sectorErase step => exact link e
  | blockErase step => exact link e
  | chipErase step => exact link e
  | unknownCommand code step => exact link e
  | substituteEraseNext took =>
    refine event_pending e ?_
    split
    · rfl
    · split <;> rfl
  | hostForwardComplete took => exact execHostForwardComplete_pending e
  | capacityHandover id took => exact event_pending e (by split <;> simp)
  | backgroundJobRun count => exact execBackgroundJobRun_pending e
  | backgroundReadComplete => exact execBackgroundReadComplete_pending e
  | cryptoJobEnd => exact execCryptoJobEnd_pending e
  | retainedWriteTake => exact execRetainedWriteTake_pending e
  | retainedWriteComplete => exact execRetainedWriteComplete_pending e
  | heldEnd => exact execHeldEnd_pending e
  | provisioningClaimGrant =>
    refine event_pending e ?_
    split
    · split <;> simp
    · rfl
  | identityDrawDone => exact event_pending e (by split <;> simp [State.drawIdentity])
  | info c => exact empty e rfl
  | contextReset c => exact empty e (s.resetContext_pending c)
  | restart c => exact empty e (by simp)
  | alertRead c => exact empty e (by simp [State.alertRead, State.acknowledge])
  | alertSet c => exact request_pending e fun body => by simp [State.setAlert]
  | closeBootWindow c => exact empty e rfl
  | regionRead c => exact request_pending e fun body => by simp
  | regionLoad c => exact request_pending e fun body => s.provision_pending c _ body
  | watchLoad c => exact request_pending e fun body => by cases watchLoadCheck body <;> simp
  | watchRead c => exact empty e rfl
  | hitsRead c => exact request_pending e fun body => by simp [State.clearHits]
  | extend c => exact request_pending e fun body => s.extendRequest_pending c body
  | measureRead c => exact request_pending e fun body => by simp
  | quote c => exact request_pending e fun body => by simp [State.quoteRequest]
  | certRead c => exact empty e rfl
  | updateOpen c => exact request_pending e fun body => s.openRequest_pending c body
  | stagingBank c => exact request_pending e fun body => by simp
  | updateFinish c => exact request_pending e fun body => by simp [State.finishSession]
  | updateStatus c => exact empty e rfl
  | updateCommit c => exact execUpdateCommit_pending e
  | updateAbort c => exact request_pending e fun body => by simp [State.abortSession]
  | bootConfirm c => exact request_pending e fun body => by simp
  | identityGenerate c => exact request_pending e fun body => s.provision_pending c _ body
  | certStore c => exact request_pending e fun body => s.provision_pending c _ body
  | keyInject c => exact request_pending e fun body => s.provision_pending c _ body
  | keyRead c => exact empty e rfl
  | derive c => exact request_pending e fun body => by simp [State.deriveRequest]
  | lifecycleAdvance c => exact request_pending e fun body => s.provision_pending c _ body
  | timeSet c => exact request_pending e fun body => by simp
  | timeRead c => exact empty e rfl
  | credList c => exact empty e rfl
  | credRead c => exact execCredRead_pending e
  | credReserve c => exact request_pending e fun body => s.reserveRequest_pending c body
  | credWriteCond c => exact request_pending e fun body => s.condRequest_pending c body
  | credCompare c => exact request_pending e fun body => s.compareRequest_pending c body
  | ownerWipe c => exact empty e (by simp [State.wipeTaken])

/-! ## The statement -/

theorem step_of_pending_cons {s : State} {c : Instr} {rest : List Instr} (h : s.pending = c :: rest) :
    step s = exec c { s with pending := rest } := by
  unfold step
  rw [h]

/-- Settles O1: a step is the front command's meaning on the queue's rest, and no command touches what waits behind it. -/
theorem stepRunsFrontCommand : Obligations.StepRunsFrontCommand := by
  intro c rest s h
  refine ⟨step_of_pending_cons h, fun t ht => ?_⟩
  rw [step_of_pending_cons h] at ht
  exact exec_pending ht

end Sys2Proof.Machine
end
